-- ==== Sys2Proof/Word.lean ====
section
/-!
DEFINITION. The bit strings of the module and the sparse tables that hold its stores.
Data is little-endian and bit 0 is the least significant bit (R11).
-/

namespace Sys2Proof

/-- One byte of memory. -/
abbrev Byte := BitVec 8

/-- A register of up to 64 bits (R15); a 32-bit register is zero-extended. -/
abbrev Word := BitVec 64

/-- A table by key: keys strictly rising. What an unlisted key reads as is said where the table is read. -/
abbrev Tab (α : Type) := List (Nat × α)

end Sys2Proof
end

