-- ==== Sys2Proof/Config.lean ====
section
/-!
DEFINITION. What is fixed for the chip, and the free values: what the spec leaves open.
A free value has no body, so a claim about it holds whatever it is.
-/

namespace Sys2Proof

/-- The n-th value the spec leaves open (DESIGN CHOICE: log entry 10); State's field `free` numbers them. -/
opaque Config.freeNat : Nat → Nat

/-- What INT32 VABS (0x16) and VNEG (0x17) give for the operand 0x8000_0000: the spec states no result there. It depends on the operation and
the operand alone (R3) (DESIGN CHOICE: log entry 20). -/
opaque Config.int32Corner : Nat → Nat → Nat

/-- Flits that a transfer of some bytes makes on the tile plane (0) or on a die edge (1): the spec states no number (DESIGN CHOICE: log entry 121). -/
opaque Config.flits : Nat → Nat → Nat

/-- SHA-256 of the ROM, fixed per stepping (R525); the spec does not state it. -/
opaque Config.romHash : BitVec 256

end Sys2Proof
end

