-- ==== Sys2Proof/Syntax.lean ====
section
/-!
DEFINITION. The commands of the block: one constructor per row of spec/opcode_table.json, with what the row needs said:
which tile, steward, port, context, and whatever the surroundings decide (a packet, a measured temperature, an outcome).
-/

namespace Sys2Proof

/-- Who accesses a register (R52, R60, Table 2-8): F0 by the command transport, the Compass firmware, or steward n of tile t. -/
inductive Who where
  | f0
  | compass
  | steward (t n : Nat)
  deriving DecidableEq, Repr

/-- Where a context command comes from: a write of CTX_CMD (R52), or the entry at the front of submission queue F:q (R428). -/
inductive Src where
  | reg (who : Who)
  | queue (f q : Nat)
  deriving DecidableEq, Repr

/-- A Bluwen packet: the header flit of Table 12-4 and the payload bytes (R362). -/
structure Packet where
  hdr : BitVec 512
  pay : List Byte
  deriving DecidableEq, Repr

/-- The Ethernet frame of an arriving packet (R406, R407): the sub-port it arrived at, its destination MAC address (broadcast unless given),
its length in bytes, whether it holds an IP fragment, and whether it has IPv4 options or IPv6 extension headers. -/
structure Frame where
  sub   : Nat := 0
  mac   : BitVec 48 := 0xFFFFFFFFFFFF#48
  len   : Nat := 64
  cut   : Bool := false
  extra : Bool := false
  deriving DecidableEq, Repr

/-- A command datagram as it arrives (R409, R410): addresses, the sender's UDP port, the VLAN id if the frame is tagged, header of Table 13-3,
body, its own UDP destination port (the Legend default unless given), and its frame. -/
structure Datagram where
  v6     : Bool
  srcIp  : BitVec 128
  dstIp  : BitVec 128
  port   : BitVec 16
  vlan   : Option (BitVec 12)
  hdr    : BitVec 256
  body   : List Byte
  dport  : BitVec 16 := 24680#16
  frame  : Frame := {}
  deriving DecidableEq, Repr

/-- How a Send arrives (R430): plain or with immediate data, or as one of the kinds that are not supported. -/
inductive RoceKind where
  | send
  | immediate (data : BitVec 32)
  | invalidate (rkey : BitVec 32)
  | atomic
  deriving DecidableEq, Repr

/-- A RoCEv2 request or response as it arrives (R430): the fields the module acts on, with the ECN mark. -/
structure Roce where
  v6      : Bool
  srcIp   : BitVec 128
  dstIp   : BitVec 128
  vlan    : Option (BitVec 12)
  qpn     : Nat
  psn     : Nat
  rkey    : BitVec 32
  addr    : Nat
  len     : Nat
  first   : Bool
  last    : Bool
  pay     : List Byte
  icrcOk  : Bool
  ecn     : Bool
  kind    : RoceKind := .send
  frame   : Frame := {}
  deriving DecidableEq, Repr

/-- What a RoCEv2 acknowledgement says (R430). -/
inductive RoceAns where
  | ack
  | rnr
  | nakSequence
  | nakInvalid
  | nakAccess
  deriving DecidableEq, Repr

/-- One request a scratchpad port presents in a cycle (R282): a write of bytes at an offset, or a read of n bytes. -/
inductive PortReq where
  | write (off : Nat) (data : List Byte)
  | read (off n : Nat)
  deriving DecidableEq, Repr

/-- Who presents the request of the XFER port (Table 9-1). -/
inductive XferAgent where
  | dump
  | st (n : Nat)
  | cpy
  | inbound
  deriving DecidableEq, Repr

/-- An error a read of a scratchpad word meets in a cycle (R289, R291). -/
inductive EccFind where
  | ce
  | ue
  deriving DecidableEq, Repr

/-- What the four ports present in one cycle, whether the survey walk is within a region step (R296), and the ECC errors the cells
show in the words read (R284, R289). -/
structure BankCycle where
  survey : Bool
  feedA : Option PortReq
  feedB : Option PortReq
  vec   : Option PortReq
  xfer  : List (XferAgent × PortReq)
  ecc   : List (Nat × EccFind)
  deriving DecidableEq, Repr

/-- What a read of a line shows: the connections whose symbols are in error at the stack (R312), corrections that the dies report (R311), or
a correctable or an uncorrectable error of the line in the cache arrays (R310). -/
inductive LineOutcome where
  | symbols (conns : List Nat)
  | onDie (count : Nat)
  | cacheCe
  | cacheUe
  deriving DecidableEq, Repr

/-- How a Bluwen port's training ends (R356, R372). -/
structure TrainEnd where
  lanes    : BitVec 4
  genMatch : Bool
  peerDev  : Nat
  peerPort : Nat
  deriving DecidableEq, Repr

/-- The Legend values that are not registers (Table 16-6): interleave, masks, curves, the health weights, and the output
weights of the channels (Table 12-7). -/
structure Legend where
  uniform  : Bool := false
  chmask   : List (BitVec 64) := [0x0840, 0x1080, 0x2100, 0x4200, 0x8400]
  pcmask   : BitVec 64 := 0x10000
  curve    : List (Nat × Nat) := [(170, 8), (176, 16), (182, 24), (186, 32)]
  tHard    : Nat := 190
  hardIdle : Nat := 48
  tCrit    : Nat := 210
  dieCurve : List (Nat × Nat) := [(190, 2), (200, 4), (210, 6)]
  dieHard  : Nat := 220
  dieCrit  : Nat := 240
  erase    : Nat := 0
  weights  : List (Nat × Nat) :=
    [(1600, 400), (1600, 400), (1600, 400), (16, 100), (1600, 400), (8, 100), (160, 200), (4000, 750), (4000, 750), (1600, 500), (80, 50),
     (800, 400), (480, 300)]
  vcWeights : List Nat := [2, 4, 0, 0, 0, 4, 3, 1]
  deriving DecidableEq, Repr

/-- What the surroundings and the silicon decide in a start-up (R33, R329, R510, R560): the straps, stacks that fail training, edges that
fail with whether by a timeout, lanes replaced at an edge, whether the flash can be read, and what the Legend tables say whose layout
the spec does not give. -/
structure StartEnv where
  straps    : BitVec 3
  stackFail : List Nat
  edgeFail  : List (Nat × Bool)
  repaired  : List (Nat × Nat)
  flashOk   : Bool
  legend    : Legend
  deriving DecidableEq, Repr

/-- The measurements of one rail in a sample (R552, R553). -/
structure RailSample where
  mV    : Nat
  cA    : Nat
  fault : Bool
  deriving DecidableEq, Repr

/-- A unit that waits with a watchdog (R483). -/
inductive WaitUnit where
  | st (t n : Nat)
  | ma (t a st : Nat)
  | vxe (t : Nat)
  | cpy (t : Nat)
  | hostQueue (f q : Nat)
  deriving DecidableEq, Repr

/-- How a flash operation of the boot core ends (R516, Table 16-10). -/
inductive FlashEnd where
  | ok
  | error
  deriving DecidableEq, Repr

/-- The commands, in the order of the table. Tiles are 0–127, stewards 0–1, arrays 0–1, streams 0–1, ports 0–15, contexts 0–15,
stacks 0–19, dies 0–3, books 0–15, functions 0–15. -/
inductive Instr where
  | registerWrite (who : Who) (addr width : Nat) (value : Word)
  | flitCrcFailure (edge die : Nat)
  | edgeLane (edge : Nat)
  | create (who : Who) (c func : Nat) (nondet : Bool)
  | load (src : Src) (c : Nat)
  | loadComplete (c : Nat)
  | start (src : Src) (c : Nat)
  | teardown (src : Src) (c : Nat)
  | remap (src : Src) (c : Nat)
  | contextStart (c : Nat)
  | drainEnd (c : Nat)
  | teardownTimeout (c : Nat)
  | mailboxDelivery (t m : Nat)
  | messageQueueEntry (t q : Nat)
  | waypointRelease (c : Nat)
  | holdRaise (c : Nat)
  | rv64Instruction (t n : Nat)
  | fenceI (t n : Nat)
  | lr (t n : Nat)
  | sc (t n : Nat)
  | amo (t n : Nat)
  | mret (t n : Nat)
  | wfi (t n : Nat)
  | ecall (t n : Nat)
  | ebreak (t n : Nat)
  | msend (t n : Nat)
  | mrecv (t n : Nat)
  | qpush (t n : Nat)
  | qpop (t n : Nat)
  | issue (t n : Nat)
  | waitc (t n : Nat)
  | vxrun (t n : Nat)
  | fenceL (t n : Nat)
  | fenceD (t n : Nat)
  | fenceF (t n : Nat)
  | fenceG (t n : Nat)
  | waypoint (t n : Nat)
  | pmark (t n : Nat)
  | datum (t n : Nat)
  | dbgHalt (who : Who) (t n : Nat)
  | dbgResume (who : Who) (t n : Nat)
  | dbgStep (who : Who) (t n : Nat)
  | descriptorDecode (t a st : Nat)
  | shadowLoad (t a st : Nat)
  | mac (t a st : Nat) (ue : Bool)
  | l1 (t a st : Nat) (ue : Bool)
  | l2sq (t a st : Nat) (ue : Bool)
  | maxplus (t a st : Nat) (ue : Bool)
  | minplus (t a st : Nat) (ue : Bool)
  | hamm (t a st : Nat) (ue : Bool)
  | fill (t a st : Nat) (ue : Bool)
  | passComplete (t a st : Nat) (ue : Bool)
  | maDescHead (who : Who) (t a st : Nat) (value : Word)
  | runBegin (t : Nat)
  | nop (t : Nat) (ue : Bool)
  | endIteration (t : Nat) (ue : Bool)
  | vld (t : Nat) (ue : Bool)
  | vst (t : Nat) (ue : Bool)
  | vldb (t : Nat) (ue : Bool)
  | mld (t : Nat) (ue : Bool)
  | mst (t : Nat) (ue : Bool)
  | vadd (t : Nat) (ue : Bool)
  | vsub (t : Nat) (ue : Bool)
  | vmul (t : Nat) (ue : Bool)
  | vfma (t : Nat) (ue : Bool)
  | vmax (t : Nat) (ue : Bool)
  | vmin (t : Nat) (ue : Bool)
  | vabs (t : Nat) (ue : Bool)
  | vneg (t : Nat) (ue : Bool)
  | vdiv (t : Nat) (ue : Bool)
  | vsel (t : Nat) (ue : Bool)
  | viota (t : Nat) (ue : Bool)
  | vcmp (t : Nat) (ue : Bool)
  | mop (t : Nat) (ue : Bool)
  | cvt (t : Nat) (ue : Bool)
  | nlu (t : Nat) (ue : Bool)
  | vder (t : Nat) (ue : Bool)
  | rclr (t : Nat) (ue : Bool)
  | racc (t : Nat) (ue : Bool)
  | rget (t : Nat) (ue : Bool)
  | smxe (t : Nat) (ue : Bool)
  | smxn (t : Nat) (ue : Bool)
  | smxb (t : Nat) (ue : Bool)
  | topk (t : Nat) (ue : Bool)
  | ftqpop (t : Nat) (ue : Bool)
  | ftqEntryPoppable (t a : Nat)
  | accrd (t : Nat) (ue accUe : Bool)
  | accmsk (t : Nat) (ue : Bool)
  | accrel (t : Nat) (ue : Bool)
  | contourEviction (t tensor : Nat)
  | liveFieldUpdate (c tick : Nat)
  | vsOpen (who : Who) (t slot buf : Nat)
  | vsClose (who : Who) (t slot buf : Nat) (tag : BitVec 16)
  | bufferOpens (t slot buf : Nat)
  | closeTakesEffect (t slot buf : Nat)
  | versionBusy (t slot buf : Nat)
  | vsCfgWrite (who : Who) (t slot : Nat) (value : Word)
  | bankArbitration (t : Nat) (cycle : BankCycle)
  | writeBack (t bank : Nat)
  | surveyRegionStep (t : Nat) (failing : List Nat) (ecc : List (Nat × EccFind))
  | hbmAccess (id : Nat)
  | lineDecode (addr : Nat) (outcome : LineOutcome)
  | sequencedReduction (id : Nat)
  | unsequencedReduction (id : Nat)
  | entryAllocation (unit : Nat)
  | seqTimeout (line : Nat)
  | scacheFlush (who : Who) (die : Nat)
  | scacheClear (who : Who) (die : Nat)
  | scacheCmdComplete (die : Nat)
  | pinCtlWrite (who : Who) (die : Nat) (value : Word)
  | scrub (addr : Nat) (outcome : LineOutcome)
  | quar (who : Who) (stack : Nat)
  | regulatorWrite (who : Who) (stack part : Nat) (value : Word)
  | temperatureReport (stack temp : Nat)
  | copyDecode (t : Nat)
  | copy (t : Nat)
  | toWb (t : Nat)
  | fromWb (t : Nat)
  | gather (t : Nat)
  | copyReduce (t : Nat)
  | copyComplete (t : Nat)
  | cpyDescHead (who : Who) (t : Nat) (value : Word)
  | linkBlock (p : Nat) (flits : List Byte) (trailer : BitVec 128) (corrected : Option Nat)
  | retraining (p : Nat)
  | retrainingEnd (p : Nat)
  | retrainBudget (p : Nat)
  | portEnable (who : Who) (p : Nat)
  | portDisable (who : Who) (p : Nat)
  | portTrainingEnd (p : Nat) (result : TrainEnd)
  | trainingTimeout (p : Nat)
  | trainingRetry
  | packetSend (p vc : Nat)
  | transit (p : Nat) (pkt : Packet)
  | write (p : Nat) (pkt : Packet)
  | wack (p : Nat) (pkt : Packet)
  | read (p : Nat) (pkt : Packet)
  | rdata (p : Nat) (pkt : Packet)
  | reduce (p : Nat) (pkt : Packet)
  | rack (p : Nat) (pkt : Packet)
  | msg (p : Nat) (pkt : Packet)
  | mack (p : Nat) (pkt : Packet)
  | contribution (id : Nat)
  | ccred (p : Nat) (pkt : Packet)
  | arrive (p : Nat) (pkt : Packet)
  | release (p : Nat) (pkt : Packet)
  | hold (p : Nat) (pkt : Packet)
  | clear (p : Nat) (pkt : Packet)
  | holdDecision (c : Nat)
  | resume (p : Nat) (pkt : Packet)
  | jobResume (c : Nat)
  | holdWatchdog (c : Nat)
  | abort (p : Nat) (pkt : Packet)
  | meridianExchange (t1 : Nat)
  | msync (p : Nat) (pkt : Packet) (t2 t3 : Nat)
  | mresp (p : Nat) (pkt : Packet) (t4 : Nat)
  | counterResume
  | parentTimeout
  | rootClaimSend
  | rootClaim (p : Nat) (pkt : Packet)
  | fwData (p : Nat) (pkt : Packet)
  | fdatum (p : Nat) (pkt : Packet)
  | prepare (p : Nat) (pkt : Packet)
  | decide (p : Nat) (pkt : Packet)
  | digest (p : Nat) (pkt : Packet)
  | audit (p : Nat) (pkt : Packet)
  | tdNotice (p : Nat) (pkt : Packet)
  | tdAck (p : Nat) (pkt : Packet)
  | slotBlock (p : Nat) (pkt : Packet)
  | bookData (p : Nat) (pkt : Packet)
  | fetchReq (p : Nat) (pkt : Packet)
  | fetchData (p : Nat) (pkt : Packet)
  | poolWrite (p : Nat) (pkt : Packet)
  | poolRead (p : Nat) (pkt : Packet)
  | poolData (p : Nat) (pkt : Packet)
  | poolDone (p : Nat) (pkt : Packet)
  | openSession (d : Datagram) (cookie : BitVec 64)
  | closeSession (d : Datagram)
  | ack (d : Datagram)
  | doorbell (d : Datagram)
  | submit (d : Datagram)
  | regRead (d : Datagram)
  | regWrite (d : Datagram)
  | rto (session : Nat)
  | sessionIdle (session : Nat)
  | notify (f q : Nat)
  | queueCreate (f q : Nat)
  | queueDestroy (f q : Nat)
  | queueQuery (f q : Nat)
  | ctxCreate (f q : Nat)
  | ctxSet (f q : Nat)
  | ctxRead (f q : Nat)
  | mrReg (f q : Nat)
  | mrDereg (f q : Nat)
  | qpCreate (f q : Nat)
  | qpModify (f q : Nat)
  | qpDestroy (f q : Nat)
  | roceSend (r : Roce)
  | rdmaWrite (r : Roce)
  | rdmaRead (r : Roce)
  | rdmaReadResponse (r : Roce)
  | roceAck (r : Roce) (ans : RoceAns)
  | roceTimeout (qpn : Nat)
  | cnp (r : Roce)
  | freset (who : Who) (n : Nat)
  | fresetTeardownDone (n : Nat)
  | functionEnable (who : Who) (n : Nat)
  | functionDisable (who : Who) (n : Nat)
  | bookEnable (who : Who) (b : Nat)
  | bookResume (who : Who) (b : Nat)
  | adopt (who : Who) (b : Nat)
  | fetch (who : Who) (b : Nat)
  | replica (who : Who) (b : Nat)
  | ckptRestore (who : Who) (b : Nat)
  | bookRelease (who : Who) (b : Nat)
  | bookCommandComplete (b : Nat) (answered : Bool)
  | captureComplete (b : Nat)
  | replicatedDigest (b : Nat)
  | vote (b : Nat)
  | faultRecord
  | waitWatchdog (u : WaitUnit)
  | hang (unit die cause : Nat)
  | chipReset (env : StartEnv)
  | dumpReadTimeout (part done : Nat)
  | dumpExpiry (begun : Nat)
  | dumpComplete
  | writeBackBudget (die : Nat)
  | requestedReset (who : Who)
  | bootTimeout
  | readyTimeout
  | identity
  | attest
  | certRead (flash : FlashEnd)
  | stage (flash : FlashEnd)
  | select (flash : FlashEnd)
  | commitSvn
  | legendRead
  | serviceResponse
  | coreWatchdog (core : Nat)
  | coreRestart (core cause : Nat)
  | restartEnd (core : Nat) (ok : Bool)
  | atlasWrite (flash : FlashEnd)
  | trigger (who : Who)
  | fabricDatum (who : Who)
  | timeMatch
  | datumIn (rising : Bool)
  | latch
  | atlSample (rails : List Nat)
  | bucketRotation
  | powerUp (env : StartEnv)
  | plannedRemoval
  | surpriseRemoval
  | tileEn (who : Who) (value : Word)
  | domainSwitchEnd (die k : Nat)
  | railSample (rails : List RailSample)
  | dieTemperatureSample (temps : List Nat)
  | referenceLoss (serdes : Bool)
  | synthesiserLockLoss (synth : Nat)
  | sbPos (value : BitVec 32)
  | sbStatusRead
  | alertResponse
  | subPortDown (sp : Nat)
  | subPortUp (sp : Nat)
  | networkHousekeeping (kind : Nat) (frame : List Byte)
  | priorityFlowControl (prio : Nat) (pause : Bool)
  | bookBind (who : Who) (b c : Nat)
  | powerLoss
  | stackInterfaceFault (stack : Nat)
  deriving DecidableEq, Repr

end Sys2Proof
end

