-- ==== Sys2Proof/WellFormed.lean ====
section
/-!
DEFINITION. Which commands name units, contexts, functions and slots that the module has (R21, R22, R34).
-/

namespace Sys2Proof

/-- Tiles 0–127 (R26). -/
def tileOk (t : Nat) : Bool := decide (t < 128)

/-- Ports BLW0–BLW15. -/
def portOk (p : Nat) : Bool := decide (p < 16)

/-- Contexts 0–15. -/
def ctxOk (c : Nat) : Bool := decide (c < 16)

/-- Books 0–15. -/
def bookOk (b : Nat) : Bool := decide (b < 16)

/-- Compute dies C0–C3. -/
def dieOk (d : Nat) : Bool := decide (d < 4)

/-- Stacks S0–S19. -/
def stackOk (k : Nat) : Bool := decide (k < 20)

/-- Functions F0–F15. -/
def fnOk (f : Nat) : Bool := decide (f < 16)

/-- Access widths the module's registers have (R15) and those steward stores have. -/
def widthOk (w : Nat) : Bool := decide (w = 1 ∨ w = 2 ∨ w = 4 ∨ w = 8)

/-- An agent that exists. -/
def whoOk : Who → Bool
  | .f0 => true
  | .compass => true
  | .steward t n => decide (t < 128 ∧ n < 2)

/-- A source of context commands that exists. -/
def srcOk : Src → Bool
  | .reg who => whoOk who
  | .queue f q => decide (f < 16 ∧ q < 4096)

/-- A unit with a wait watchdog that exists (R483). -/
def unitOk : WaitUnit → Bool
  | .st t n => decide (t < 128 ∧ n < 2)
  | .ma t a s => decide (t < 128 ∧ a < 2 ∧ s < 2)
  | .vxe t => decide (t < 128)
  | .cpy t => decide (t < 128)
  | .hostQueue f q => decide (f < 16 ∧ q < 4096)

/-- The operands of a command are in range. -/
def wellFormed : Instr → Bool
  | .registerWrite who addr width _ => whoOk who && widthOk width && decide (addr < 2 ^ 40)
  | .flitCrcFailure edge die => decide (edge < 8 ∧ die < 4)
  | .edgeLane edge => decide (edge < 8)
  | .create who c func _ => whoOk who && ctxOk c && fnOk func
  | .load src c => srcOk src && ctxOk c
  | .loadComplete c => ctxOk c
  | .start src c => srcOk src && ctxOk c
  | .teardown src c => srcOk src && ctxOk c
  | .remap src c => srcOk src && ctxOk c
  | .contextStart c => ctxOk c
  | .drainEnd c => ctxOk c
  | .teardownTimeout c => ctxOk c
  | .mailboxDelivery t m => tileOk t && decide (m < 16)
  | .messageQueueEntry t q => tileOk t && decide (q < 4)
  | .waypointRelease c => ctxOk c
  | .holdRaise c => ctxOk c
  | .rv64Instruction t n => tileOk t && decide (n < 2)
  | .fenceI t n => tileOk t && decide (n < 2)
  | .lr t n => tileOk t && decide (n < 2)
  | .sc t n => tileOk t && decide (n < 2)
  | .amo t n => tileOk t && decide (n < 2)
  | .mret t n => tileOk t && decide (n < 2)
  | .wfi t n => tileOk t && decide (n < 2)
  | .ecall t n => tileOk t && decide (n < 2)
  | .ebreak t n => tileOk t && decide (n < 2)
  | .msend t n => tileOk t && decide (n < 2)
  | .mrecv t n => tileOk t && decide (n < 2)
  | .qpush t n => tileOk t && decide (n < 2)
  | .qpop t n => tileOk t && decide (n < 2)
  | .issue t n => tileOk t && decide (n < 2)
  | .waitc t n => tileOk t && decide (n < 2)
  | .vxrun t n => tileOk t && decide (n < 2)
  | .fenceL t n => tileOk t && decide (n < 2)
  | .fenceD t n => tileOk t && decide (n < 2)
  | .fenceF t n => tileOk t && decide (n < 2)
  | .fenceG t n => tileOk t && decide (n < 2)
  | .waypoint t n => tileOk t && decide (n < 2)
  | .pmark t n => tileOk t && decide (n < 2)
  | .datum t n => tileOk t && decide (n < 2)
  | .dbgHalt who t n => whoOk who && tileOk t && decide (n < 2)
  | .dbgResume who t n => whoOk who && tileOk t && decide (n < 2)
  | .dbgStep who t n => whoOk who && tileOk t && decide (n < 2)
  | .descriptorDecode t a st => tileOk t && decide (a < 2) && decide (st < 2)
  | .shadowLoad t a st => tileOk t && decide (a < 2) && decide (st < 2)
  | .mac t a st _ => tileOk t && decide (a < 2) && decide (st < 2)
  | .l1 t a st _ => tileOk t && decide (a < 2) && decide (st < 2)
  | .l2sq t a st _ => tileOk t && decide (a < 2) && decide (st < 2)
  | .maxplus t a st _ => tileOk t && decide (a < 2) && decide (st < 2)
  | .minplus t a st _ => tileOk t && decide (a < 2) && decide (st < 2)
  | .hamm t a st _ => tileOk t && decide (a < 2) && decide (st < 2)
  | .fill t a st _ => tileOk t && decide (a < 2) && decide (st < 2)
  | .passComplete t a st _ => tileOk t && decide (a < 2) && decide (st < 2)
  | .maDescHead who t a st _ => whoOk who && tileOk t && decide (a < 2) && decide (st < 2)
  | .runBegin t => tileOk t
  | .nop t _ => tileOk t
  | .endIteration t _ => tileOk t
  | .vld t _ => tileOk t
  | .vst t _ => tileOk t
  | .vldb t _ => tileOk t
  | .mld t _ => tileOk t
  | .mst t _ => tileOk t
  | .vadd t _ => tileOk t
  | .vsub t _ => tileOk t
  | .vmul t _ => tileOk t
  | .vfma t _ => tileOk t
  | .vmax t _ => tileOk t
  | .vmin t _ => tileOk t
  | .vabs t _ => tileOk t
  | .vneg t _ => tileOk t
  | .vdiv t _ => tileOk t
  | .vsel t _ => tileOk t
  | .viota t _ => tileOk t
  | .vcmp t _ => tileOk t
  | .mop t _ => tileOk t
  | .cvt t _ => tileOk t
  | .nlu t _ => tileOk t
  | .vder t _ => tileOk t
  | .rclr t _ => tileOk t
  | .racc t _ => tileOk t
  | .rget t _ => tileOk t
  | .smxe t _ => tileOk t
  | .smxn t _ => tileOk t
  | .smxb t _ => tileOk t
  | .topk t _ => tileOk t
  | .ftqpop t _ => tileOk t
  | .ftqEntryPoppable t a => tileOk t && decide (a < 2)
  | .accrd t _ _ => tileOk t
  | .accmsk t _ => tileOk t
  | .accrel t _ => tileOk t
  | .contourEviction t tensor => tileOk t && decide (tensor < 4096)
  | .liveFieldUpdate c _ => ctxOk c
  | .vsOpen who t slot buf => whoOk who && tileOk t && decide (slot < 8) && decide (buf < 2)
  | .vsClose who t slot buf _ => whoOk who && tileOk t && decide (slot < 8) && decide (buf < 2)
  | .bufferOpens t slot buf => tileOk t && decide (slot < 8) && decide (buf < 2)
  | .closeTakesEffect t slot buf => tileOk t && decide (slot < 8) && decide (buf < 2)
  | .versionBusy t slot buf => tileOk t && decide (slot < 8) && decide (buf < 2)
  | .vsCfgWrite who t slot _ => whoOk who && tileOk t && decide (slot < 8)
  | .bankArbitration t _ => tileOk t
  | .writeBack t bank => tileOk t && decide (bank < 32)
  | .surveyRegionStep t _ _ => tileOk t
  | .hbmAccess _ => true
  | .lineDecode addr _ => decide (addr < 0xF000000000)
  | .sequencedReduction _ => true
  | .unsequencedReduction _ => true
  | .entryAllocation unit => decide (unit < 80)
  | .seqTimeout line => decide (line < 0xF000000000)
  | .scacheFlush who die => whoOk who && dieOk die
  | .scacheClear who die => whoOk who && dieOk die
  | .scacheCmdComplete die => dieOk die
  | .pinCtlWrite who die _ => whoOk who && dieOk die
  | .scrub addr _ => decide (addr < 0xF000000000)
  | .quar who stack => whoOk who && stackOk stack
  | .regulatorWrite who stack part _ => whoOk who && stackOk stack && decide (part < 17)
  | .temperatureReport stack temp => stackOk stack && decide (temp < 256)
  | .copyDecode t => tileOk t
  | .copy t => tileOk t
  | .toWb t => tileOk t
  | .fromWb t => tileOk t
  | .gather t => tileOk t
  | .copyReduce t => tileOk t
  | .copyComplete t => tileOk t
  | .cpyDescHead who t _ => whoOk who && tileOk t
  | .linkBlock p _ _ _ => portOk p
  | .retraining p => portOk p
  | .retrainingEnd p => portOk p
  | .retrainBudget p => portOk p
  | .portEnable who p => whoOk who && portOk p
  | .portDisable who p => whoOk who && portOk p
  | .portTrainingEnd p _ => portOk p
  | .trainingTimeout p => portOk p
  | .trainingRetry => true
  | .packetSend p vc => portOk p && decide (vc < 8)
  | .transit p _ => portOk p
  | .write p _ => portOk p
  | .wack p _ => portOk p
  | .read p _ => portOk p
  | .rdata p _ => portOk p
  | .reduce p _ => portOk p
  | .rack p _ => portOk p
  | .msg p _ => portOk p
  | .mack p _ => portOk p
  | .contribution _ => true
  | .ccred p _ => portOk p
  | .arrive p _ => portOk p
  | .release p _ => portOk p
  | .hold p _ => portOk p
  | .clear p _ => portOk p
  | .holdDecision c => ctxOk c
  | .resume p _ => portOk p
  | .jobResume c => ctxOk c
  | .holdWatchdog c => ctxOk c
  | .abort p _ => portOk p
  | .meridianExchange _ => true
  | .msync p _ _ _ => portOk p
  | .mresp p _ _ => portOk p
  | .counterResume => true
  | .parentTimeout => true
  | .rootClaimSend => true
  | .rootClaim p _ => portOk p
  | .fwData p _ => portOk p
  | .fdatum p _ => portOk p
  | .prepare p _ => portOk p
  | .decide p _ => portOk p
  | .digest p _ => portOk p
  | .audit p _ => portOk p
  | .tdNotice p _ => portOk p
  | .tdAck p _ => portOk p
  | .slotBlock p _ => portOk p
  | .bookData p _ => portOk p
  | .fetchReq p _ => portOk p
  | .fetchData p _ => portOk p
  | .poolWrite p _ => portOk p
  | .poolRead p _ => portOk p
  | .poolData p _ => portOk p
  | .poolDone p _ => portOk p
  | .openSession _ _ => true
  | .closeSession _ => true
  | .ack _ => true
  | .doorbell _ => true
  | .submit _ => true
  | .regRead _ => true
  | .regWrite _ => true
  | .rto _ => true
  | .sessionIdle _ => true
  | .notify f q => fnOk f && decide (q < 4096)
  | .queueCreate f q => fnOk f && decide (q < 4096)
  | .queueDestroy f q => fnOk f && decide (q < 4096)
  | .queueQuery f q => fnOk f && decide (q < 4096)
  | .ctxCreate f q => fnOk f && decide (q < 4096)
  | .ctxSet f q => fnOk f && decide (q < 4096)
  | .ctxRead f q => fnOk f && decide (q < 4096)
  | .mrReg f q => fnOk f && decide (q < 4096)
  | .mrDereg f q => fnOk f && decide (q < 4096)
  | .qpCreate f q => fnOk f && decide (q < 4096)
  | .qpModify f q => fnOk f && decide (q < 4096)
  | .qpDestroy f q => fnOk f && decide (q < 4096)
  | .roceSend _ => true
  | .rdmaWrite _ => true
  | .rdmaRead _ => true
  | .rdmaReadResponse _ => true
  | .roceAck _ _ => true
  | .roceTimeout _ => true
  | .cnp _ => true
  | .freset who n => whoOk who && fnOk n
  | .fresetTeardownDone n => fnOk n
  | .functionEnable who n => whoOk who && fnOk n
  | .functionDisable who n => whoOk who && fnOk n
  | .bookEnable who b => whoOk who && bookOk b
  | .bookResume who b => whoOk who && bookOk b
  | .adopt who b => whoOk who && bookOk b
  | .fetch who b => whoOk who && bookOk b
  | .replica who b => whoOk who && bookOk b
  | .ckptRestore who b => whoOk who && bookOk b
  | .bookRelease who b => whoOk who && bookOk b
  | .bookCommandComplete b _ => bookOk b
  | .captureComplete b => bookOk b
  | .replicatedDigest b => bookOk b
  | .vote b => bookOk b
  | .faultRecord => true
  | .waitWatchdog u => unitOk u
  | .hang unit die _ => decide (unit < 256 ∧ die < 6)
  | .chipReset _ => true
  | .dumpReadTimeout part _ => decide (part < 646)
  | .dumpExpiry begun => decide (begun < 647)
  | .dumpComplete => true
  | .writeBackBudget die => dieOk die
  | .requestedReset who => whoOk who
  | .bootTimeout => true
  | .readyTimeout => true
  | .identity => true
  | .attest => true
  | .certRead _ => true
  | .stage _ => true
  | .select _ => true
  | .commitSvn => true
  | .legendRead => true
  | .serviceResponse => true
  | .coreWatchdog core => decide (core < 4)
  | .coreRestart core cause => decide (core < 4 ∧ 2 ≤ cause ∧ cause ≤ 4)
  | .restartEnd core _ => decide (core < 4)
  | .atlasWrite _ => true
  | .trigger who => whoOk who
  | .fabricDatum who => whoOk who
  | .timeMatch => true
  | .datumIn _ => true
  | .latch => true
  | .atlSample rails => decide (rails.length = 16)
  | .bucketRotation => true
  | .powerUp _ => true
  | .plannedRemoval => true
  | .surpriseRemoval => true
  | .tileEn who _ => whoOk who
  | .domainSwitchEnd die k => dieOk die && decide (k < 16)
  | .railSample rails => decide (rails.length = 16)
  | .dieTemperatureSample temps => decide (temps.length = 6)
  | .referenceLoss _ => true
  | .synthesiserLockLoss synth => decide (synth < 8 ∧ synth ≠ 4)
  | .sbPos _ => true
  | .sbStatusRead => true
  | .alertResponse => true
  | .subPortDown sp => decide (sp < 8)
  | .subPortUp sp => decide (sp < 8)
  | .networkHousekeeping kind _ => decide (kind < 4)
  | .priorityFlowControl prio _ => decide (prio < 8)
  | .bookBind who b c => whoOk who && bookOk b && ctxOk c
  | .powerLoss => true
  | .stackInterfaceFault stack => stackOk stack

end Sys2Proof
end

