-- ==== Sys2Proof/Decode.lean ====
section
/-!
DEFINITION. The command that a word of the command table spells. No row of spec/opcode_table.json gives bits: commands reach
the block as events (writes of registers, packets, datagrams, pins), not as words, so no word spells one (DESIGN CHOICE: log entry 16).
-/

namespace Sys2Proof

/-- The command a table word spells: none, since no row has bits. -/
def decodeTableWord (_nbits _w : Nat) : Option Instr := none

end Sys2Proof
end

