-- ==== Sys2Proof/Machine/State.lean ====
section
/-!
DEFINITION. The state of one WN4280 module as plain data: every register, store, queue, engine and pin the spec names.
Registers at a device address lie in `regs`, keyed by that address; an unlisted one reads its reset value (Machine/Regs.lean).
A register whose bits are a unit's own state is a view of that unit's structure. Tables are sorted lists by key.
-/

namespace Sys2Proof.Machine

/-- Table 2-1. -/
inductive CtxState where
  | free | created | loading | ready | running | held | teardown | done
  deriving DecidableEq, Repr

/-- Job map entry (Table 9 of R61) of a device that is a member. -/
structure JobEntry where
  rank : Nat
  gen  : BitVec 16
  ctx  : Nat
  deriving DecidableEq, Repr

/-- Waypoint kinds (Table 2-18). -/
inductive WpKind where
  | loc | job | stepBegin | commit | mbOpen | mbClose | fin
  deriving DecidableEq, Repr

/-- Waypoint table entry (Table 2-17). -/
structure WpEntry where
  kind   : WpKind
  mbi    : Nat
  slack  : Nat
  offset : Nat
  deriving DecidableEq, Repr

/-- The next waypoint of the module's participants (R81, R583): an index, or the choice after a COMMIT. -/
inductive WpNext where
  | at (i : Nat)
  | choice
  | none
  deriving DecidableEq, Repr

/-- The job's hold record at the root (R396): START s, the cause (rank, index, STEP [15:0]), the tick at which it cleared. -/
structure RootHold where
  s      : Nat
  rank   : Nat
  idx    : Nat
  step   : Nat
  clear  : Option Nat
  deriving DecidableEq, Repr

/-- Teardown progress (Table 15-6): not in teardown, draining (step 3), waiting for notices (steps 4, 5). -/
inductive TdPhase where
  | idle
  | drain (notify : Bool)
  | notice (waiting : List Nat)
  deriving DecidableEq, Repr

/-- Who is told when a context command completes: nobody, or the entry CID of submission queue F:q (R428). -/
structure Waiter where
  f   : Nat
  q   : Nat
  cid : Nat
  deriving DecidableEq, Repr

/-- Tensor table as CTX keeps it (R238, R240): address, NT, STATS_ADDR, UT, ids with PRIV. -/
structure TensorKept where
  addr  : Nat
  nt    : Nat
  stats : Nat
  ut    : Int
  priv  : List Nat
  deriving DecidableEq, Repr

/-- A vote on COMMIT (R457, Table 14-7): YES, the least rank that voted NO (0xFFF none), CAUSE. -/
structure Vote where
  yes    : Bool
  noRank : Nat
  cause  : Nat
  deriving DecidableEq, Repr

/-- What a child of the tree has reported (R393, R457): waypoint index, STEP [15:0], rank, TIME, its vote. -/
structure ChildArr where
  idx  : Nat
  step : Nat
  rank : Nat
  time : Nat
  vote : Option Vote
  deriving DecidableEq, Repr

/-- What the CTX block holds of one context beside its RW registers; `armed` says that a START was accepted. -/
structure Ctx where
  state      : CtxState := .free
  nondet     : Bool := false
  func       : Nat := 0
  lastResult : Nat := 0
  gen        : BitVec 16 := 0
  loadWaiter : Option Waiter := none
  tdWaiter   : List Waiter := []
  td         : TdPhase := .idle
  armed      : Bool := false
  -- the loaded image (R74–R76)
  members    : Nat := 0
  mbInFlight : Nat := 0
  rank       : Nat := 0
  jobMap     : Tab JobEntry := []
  wps        : List WpEntry := []
  starts     : Tab Nat := []
  tensors    : Option TensorKept := none
  -- waypoints (R79–R85, R583): next one, tick of a choice after COMMIT, tiles that reached it, tick at which all participants count as having reached it,
  -- children's reports, ARRIVE or PREPARE sent, release tick, ticks of the bases, (start, length) of the holds
  next       : WpNext := .none
  chosenAt   : Option Nat := none
  arrived    : List Nat := []
  aLocal     : Option Nat := none
  children   : List ChildArr := []
  sent       : Bool := false
  relTick    : Option Nat := none
  beginRel   : Option Nat := none
  commitRel  : Option Nat := none
  holds      : List (Nat × Nat) := []
  openMb     : List Nat := []
  closedMb   : List Nat := []
  nextMbi    : Nat := 0
  jobRels    : Nat := 0
  liveDone   : Bool := true
  jobMax     : Tab (List Byte) := []
  -- holds (R395–R397): the waypoint whose hold this member raised, START and cause (index, STEP) of the hold noticed, START and TRES
  raised     : Option Nat := none
  heldAt     : Option Nat := none
  holdCause  : Option (Nat × Nat) := none
  resumeAt   : Option (Nat × Nat) := none
  root       : Option RootHold := none
  -- commit votes (R457)
  myVote     : Option Vote := none
  decided    : Option Bool := none
  deriving DecidableEq, Repr

/-- Privilege mode of a steward (R94). -/
inductive Mode where
  | user | machine
  deriving DecidableEq, Repr

/-- STn_STATUS.RUN. -/
inductive RunState where
  | reset | running | waiting | halted | stopped
  deriving DecidableEq, Repr

/-- STn_STATUS.WAIT_KIND; FENCE.G, which reads as a fence, apart (R483). -/
inductive WaitKind where
  | none | msend | mrecv | qpush | qpop | issue | waitc | vxrun | fence | fenceG | waypoint
  deriving DecidableEq, Repr

/-- How an MSEND in progress stands (R105). -/
inductive SendState where
  | none
  | pending (id : Nat)
  | answered (status : Nat)
  deriving DecidableEq, Repr

/-- One steward core (R89–R126). Beside its registers: the cached lines of code, how an MSEND stands, what a fence waits for, the
instruction that waits, and the debug control. -/
structure Steward where
  pc         : Word := 0
  gpr        : Tab Word := []
  mode       : Mode := .machine
  run        : RunState := .reset
  waitKind   : WaitKind := .none
  stopCause  : Nat := 0
  mstatus    : Word := 0
  mtvec      : Word := 0
  mepc       : Word := 0
  mcause     : Word := 0
  mtval      : Word := 0
  mscratch   : Word := 0
  mcounteren : Word := 0
  instret    : Word := 0
  intrap     : Bool := false
  pmpcfg     : Tab Byte := []
  pmpaddr    : Tab Word := []
  resv       : Option Nat := none
  icache     : Tab (List Byte) := []
  send       : SendState := .none
  fenceMark  : Nat := 0
  fenceJob   : Nat := 0
  fenceGate  : Bool := false
  waitWord   : BitVec 32 := 0
  halt       : Bool := false
  stepBit    : Bool := false
  ebreakHalt : Bool := false
  csrSel     : BitVec 12 := 0
  deriving DecidableEq, Repr

/-- Released descriptors not yet decoded: `n` of them from offset `off`, with the array's release order of the first (R109, R145). -/
structure Released where
  off : Nat
  n   : Nat
  ord : Nat
  deriving DecidableEq, Repr

/-- A stationary operand in the registers of the PEs (R127) with what check 6 compares: its codes and E8M0 scales by column. -/
structure Stationary where
  opcode : Nat
  shape  : Nat
  fmt    : Nat
  cols   : List (List Nat)
  scales : List (List Nat)
  deriving DecidableEq, Repr

/-- A decoded descriptor (R137): its bits, offset, release order, pairing number (R266), the version buffer it reads (R273), whether
its stationary operand is in the shadows, a stop (code, check, address) that awaits its turn (R147), whether that stop leaves the elements
the pass targets unpredictable (R148), the accumulators as the pass in the array left them, which its rows are converted from as they
complete (R157, R190), and the step whose COMMIT was released while it was in flight (R246). -/
structure Pass where
  desc   : BitVec 512
  off    : Nat
  ord    : Nat
  pair   : Nat
  reader : Option (Nat × Nat)
  loaded : Bool
  bad    : Option (Nat × Nat × Option Nat)
  spoils : Bool := false
  acc    : Tab (BitVec 128) := []
  across : Option Nat := none
  deriving DecidableEq, Repr

/-- A fault found at decode that takes effect once the earlier descriptors have entered (R147): stop code, check, descriptor offset,
NSPLIT half, version slot and buffer, and the broadcast and pairing number of its descriptor. -/
structure StreamFault where
  code  : Nat
  check : Nat
  off   : Nat
  half  : Nat
  slot  : Nat
  buf   : Nat
  bcast : Nat
  pair  : Nat
  deriving DecidableEq, Repr

/-- One descriptor stream of an array (R108, R137, R147): released, decoded and entered passes; descriptors completed and released; SENDs
and RECVs decoded so far. -/
structure Stream where
  queue    : List Released := []
  decoded  : List Pass := []
  inArray  : List Pass := []
  fault    : Option StreamFault := none
  stopped  : Bool := false
  count    : BitVec 32 := 0
  released : BitVec 32 := 0
  sends    : Nat := 0
  recvs    : Nat := 0
  deriving DecidableEq, Repr

/-- An entry of a finished-tile queue (Table 6-5), the stream that pushed it, and whether it is poppable yet (R230). -/
structure FtqEntry where
  bits     : BitVec 256
  stream   : Nat
  poppable : Bool
  deriving DecidableEq, Repr

/-- One matrix array (R127–R164). Accumulator element key: (buffer × 128 + row) × 128 + column. -/
structure MArray where
  acc      : Tab (BitVec 128) := []
  stream0  : Stream := {}
  stream1  : Stream := {}
  active0  : Option Stationary := none
  active1  : Option Stationary := none
  shadow0  : Option Stationary := none
  shadow1  : Option Stationary := none
  split    : Bool := false
  ftq      : List FtqEntry := []
  reserved : Nat := 0
  held     : List Nat := []
  ordNext  : Nat := 0
  deriving DecidableEq, Repr

/-- Kind of a reduction accumulator (R218). -/
inductive RedKind where
  | sum | max | min | smax
  deriving DecidableEq, Repr

/-- A reduction accumulator (R218): kind, exact value man × 2^exp, flags, counts. -/
structure Racc where
  kind : Option RedKind := none
  man  : Int := 0
  exp  : Int := 0
  nan  : Bool := false
  pinf : Bool := false
  ninf : Bool := false
  n    : Nat := 0
  nInf : Nat := 0
  deriving DecidableEq, Repr

/-- A queued run of a vector microprogram (R199, R200): `argUe` is the offset of an uncorrectable word of its argument block (R291). -/
structure VRun where
  start  : Nat
  iterM1 : Nat
  arg    : BitVec 512
  argUe  : Option Nat
  deriving DecidableEq, Repr

/-- One vector engine (R194–R231). Vector register image: 512 bytes, lane l in bits [32l+31:32l]. -/
structure Vxe where
  vreg     : Tab (BitVec 4096) := []
  mreg     : Tab (BitVec 128) := []
  racc     : Tab Racc := []
  slots    : Tab (BitVec 256) := []
  ar       : Tab (BitVec 24) := []
  eix      : BitVec 40 := 0
  iter     : Nat := 0
  index    : Nat := 0
  begun    : Bool := false
  across   : Option Nat := none
  runs     : List VRun := []
  stopped  : Bool := false
  waiting  : Bool := false
  count    : BitVec 32 := 0
  queued   : BitVec 32 := 0
  mc       : Tab Word := []
  deriving DecidableEq, Repr

/-- A decoded copy descriptor (R342): bits, offset, number in the stream, whether it started, and the next row to start. -/
structure CpyDesc where
  desc    : BitVec 256
  off     : Nat
  no      : Nat
  started : Bool
  row     : Nat := 0
  deriving DecidableEq, Repr

/-- One copy engine (R337–R354). `past`: descriptors that left the stream with posted writes still to be answered (R347). -/
structure Cpy where
  queue    : List Released := []
  decoded  : List CpyDesc := []
  fault    : Option (Nat × Nat) := none
  stopped  : Bool := false
  count    : BitVec 32 := 0
  released : BitVec 32 := 0
  numNext  : Nat := 0
  doneTo   : Nat := 0
  past     : List CpyDesc := []
  deriving DecidableEq, Repr

/-- Where an access comes from and who is answered (R343, R347, R364, R380): row `row` of descriptor `no` of tile t's copy stream at
offset `off`; a request packet, with the status found so far; a gather write for the contribution of another access; a REPLICA command
of a book; the AMAX values of a job (R384); a message to another module, until its MACK comes. -/
inductive Origin where
  | cpy (t no row off : Nat)
  | packet (port : Nat) (hdr : BitVec 512) (status sub : Nat)
  | gather (id : Nat)
  | book (b : Nat)
  | amax
  | msg
  deriving DecidableEq, Repr

/-- A reduction request's fields beside address and data (Table 10-3). -/
structure RedReq where
  op    : Nat
  ty    : Nat
  seq   : Bool
  ovw   : Bool
  slot  : Nat
  cntM1 : Nat
  emask : BitVec 32
  deriving DecidableEq, Repr

/-- What an access does. A read holds what it has got, the global address its bytes go to, and the reduction made of them. -/
inductive AccOp where
  | read (len : Nat) (got : List Byte) (dst : Nat) (red : Option RedReq)
  | write (data : List Byte)
  | reduce (req : RedReq) (data : List Byte)
  deriving DecidableEq, Repr

/-- How far an access is: to be served on this module, sent to another module and not answered, waiting for a collector credit, for
the open entry of its line to close, for copy-before-write (R454), for an entry of an MRU, or for its gather writes. -/
inductive AccStage where
  | todo
  | remote
  | waitCredit
  | waitEntry
  | waitCopy
  | waitAlloc (unit : Nat)
  | closing
  deriving DecidableEq, Repr

/-- An access in flight: id, origin, context and generation at issue (R51), global address, operation, stage. -/
structure Acc where
  id     : Nat
  origin : Origin
  ctx    : Nat
  gen    : BitVec 16
  addr   : Nat
  op     : AccOp
  stage  : AccStage
  deriving DecidableEq, Repr

/-- An open entry of an MRU or of the collector (R317, R379): line, agreed fields, NEXT, and by slot the contributions accepted, with
the device each came from. -/
structure RedEntry where
  line  : Nat
  col   : Bool
  req   : RedReq
  ctx   : Nat
  gen   : BitVec 16
  next  : Nat
  parts : Tab (Nat × BitVec 32 × List Byte)
  deriving DecidableEq, Repr

/-- One buffer of a version slot (Table 8-2), with the tag of a pending CLOSE, the passes (array, release order) that it waits for,
and the tag before a pending OPEN. -/
structure VBuf where
  valid    : Bool := false
  pend     : Bool := false
  closing  : Bool := false
  tag      : BitVec 16 := 0
  rd       : Nat := 0
  closeTag : BitVec 16 := 0
  closeOn  : List (Nat × Nat) := []
  deriving DecidableEq, Repr

/-- A message that waits at its destination mailbox or queue (R66–R71): key of delivery, sender, payload. -/
structure Message where
  id      : Nat
  target  : Nat
  srcDev  : Nat
  srcTile : Nat
  srcSt   : Nat
  srcRank : Nat
  len     : Nat
  seq     : Nat
  data    : List Byte
  port    : Option Nat
  hdr     : BitVec 512
  deriving DecidableEq, Repr

/-- Counts of one tensor in a contour unit (Table 7-5): elements, zeros, flushes, saturations, non-finites, AMAX, empty and NaN
rows, histogram bins. -/
structure ContourRec where
  elems  : Nat := 0
  zeros  : Nat := 0
  flush  : Nat := 0
  sat    : Nat := 0
  nonfin : Nat := 0
  amax   : Nat := 0
  empty  : Nat := 0
  nans   : Nat := 0
  hist   : Tab Nat := []
  deriving DecidableEq, Repr

/-- The contour unit of a tile (R242–R247): up to 16 records by tensor id, and the events against ids beyond the table. -/
structure Contour where
  recs    : Tab ContourRec := []
  outside : Nat := 0
  deriving DecidableEq, Repr

/-- The rest of an access at a scratchpad port (R282, R287): the request presented, those that follow, the words of the request whose
bytes were dropped, and whether that loss was reported. -/
structure PortHeld where
  req  : PortReq
  rest : List PortReq
  lost : List Nat
  told : Bool
  deriving DecidableEq, Repr

/-- A request that was granted and that its unit's own row has not taken yet: the bytes a read got, or those of a write, performed
without the words it lost, or refused by a version slot (R274). -/
structure PortGot where
  port  : Nat
  off   : Nat
  data  : List Byte
  write : Bool
  refused : Bool
  deriving DecidableEq, Repr

/-- The ports and banks of a scratchpad between cycles (R282–R288, R298): what stands at each port (0 FEED-A, 1 FEED-B, 2 VEC, 3 + k agent
k of XFER), the XFER agent whose request stalled, the banks in the second cycle of a partial write, cycles done of a region step in
progress, and the requests granted. -/
structure Ports where
  reqs : Tab PortHeld := []
  lock : Option Nat := none
  busy : List Nat := []
  walk : Nat := 0
  got  : List PortGot := []
  deriving DecidableEq, Repr

/-- Everything of one tile beside its registers and scratchpad bytes. -/
structure Tile where
  ma0      : MArray := {}
  ma1      : MArray := {}
  vxe      : Vxe := {}
  cpy      : Cpy := {}
  vbufs    : Tab VBuf := []
  msgs     : List Message := []
  sendSeq  : Tab Nat := []
  contour  : Contour := {}
  age      : Tab Nat := []
  passed   : Tab Nat := []
  wbPend   : Tab Nat := []
  eccBad   : List Nat := []
  ports    : Ports := {}
  deriving DecidableEq, Repr

/-- A stack's controller beside its registers (R326, R330, R314): temperature reports since READY, what each bucket lacks of BURST × 64
units by (partition × 4 + group) × 2 + (0 guaranteed, 1 ceiling), corrected errors by pseudo-channel × 64 + connection, regulator values
that apply until the next tick by partition (R327), the partition served last in class 1 by group. -/
structure Stack where
  temps   : List Nat := []
  buckets : Tab Nat := []
  corrected : Tab Nat := []
  old     : Tab Word := []
  rr      : Tab Nat := []
  deriving DecidableEq, Repr

/-- The link layer of a Bluwen port (R358–R367): next SEQ to send and next expected, blocks kept for replay as (SEQ, flits), the
replays of the oldest, whether a NAK is owed, credits held and credits to return by VC × 3 + class, packets waiting, flits of a
packet not complete yet, complete packets not handled yet, the tick at which retraining began, bytes of a packet still to be sent, the
tick of the last acceptance by the peer, and the flits that the weighted channels have had in their round. -/
structure Link where
  nextSeq  : Nat := 0
  expect   : Nat := 0
  unacked  : List (Nat × List Byte) := []
  replays  : Nat := 0
  nakOwed  : Bool := false
  used     : Tab Nat := []
  owed     : Tab Nat := []
  queue    : List Packet := []
  rx       : List Byte := []
  inbox    : List Packet := []
  since    : Nat := 0
  rest     : List Byte := []
  heard    : Nat := 0
  shares   : Tab Nat := []
  deriving DecidableEq, Repr

/-- Meridian synchronisation (R387–R391): the t1 of an exchange under way, good exchanges in a row, the value at which the counter stopped,
the devices learned, the ticks of the last exchange and of the last answer. -/
structure Meridian where
  t1       : Option Nat := none
  good     : Nat := 0
  stopTo   : Option Nat := none
  least    : Tab Nat := []
  lastEx   : Option Nat := none
  lastAns  : Nat := 0
  deriving DecidableEq, Repr

/-- A datagram of the command transport that the module sends: address, port, header, body. -/
structure HostOut where
  ip   : BitVec 128
  port : BitVec 16
  hdr  : BitVec 256
  body : List Byte
  sport : BitVec 16 := 24680#16
  deriving DecidableEq, Repr

/-- A RoCEv2 request of the module (R419): an RDMA Write of bytes, or, with none, an RDMA Read of `len` bytes that are the entries of
submission queue `queue` from index `idx`. -/
structure RoceReq where
  psn   : Nat
  addr  : Nat
  rkey  : BitVec 32
  data  : List Byte
  len   : Nat
  queue : Nat
  idx   : Nat
  deriving DecidableEq, Repr

/-- A RoCEv2 packet the module sends. -/
inductive RoceOut where
  | answer (psn : Nat) (ans : RoceAns)
  | readData (psn : Nat) (data : List Byte)
  | request (r : RoceReq)
  | cnp
  deriving DecidableEq, Repr

/-- A session of the command transport (R412–R414). -/
structure Session where
  id       : Nat
  cookie   : BitVec 64
  func     : Nat
  ip       : BitVec 128
  v6       : Bool
  port     : BitVec 16
  accepted : Nat
  nextSeq  : Nat
  unacked  : List (Nat × Nat × List Byte)
  rtoUs    : Nat
  timeouts : Nat
  opened   : Nat
  deriving DecidableEq, Repr

/-- Queue kinds (Table 13-5). -/
inductive QueueKind where
  | submission | completion | event | log
  deriving DecidableEq, Repr

/-- A queue of a function (R416–R424); the key is F × 4096 + index. -/
structure Queue where
  kind   : QueueKind := .submission
  host   : Bool := false
  big    : Bool := false
  log2   : Nat := 0
  endpt  : Bool := false
  notify : Nat := 0
  cq     : Nat := 0
  tile   : Nat := 0
  ctx    : Nat := 0
  bound  : Bool := false
  addr   : Nat := 0
  rkey   : BitVec 32 := 0
  qpn    : Nat := 0
  pi     : Nat := 0
  ci     : Nat := 0
  error  : Bool := false
  notedPi : Nat := 0
  hostCopy : List (Nat × List Byte) := []
  deriving DecidableEq, Repr

/-- A memory region (R431). -/
structure MemRegion where
  func  : Nat
  ctx   : Nat
  gen   : BitVec 16
  base  : Nat
  len   : Nat
  write : Bool
  read  : Bool
  deriving DecidableEq, Repr

/-- State of a queue pair (Table 13-9). -/
inductive QpState where
  | reset | init | rtr | rts | error
  deriving DecidableEq, Repr

/-- A queue pair (R430). -/
structure Qp where
  func    : Nat := 0
  state   : QpState := .reset
  params  : BitVec 448 := 0
  sendPsn : Nat := 0
  expPsn  : Nat := 0
  unacked : List RoceReq := []
  retries : Nat := 0
  rnr     : Nat := 0
  rate    : Nat := 0
  partBuf : List Byte := []
  partAddr : Nat := 0
  waiting : List RoceReq := []
  deriving DecidableEq, Repr

/-- Book states (Table 14-3). -/
inductive BookState where
  | unbound | bound | running | halted | busy
  deriving DecidableEq, Repr

/-- A region of a step plan (Table 14-2). -/
structure Region where
  kind  : Nat
  base0 : Nat
  base1 : Nat
  len   : Nat
  deriving DecidableEq, Repr

/-- A step plan that passed R439. -/
structure Plan where
  replay   : Nat
  resume   : Nat
  every    : Nat
  jobTag   : Nat
  ckptRepl : Bool
  audit    : Bool
  succ     : Nat
  pred     : Nat
  partner  : Nat
  uwp      : Nat
  regions  : List Region
  deriving DecidableEq, Repr

/-- Captures of a step entry (Table 14-5). -/
inductive CapturePart where
  | keyLive | input | shard
  deriving DecidableEq, Repr

/-- What a MIRROR packet in flight carries or asks for: a block for a slot, a page of an entry for a capture, a block that FETCH
writes back, a page of an entry or a block that ADOPT takes, a page of a pool record sent or asked for. -/
inductive MirrorOp where
  | slot (slot g : Nat)
  | entry (part : CapturePart) (step : Nat)
  | fetch (g : Nat)
  | adoptPage (par page : Nat)
  | adoptBlock (g : Nat)
  | pool (step : Nat)
  | restore (page : Nat)
  deriving DecidableEq, Repr

/-- What a book has still to do once a line is closed (R318, R380): a capture, a block of the mirror of a step, the parts of a pool record. -/
inductive BookDue where
  | capture (part : CapturePart) (step : Nat)
  | push (step g : Nat)
  | record (step : Nat)
  deriving DecidableEq, Repr

/-- A book command in progress (Table 14-9): OP, argument, state to return to, ADOPT's step whose slot is read, steps the blocks
received stand for, a result found so far. -/
structure BookCmd where
  op     : Nat
  arg    : Nat
  back   : BookState
  slotOf : Option Nat
  labels : Tab Nat
  result : Nat
  deriving DecidableEq, Repr

/-- A book of the FBK (R441–R474) beside its configuration registers: state, plan, partner's device, context id and generation;
packets in flight by tag; captures in progress and done as (part, step); the FCE's slot and written maps; the steps of the partner's
blocks held in the slots here; digests as (step, SD-128); the step voted on; RESUME's target and KIND; the step whose state the
EXCLUSIVE regions hold after a restore; the step of the AUDIT region; pool records under way; the step whose mirror is complete; the rank
it stands for; the entries that are there (0 and 1 own, 2 and 3 the partner's, by parity); what waits for a line; the partner refused a write. -/
structure Book where
  state    : BookState := .unbound
  plan     : Option Plan := none
  peer     : Option (Nat × Nat × BitVec 16) := none
  cmd      : Option BookCmd := none
  flight   : List (Nat × MirrorOp) := []
  captures : List (CapturePart × Nat) := []
  capDone  : List (CapturePart × Nat) := []
  slotMap0 : List Nat := []
  slotMap1 : List Nat := []
  written  : List Nat := []
  held0    : Tab Nat := []
  held1    : Tab Nat := []
  mineDig  : Option (Nat × BitVec 128) := none
  predDig  : Option (Nat × BitVec 128) := none
  mineAud  : Option (Nat × BitVec 128) := none
  peerAud  : Option (Nat × BitVec 128) := none
  voted    : Option Nat := none
  resume   : Option (Nat × Nat) := none
  stateAt  : Option Nat := none
  audited  : Option Nat := none
  ckpt     : List Nat := []
  complete : Option Nat := none
  rank     : Nat := 0
  present  : List Nat := []
  due      : List BookDue := []
  refused  : Bool := false
  result   : Nat := 0
  phase    : Nat := 0
  lost     : Bool := false
  unprot   : Bool := true
  deriving DecidableEq, Repr

/-- A page of a pool record (R468): JOBTAG, RANK, STEP, page number, bytes. -/
structure PoolPage where
  job  : Nat
  rank : Nat
  step : Nat
  page : Nat
  data : List Byte
  deriving DecidableEq, Repr

/-- A fault record as its unit builds it (Table 15-1); FLT adds SEQ and ACTION. -/
structure FaultRec where
  time   : Nat
  ctx    : Option (Nat × BitVec 16 × Nat)
  addr   : Option (Nat × Nat)
  tile   : Option Nat
  die    : Nat
  unit   : Nat
  half   : Nat
  cls    : Nat
  code   : Nat
  step   : Word
  detail : BitVec 192
  supp   : Nat
  logOnly : Bool
  deriving DecidableEq, Repr

/-- A chip reset in progress (R495): phase reached, t0, dies whose memory path failed or whose write-back failed, dump slot in use,
directory entries reached, unreadable parts with the bytes read of them before. -/
structure Reset where
  phase    : Nat
  t0       : Nat
  cause    : BitVec 512
  lost     : List Nat
  dump     : Option Nat
  reached  : Nat
  bad      : List (Nat × Nat)
  nonFree  : List Nat
  start    : Nat
  deriving DecidableEq, Repr

/-- Fuses (R294, R509, R523, R550). -/
structure Fuses where
  unusable : BitVec 128 := 0
  repair   : Tab Word := []
  serial   : BitVec 64 := 0
  baseMac  : BitVec 48 := 0
  secret   : BitVec 256 := 0
  rootHash : Tab (BitVec 256) := []
  revoked  : Tab Bool := []
  fsvn     : Nat := 0
  deriving DecidableEq, Repr

/-- The Compass complex and its flash (R504–R528): flash bytes by offset, an unlisted one reading as erased; slot booted, its manifest
and its Legend image as they were read; a request in progress and the response that waits to be written; restart times; log counters;
management packets that reached its cores. -/
structure Compass where
  flash    : Tab Byte := []
  booted   : Nat := 0
  manifest : BitVec 2048 := 0
  legendImg : List Byte := []
  busy     : Bool := false
  answer   : Option (List Byte) := none
  restarts : List Nat := []
  lseq     : Nat := 0
  dropped  : Nat := 0
  mgmtIn   : List (Nat × Packet) := []
  deriving DecidableEq, Repr

/-- Datum distribution (R531–R538): triggers whose tick is pending as (L, source), datum number, pairs seen; whether the counter has met
DAT_MATCH since it was written (or it never was), and whether it was written too late. -/
structure Datums where
  pend   : List (Nat × Nat) := []
  number : Nat := 0
  seen   : List (Nat × Nat) := []
  matched   : Bool := true
  lateMatch : Bool := false
  deriving DecidableEq, Repr

/-- Power control (R549–R556): tile-pair domains switching (domain, on), values of S taken last, consecutive samples of a rail out of
tolerance, die temperatures sampled last, L_P; for the Atlas (R540, R543), S summed and counted since STEP_BEGIN by context, and the current
health bucket. -/
structure Power where
  switching : List (Nat × Bool) := []
  samples   : List Nat := []
  outOf     : Tab Nat := []
  dieTemps  : List (List Nat) := []
  level     : Nat := 0
  stepPower : Tab (Nat × Nat) := []
  bucket    : Fin 24 := 0
  enWait    : List (Who × Nat) := []
  deriving DecidableEq, Repr

/-- The pins of E0 the spec gives levels (R563, R570), the sideband position register, and what the sideband answered. -/
structure Pins where
  pwrEn  : Bool := false
  prsnt  : Bool := false
  safe   : Bool := false
  alert  : Bool := false
  slotId : BitVec 3 := 0
  posWritten : Bool := false
  sbPos  : BitVec 32 := 0
  sbSent : List Nat := []
  deriving DecidableEq, Repr

/-- A context command that waits for the CTX block (R53): its source, context, word (Table 2-5), and the entry of a CTX_CREATE (R428). -/
structure CtxCmd where
  src : Src
  ctx : Nat
  cmd : Nat
  entry : Option Nat := none
  deriving DecidableEq, Repr

/-- The module. Beside memory: the base of a die's pinned range as it was when pinning was set (R324), the poisoned lines of pinned ranges, the
writes of the module's own agents that wait for an entry to close (R318), and the flit counters of the routers and die edges by register
(R41, R42); and what the host port holds back while its priority is paused (R406): datagrams, and RoCEv2 packets by queue pair. -/
structure State where
  pending  : List Instr := []
  regs     : Tab Word := []
  hbm      : Tab Byte := []
  pin      : Tab Byte := []
  spd      : Tab Byte := []
  poison   : List Nat := []
  dirty    : List Nat := []
  pinBase  : Tab Nat := []
  pinPoison : List Nat := []
  late     : List (Nat × List Byte) := []
  flits    : Tab Nat := []
  tiles    : Tab Tile := []
  stewards : Tab Steward := []
  ctxs     : Tab Ctx := []
  ctxQueue : List CtxCmd := []
  accs     : List Acc := []
  entries  : List RedEntry := []
  credits  : Tab Nat := []
  scacheOp : Tab (Nat × Nat) := []
  stackCtl : Tab Stack := []
  links    : Tab Link := []
  sentPkts : List (Nat × Packet) := []
  sentBlks : List (Nat × List Byte) := []
  mer      : Meridian := {}
  sessions : List Session := []
  queues   : Tab Queue := []
  rrNext   : Tab Nat := []
  mrs      : Tab MemRegion := []
  qps      : Tab Qp := []
  sentHost : List HostOut := []
  sentRoce : List (Nat × RoceOut) := []
  sentFrames : List (List Byte) := []
  paused   : List Nat := []
  heldHost : List (Nat × HostOut) := []
  heldRoce : List (Nat × Nat × RoceOut) := []
  lostEv   : Tab Nat := []
  books    : Tab Book := []
  pool     : List PoolPage := []
  faults   : List FaultRec := []
  floodNo  : Nat := 0
  floods   : List (Nat × Nat) := []
  rst      : Option Reset := none
  fuses    : Fuses := {}
  compass  : Compass := {}
  legend   : Legend := {}
  datums   : Datums := {}
  power    : Power := {}
  pins     : Pins := {}
  nextId   : Nat := 0
  free     : Nat := 0
  deriving DecidableEq, Repr

/-- The module right after power-on, before PWR_EN rises (DESIGN CHOICE: log entry 5): nothing listed in any table, so every register at a device
address reads its reset value, memory its unwritten value, every context FREE, every port DOWN and every unit idle. -/
def State.reset : State := {}

/-- Why a command stops without a next state. -/
inductive Fault where
  /-- Raised by every meaning for an operand outside the module's numbering (tile 200, port 16): there is no such unit (R21, R22),
  so no such event occurs. Safe: the model stops where the hardware has nothing. -/
  | noSuchUnit
  deriving DecidableEq, Repr

/-- Why a command has no meaning here. -/
inductive Refusal where
  /-- Raised by an arm of `exec` whose command has not been given its meaning. Safe: nothing is claimed of it. -/
  | notModelled (mnemonic : String)
  deriving DecidableEq, Repr

end Sys2Proof.Machine
end

