-- ==== Sys2Proof/Machine/Ops.lean ====
section
/-!
DEFINITION. The shared operations: bit fields, sorted tables, bytes of memory, and the accessors of State.
Every table keeps its keys strictly rising and lists no entry equal to what an unlisted key reads as.
-/

namespace Sys2Proof.Machine

/-! ### Bit fields -/

/-- Bits [hi:lo] of a number (R11). -/
def fld (v hi lo : Nat) : Nat := (v >>> lo) % 2 ^ (hi + 1 - lo)

/-- Bit i of a number. -/
def bit (v i : Nat) : Bool := Nat.testBit v i

/-- v with bits [hi:lo] replaced by x. -/
def setFld (v hi lo x : Nat) : Nat :=
  v - (fld v hi lo <<< lo) + ((x % 2 ^ (hi + 1 - lo)) <<< lo)

/-- v with bit i set to b. -/
def setBit (v i : Nat) (b : Bool) : Nat := setFld v i i b.toNat

/-- Two's complement value of the low w bits. -/
def sgn (w v : Nat) : Int :=
  let u := v % 2 ^ w
  if u < 2 ^ (w - 1) then (u : Int) else (u : Int) - (2 ^ w : Nat)

/-- The low w bits of an integer, in two's complement. -/
def wrap (w : Nat) (i : Int) : Nat := (i % ((2 ^ w : Nat) : Int)).toNat

/-- Saturating addition to a field of w bits. -/
def satAdd (w a b : Nat) : Nat := min (a + b) (2 ^ w - 1)

/-- Indices of the set bits of v below n, ascending. -/
def setBits (v n : Nat) : List Nat := (List.range n).filter (fun i => bit v i)

/-! ### Sorted tables -/

/-- The entry of key k, if listed. -/
def tget {α : Type} : Tab α → Nat → Option α
  | [], _ => none
  | (k', v) :: r, k => if k' = k then some v else tget r k

/-- The table with key k listed as v. -/
def tput {α : Type} : Tab α → Nat → α → Tab α
  | [], k, v => [(k, v)]
  | (k', v') :: r, k, v =>
    if k < k' then (k, v) :: (k', v') :: r
    else if k = k' then (k, v) :: r
    else (k', v') :: tput r k v

/-- The table without key k. -/
def tdel {α : Type} : Tab α → Nat → Tab α
  | [], _ => []
  | (k', v') :: r, k => if k' = k then tdel r k else (k', v') :: tdel r k

/-- Key k set to v where an unlisted key reads as d: setting d removes the entry. -/
def tset {α : Type} [DecidableEq α] (d : α) (t : Tab α) (k : Nat) (v : α) : Tab α :=
  if v = d then tdel t k else tput t k v

/-- What key k reads as where an unlisted key reads as d. -/
def tgetD {α : Type} (d : α) (t : Tab α) (k : Nat) : α := (tget t k).getD d

/-- Keys strictly rising, all above b when b is given. -/
def sortedFrom {α : Type} : Option Nat → Tab α → Bool
  | _, [] => true
  | none, (k, _) :: r => sortedFrom (some k) r
  | some b, (k, _) :: r => decide (b < k) && sortedFrom (some k) r

/-- The canonical form of a table whose unlisted keys read as d. -/
def tabWf {α : Type} [DecidableEq α] (d : α) (t : Tab α) : Bool :=
  sortedFrom none t && t.all (fun p => decide (p.2 ≠ d))

/-- Add k to a rising list without repeats. -/
def sinsert : Nat → List Nat → List Nat
  | k, [] => [k]
  | k, x :: r => if k < x then k :: x :: r else if k = x then x :: r else x :: sinsert k r

/-- Remove k from a list. -/
def sremove (k : Nat) (l : List Nat) : List Nat := l.filter (· ≠ k)

/-- Insert x before the first element that it does not follow. -/
def insertBy {α : Type} (le : α → α → Bool) (x : α) : List α → List α
  | [] => [x]
  | y :: r => if le x y then x :: y :: r else y :: insertBy le x r

/-- A list sorted by an order; equal elements keep their order. -/
def sortBy {α : Type} (le : α → α → Bool) : List α → List α
  | [] => []
  | x :: r => insertBy le x (sortBy le r)

/-! ### Bytes -/

/-- A number as n bytes, little-endian (R11). -/
def toBytes : Nat → Nat → List Byte
  | 0, _ => []
  | n + 1, v => BitVec.ofNat 8 v :: toBytes n (v / 256)

/-- The number that bytes hold, little-endian (R11). -/
def ofBytes : List Byte → Nat
  | [] => 0
  | b :: r => b.toNat + 256 * ofBytes r

/-- What a byte of memory that nothing has written reads as (DESIGN CHOICE: log entry 6). -/
def unwritten : Byte := 0#8

/-- The canonical form of a memory: addresses strictly rising, no listed byte equal to what an unlisted one reads as. -/
def Memory.wf (m : Tab Byte) : Bool := tabWf unwritten m

/-- One byte of a memory. -/
def memByte (m : Tab Byte) (a : Nat) : Byte := tgetD unwritten m a

/-- n bytes of a memory from address a. -/
def memRead (m : Tab Byte) (a : Nat) : Nat → List Byte
  | 0 => []
  | n + 1 => memByte m a :: memRead m (a + 1) n

/-- A memory with bytes written from address a. -/
def memWrite (m : Tab Byte) (a : Nat) : List Byte → Tab Byte
  | [] => m
  | b :: r => memWrite (tset unwritten m a b) (a + 1) r

/-- A memory with the bytes of a range [lo, hi) at their unwritten value. -/
def memZero (m : Tab Byte) (lo hi : Nat) : Tab Byte := m.filter (fun p => decide (p.1 < lo ∨ hi ≤ p.1))

/-! ### Device addresses (R35, R38–R40) -/

/-- HBM is 960 GiB from address 0. -/
def hbmTop : Nat := 0xF000000000
def spdBase : Nat := 0xF000000000
def spdSize : Nat := 0x800000
def tcbBase : Nat := 0xF400000000
def dieBase : Nat := 0xF800000000
def globBase : Nat := 0xFC00000000

/-- Address of byte off of tile t's scratchpad. -/
def spdAddr (t off : Nat) : Nat := spdBase + t * spdSize + off

/-- Register at offset off of window w of tile t's control block (Table 1-7). -/
def aTile (t w off : Nat) : Nat := tcbBase + t * 0x10000 + w * 0x1000 + off

/-- Register at offset off of die d's block (Table 1-8). -/
def aDie (d off : Nat) : Nat := dieBase + d * 0x1000000 + off

/-- Register at offset off of the edge and global range (Table 1-9). -/
def aGlob (off : Nat) : Nat := globBase + off

/-- Register of context c (Table 2-3). -/
def aCtx (c off : Nat) : Nat := aGlob (0x1000 + c * 0x100 + off)

/-- Register at offset off of Bluwen port p's window. -/
def aBlw (p off : Nat) : Nat := aGlob (0x1100000 + p * 0x10000 + off)

/-- Register at offset off of stack sk's controller window. -/
def aHbmc (sk off : Nat) : Nat := aDie (sk / 5) (0x400000 + (sk % 5) * 0x100000 + off)

/-- Column, row, die and local index of a tile (R26). -/
def tileX (t : Nat) : Nat := t % 16
def tileY (t : Nat) : Nat := t / 16
def tileDie (t : Nat) : Nat := (tileY t / 4) * 2 + tileX t / 8
def tileLocal (t : Nat) : Nat := (tileY t % 4) * 8 + tileX t % 8

/-- The tile whose scratchpad holds a device address, with the offset. -/
def spdOf (a : Nat) : Option (Nat × Nat) :=
  if spdBase ≤ a ∧ a < spdBase + 128 * spdSize then some ((a - spdBase) / spdSize, (a - spdBase) % spdSize) else none

/-! ### Stacks -/

def stackOf (s : State) (k : Nat) : Stack := tgetD {} s.stackCtl k
def modStack (k : Nat) (f : Stack → Stack) (s : State) : State :=
  { s with stackCtl := tset {} s.stackCtl k (f (stackOf s k)) }

/-! ### A step's answers -/

/-- The module is powered and not between the decision of a chip reset and its end: units issue and take commands. -/
def live (s : State) : Bool := s.pins.pwrEn && s.rst.isNone

/-- An effect that happens only on a live module. -/
def whenLive (s : State) (f : State → State) : State := if live s then f s else s

/-- The outcome of a command: no such unit, or its effect on a live module. -/
def act (ok : Bool) (s : State) (f : State → State) : Host.Outcome State Fault Refusal :=
  if ok then .next (whenLive s f) else .fault .noSuchUnit

/-- The outcome of a command that also acts on a module that is unpowered or in a chip reset. -/
def actAny (ok : Bool) (s : State) (f : State → State) : Host.Outcome State Fault Refusal :=
  if ok then .next (f s) else .fault .noSuchUnit

end Sys2Proof.Machine
end

