-- ==== Sys2Proof/Machine/Regs.lean ====
section
/-!
DEFINITION. The registers at device addresses: for each its width, the bits software writes, its reset value, whether chip reset
keeps it and who may reach it, as the register tables of every chapter state them. Reserved bits read zero (R19): no mask holds them.
-/

namespace Sys2Proof.Machine

/-- Who may read or write a register: agents of the tile's context with F0 and Compass, agents of the context alone, F0 and Compass, Compass alone,
nobody. -/
inductive Reach where
  | agents | context | f0cmps | cmps | nobody
  deriving DecidableEq, Repr

/-- A register. `rw`, `w1c`, `w1s` are the bits of those access types (Table 0-4); every other bit is RO or reads zero. `wide` marks
a part of a store wider than 64 bits, reached in 32-bit or 64-bit parts (R15). -/
structure RegSpec where
  width  : Nat := 32
  rw     : Nat := 0
  w1c    : Nat := 0
  w1s    : Nat := 0
  reset  : Nat := 0
  kept   : Bool := false
  wide   : Bool := false
  reads  : Reach := .f0cmps
  writes : Reach := .f0cmps
  deriving DecidableEq, Repr

/-- A 64-bit register whose bits only hardware changes. -/
def ro64 : Option RegSpec := some { width := 64 }
/-- A 32-bit register whose bits only hardware changes. -/
def ro32 : Option RegSpec := some {}

/-- The mask of bits [hi:lo]. -/
def mask (hi lo : Nat) : Nat := (2 ^ (hi + 1 - lo) - 1) <<< lo

/-- The layout of Table 2-6: bits [39:21], and bit 0 for a BASE. -/
def rangeMask (base : Bool) : Nat := mask 39 21 + base.toNat

/-- Table 4-10, Table 6-13, Table 11-11: a register that agents of the context may read and write. -/
def ag (r : RegSpec) : Option RegSpec := some { r with reads := .agents, writes := .agents }
/-- A register that agents of the context may read and F0 and Compass may write. -/
def agRead (r : RegSpec) : Option RegSpec := some { r with reads := .agents }
/-- A register that agents of the context may read and nobody may write. -/
def agNone (r : RegSpec) : Option RegSpec := some { r with reads := .agents, writes := .nobody }

/-- Windows 0x0000 and 0x1000 (R125, Table 3-9). -/
def regSt (o : Nat) : Option RegSpec :=
  if o = 0x000 then agRead { reset := 0x100 }
  else if o = 0x008 then some { width := 64, rw := mask 63 0 }
  else if o = 0x010 then ro32
  else if o = 0x018 then some { rw := 5, w1s := 2 }
  else if 0x100 ≤ o ∧ o < 0x200 ∧ o % 8 = 0 then some { width := 64, rw := mask 63 0 }
  else if o = 0x200 then some { rw := mask 11 0 }
  else if o = 0x208 then some { width := 64, rw := mask 63 0 }
  else none

/-- Windows 0x2000 and 0x3000 (Table 4-10). -/
def regMa (o : Nat) : Option RegSpec :=
  if o = 0x000 ∨ o = 0x008 then ag { width := 64, rw := mask 22 6 }
  else if o = 0x010 ∨ o = 0x018 ∨ o = 0x01C then ag {}
  else if 0x020 ≤ o ∧ o ≤ 0x040 ∧ o % 8 = 0 then ag { width := 64 }
  else none

/-- Window 0x4000 (Table 6-13). -/
def regVxe (o : Nat) : Option RegSpec :=
  if o = 0x000 then ag { w1c := 0x800 }
  else if o = 0x008 then ag { width := 64 }
  else if o = 0x010 then some { rw := mask 12 0 }
  else if o = 0x018 then ro64
  else if 0x020 ≤ o ∧ o ≤ 0x048 ∧ o % 8 = 0 then ag { width := 64 }
  else none

/-- Window 0x5000 (Table 6-13). -/
def regFtq (o : Nat) : Option RegSpec :=
  if o = 0x000 ∨ o = 0x004 then ag {}
  else if 0x100 ≤ o ∧ o < 0x180 ∧ o % 8 = 0 then ag { width := 64 }
  else none

/-- Window 0x6000 (Table 11-11). -/
def regCpy (o : Nat) : Option RegSpec :=
  if o = 0x000 then some { width := 64, rw := mask 22 5, reads := .agents, writes := .context }
  else if o = 0x008 then some { w1c := 0x800, reads := .agents, writes := .context }
  else if o = 0x010 ∨ o = 0x020 ∨ o = 0x028 ∨ o = 0x030 then agNone { width := 64 }
  else none

/-- Window 0x7000 (Table 9-5, Table 8-3). -/
def regSpd (o : Nat) : Option RegSpec :=
  if o = 0x000 then ag { w1c := 0xF3 }
  else if 0x010 ≤ o ∧ o ≤ 0x060 ∧ o % 8 = 0 then agRead { width := 64 }
  else if o = 0x100 then agRead { rw := mask 31 16 + 1, reset := 63 * 65536 + 1 }
  else if o = 0x108 ∨ o = 0x110 ∨ o = 0x200 then agRead { width := 64 }
  else if 0x800 ≤ o ∧ o < 0x900 ∧ o % 0x20 = 0x00 then ag { width := 64, rw := mask 44 32 + mask 27 16 + mask 11 0 }
  else if 0x800 ≤ o ∧ o < 0x900 ∧ o % 0x20 = 0x08 then agRead { width := 64 }
  else if 0x800 ≤ o ∧ o < 0x900 ∧ o % 0x20 = 0x10 then ag {}
  else if o = 0x900 then agRead { rw := mask 31 0, reset := 1048576 }
  else none

/-- Window 0x8000 (R529, Table 17-3): snapshot slots below 0x800, then the phase timer. -/
def regDatTile (o : Nat) : Option RegSpec :=
  if o = 0x000 then agRead {}
  else if o < 0x800 ∧ 8 ≤ o ∧ o % 8 = 0 then agRead { width := 64 }
  else if o = 0x800 then agRead {}
  else if o = 0x808 then agRead { width := 64, reset := mask 63 0 }
  else if 0x900 ≤ o ∧ o < 0xE00 ∧ o % 4 = 0 then agRead { width := 64, wide := true }
  else none

/-- Window 0x9000 (Table 2-10). -/
def regMsg (o : Nat) : Option RegSpec :=
  if o < 0x400 ∧ o % 4 = 0 then agNone { width := 64, wide := true }
  else if 0x400 ≤ o ∧ o < 0x480 ∧ o % 8 = 0 then ag { width := 64, rw := mask 43 32 + mask 22 16 + 2, w1c := 1 }
  else if 0x480 ≤ o ∧ o < 0x500 then
    if o % 0x20 = 0x00 then ag { width := 64, rw := mask 22 6 }
    else if o % 0x20 = 0x08 then ag { rw := mask 8 8 + mask 3 0 }
    else if o % 0x20 = 0x10 then ag { rw := mask 8 0 }
    else if o % 0x20 = 0x18 then ag {}
    else none
  else none

/-- Window 0xA000 (Table 1-11). -/
def regRtr (t o : Nat) : Option RegSpec :=
  if o = 0x000 then agNone { reset := tileLocal t * 256 + t }
  else if 0x008 ≤ o ∧ o ≤ 0x020 ∧ o % 8 = 0 then agNone { width := 64 }
  else none

/-- A tile control block (Table 1-7). -/
def regTile (t o : Nat) : Option RegSpec :=
  let w := o / 0x1000
  let p := o % 0x1000
  if w < 2 then regSt p
  else if w < 4 then regMa p
  else if w = 4 then regVxe p
  else if w = 5 then regFtq p
  else if w = 6 then regCpy p
  else if w = 7 then regSpd p
  else if w = 8 then regDatTile p
  else if w = 9 then regMsg p
  else if w = 10 then regRtr t p
  else none

/-- Whether compute die d is one end of edge e (Table 1-3). -/
def edgeAt (e d : Nat) : Bool :=
  match e with
  | 0 => d == 0 || d == 1
  | 1 => d == 2 || d == 3
  | 2 => d == 0 || d == 2
  | 3 => d == 1 || d == 3
  | 4 => d == 0
  | 5 => d == 2
  | 6 => d == 1
  | 7 => d == 3
  | _ => false

/-- Window 0x00_0000 of a die block (Table 1-12). -/
def regDnet (o : Nat) : Option RegSpec :=
  if o < 0x800 ∧ o % 0x100 = 0 then ro32
  else if o < 0x800 ∧ (o % 0x100 = 8 ∨ o % 0x100 = 0x10 ∨ o % 0x100 = 0x18) then ro64
  else if o = 0x800 then ro64
  else none

/-- SCACHE window (Table 10-7). -/
def regScache (o : Nat) : Option RegSpec :=
  if o = 0x000 then ro32
  else if o = 0x004 then ro32
  else if o = 0x008 ∨ o = 0x010 then some { width := 64, rw := rangeMask false }
  else if o = 0x018 then some { width := 64, rw := rangeMask false }
  else if o = 0x020 then some { rw := 0x107 }
  else if 0x040 ≤ o ∧ o ≤ 0x058 ∧ o % 8 = 0 then ro64
  else none

/-- MRU window (Table 10-7). -/
def regMru (o : Nat) : Option RegSpec :=
  if o < 0x14000 then
    let p := o % 0x1000
    if p = 0 then ro32
    else if 8 ≤ p ∧ p ≤ 0x20 ∧ p % 8 = 0 then ro64
    else none
  else if o = 0x1F0000 then some { rw := mask 31 0, reset := 50000000 }
  else none

/-- HBM controller window (Table 10-7, R328). -/
def regHbmc (o : Nat) : Option RegSpec :=
  if o = 0x000 then some { w1s := 0x100 }
  else if o = 0x008 then ro32
  else if 0x040 ≤ o ∧ o < 0x080 ∧ o % 8 = 0 then some { width := 64, rw := 0xBFBFBFBFBFBFBFBF, kept := true }
  else if o = 0x080 then ro64
  else if 0x100 ≤ o ∧ o ≤ 0x180 ∧ o % 8 = 0 then
    some { width := 64, rw := mask 43 32 + mask 22 16 + mask 6 0,
           reset := if o = 0x180 then 1024 * 2 ^ 32 + 64 * 65536 + 8 else 256 * 2 ^ 32 + 64 * 65536 }
  else if 0x200 ≤ o ∧ o ≤ 0x220 ∧ o % 8 = 0 then ro64
  else none

/-- A die block (Table 1-8). The die agents of PWRC and CLKC hold no state visible to software (R568). -/
def regDie (o : Nat) : Option RegSpec :=
  if o < 0x100000 then regDnet o
  else if o < 0x200000 then regScache (o - 0x100000)
  else if o < 0x400000 then regMru (o - 0x200000)
  else if o < 0x900000 then regHbmc ((o - 0x400000) % 0x100000)
  else if 0xC00000 ≤ o ∧ o < 0xD00000 ∧ o % 4 = 0 then some { width := 64, wide := true, reads := .cmps, writes := .cmps }
  else none

/-- CTX window (Table 2-3). -/
def regCtx (o : Nat) : Option RegSpec :=
  if o = 0x000 then some { reset := 0xFFFF }
  else if o = 0x008 ∨ o = 0x010 then ro64
  else if 0x1000 ≤ o ∧ o < 0x2000 then
    let p := o % 0x100
    if p = 0x00 ∨ p = 0x04 then ro32
    else if p = 0x08 then some { kept := true }
    else if p = 0x10 ∨ p = 0x18 ∨ p = 0x60 ∨ p = 0x68 ∨ p = 0x70 ∨ p = 0x78 ∨ p = 0x80 then some { width := 64, rw := mask 63 0 }
    else if 0x20 ≤ p ∧ p < 0x60 ∧ p % 8 = 0 then some { width := 64, rw := rangeMask (p % 16 = 0) }
    else if p = 0x88 then ro32
    else none
  else none

/-- The Legend default action of a fault code (Table 15-4, R481): 0 LOG, 1 ABORT, 2 TEARDOWN, 3 RESET. -/
def defaultAction (cls code : Nat) : Nat :=
  match cls with
  | 2 => if 1 ≤ code ∧ code ≤ 7 then 1 else 0
  | 3 => if 1 ≤ code ∧ code ≤ 6 then 1 else 0
  | 4 => if 1 ≤ code ∧ code ≤ 2 then 1 else 0
  | 5 => if 1 ≤ code ∧ code ≤ 7 then 1 else 0
  | 6 => if 1 ≤ code ∧ code ≤ 5 then 1 else 0
  | 7 => if code = 2 then 1 else 0
  | 8 => if code = 1 then 1 else if code = 3 then 3 else 0
  | 9 => 3
  | 10 => 3
  | _ => 0

/-- Reset value of FLT_ACTc_w: the actions of codes 8w to 8w + 7. -/
def actWord (c w : Nat) : Nat :=
  (List.range 8).foldl (fun a k => a + defaultAction c (8 * w + k) <<< (4 * k)) 0

/-- FLT window (Table 15-13). -/
def regFlt (o : Nat) : Option RegSpec :=
  let cm (r : RegSpec) : Option RegSpec := some { r with writes := .cmps }
  if o = 0x000 then some { kept := true }
  else if o = 0x008 then some { width := 64, reset := 2 ^ 32, kept := true }
  else if o = 0x010 then some { w1c := 0xFFFF }
  else if o = 0x018 then cm { rw := mask 31 0, reset := 1000000000 }
  else if o = 0x01C then cm { rw := mask 31 0, reset := 1000000 }
  else if o = 0x020 then cm { rw := mask 31 0, reset := 10000000 }
  else if o = 0x024 then cm { rw := mask 31 0, reset := 100000 }
  else if o = 0x028 then cm { width := 64, rw := mask 39 26, reset := 0x3BFC000000 }
  else if o = 0x030 then cm { width := 64, rw := mask 39 26, reset := 0x77FC000000 }
  else if o = 0x038 then ro32
  else if o = 0x040 then ro64
  else if 0x100 ≤ o ∧ o < 0x140 ∧ o % 4 = 0 then some { width := 64, wide := true, kept := true }
  else if 0x2000 ≤ o ∧ o < 0x2800 ∧ o % 4 = 0 then
    cm { rw := mask 31 0, reset := actWord ((o - 0x2000) / 0x80) ((o - 0x2000) % 0x80 / 4) }
  else if 0x4000 ≤ o ∧ o < 0x8000 ∧ o % 4 = 0 then some { width := 64, wide := true, kept := true }
  else none

/-- MER window (Table 12-11). -/
def regMer (o : Nat) : Option RegSpec :=
  if o = 0x000 then some { width := 64, kept := true }
  else if o = 0x008 ∨ o = 0x010 ∨ o = 0x018 then ro32
  else if o = 0x020 then some { rw := mask 15 8 + mask 4 0, reset := 8 * 256 + 20 }
  else if o = 0x028 then ro64
  else none

/-- Module DAT window (Table 17-4, R529). -/
def regDat (o : Nat) : Option RegSpec :=
  if o = 0x000 then some { rw := mask 20 20 + mask 17 16 + mask 13 9 + 1, reset := 0x10401 }
  else if o = 0x004 ∨ o = 0x008 ∨ o = 0x040 then ro32
  else if o = 0x010 ∨ o = 0x028 ∨ o = 0x030 ∨ o = 0x038 then ro64
  else if o = 0x018 ∨ o = 0x020 then some { width := 64, rw := mask 63 0 }
  else if 0x10000 ≤ o ∧ o < 0x70000 ∧ o % 8 = 0 then ro64
  else none

/-- Nominal set-point of rail r in mV (Table 18-2). -/
def railNominal (r : Nat) : Nat :=
  if r = 9 ∨ r = 14 then 1800 else if r = 10 ∨ r = 11 then 800 else if r = 12 then 1200 else if r = 15 then 1050 else 750

/-- PWRC window (Table 18-9). -/
def regPwrc (o : Nat) : Option RegSpec :=
  let cm (r : RegSpec) : Option RegSpec := some { r with writes := .cmps }
  if o = 0x000 ∨ o = 0x020 ∨ o = 0x028 then cm {}
  else if o = 0x008 ∨ o = 0x010 ∨ o = 0x030 ∨ o = 0x200 then cm { width := 64 }
  else if o = 0x018 then some { width := 64, rw := mask 63 0 }
  else if o = 0x024 then cm { rw := mask 31 0, reset := 25 * 2 ^ 24 + 2800 * 4096 + 2400 }
  else if 0x100 ≤ o ∧ o < 0x180 ∧ o % 8 = 0 then cm { width := 64, rw := mask 15 0, reset := railNominal ((o - 0x100) / 8) }
  else none

/-- CLKC window (Table 18-9). -/
def regClkc (o : Nat) : Option RegSpec :=
  if o = 0x000 then some { writes := .cmps } else none

/-- ATL window (Table 17-7). The image holds the live record. -/
def regAtl (o : Nat) : Option RegSpec :=
  if o = 0x000 then some { rw := mask 15 0, reset := 3600 }
  else if o = 0x004 ∨ o = 0x008 ∨ o = 0x010 then some { kept := true }
  else if o = 0x014 then some { rw := 1, kept := true }
  else if 0x10000 ≤ o ∧ o < 0x20000 ∧ o % 4 = 0 then some { width := 64, wide := true, kept := true }
  else none

/-- HOSTP window (Table 13-12). F0's values at start-up are those of R580. -/
def regHostp (o : Nat) : Option RegSpec :=
  if o = 0x0000 then some { rw := 0x107, reset := 0x100 }
  else if o = 0x0004 then ro32
  else if o = 0x0008 then some { rw := mask 15 0, reset := 24680 }
  else if o = 0x000C then some { w1s := 0xFFFF }
  else if 0x0100 ≤ o ∧ o ≤ 0x0140 ∧ o % 8 = 0 then ro64
  else if 0x1000 ≤ o ∧ o < 0x2000 then
    let p := o % 0x100
    let f0 := o < 0x1100
    if p = 0x00 then
      some { rw := mask 31 29 + mask 26 24 + mask 22 20 + 0x10000 + mask 11 0,
             reset := if f0 then 2 ^ 31 + 2 ^ 30 + 5 * 2 ^ 24 + 3 * 2 ^ 20 else 0 }
    else if p = 0x04 then ro32
    else if p = 0x08 then some { rw := mask 31 0 }
    else if p = 0x10 ∨ p = 0x18 then some { width := 64, rw := mask 63 0 }
    else if p = 0x20 then some { width := 64, rw := rangeMask true, reset := if f0 then 0x3A00000000 else 0 }
    else if p = 0x28 then some { width := 64, rw := rangeMask false, reset := if f0 then 0x3A3FE00000 else 0 }
    else if p = 0x30 then some { rw := mask 11 0, reset := if f0 then 0xA66 else 0 }
    else if p = 0x34 then some { rw := mask 21 16 + mask 12 0, reset := if f0 then 8 * 65536 + 64 else 0 }
    else none
  else none

/-- Role of port p at start-up (Table 12-8); of the pool or spare ports, BLW7 starts as pool and BLW15 as spare (DESIGN CHOICE: log entry 7). -/
def portRole (p : Nat) : Nat := if p % 8 < 7 then p % 8 + 1 else if p = 7 then 8 else 9

/-- BLW window of port p (Table 12-10, R402). -/
def regBlw (p o : Nat) : Option RegSpec :=
  if o = 0x000 then some { rw := mask 11 8 + 0x11, reset := portRole p * 256 + 0x11 }
  else if o = 0x004 ∨ o = 0x008 ∨ o = 0x010 then ro32
  else if 0x100 ≤ o ∧ o ≤ 0x150 ∧ o % 8 = 0 then ro64
  else if p = 0 ∧ (o = 0x8000 ∨ o = 0x8008) then some { kept := true }
  else none

/-- Collector window (Table 12-12). -/
def regCol (o : Nat) : Option RegSpec :=
  if o = 0x000 then some { rw := mask 31 0, reset := 50000000 }
  else if 0x008 ≤ o ∧ o ≤ 0x028 ∧ o % 8 = 0 then ro64
  else if 0x1000 ≤ o ∧ o < 0x2000 then
    let p := o % 0x100
    if p = 0x00 then some { rw := mask 18 0 }
    else if 0x08 ≤ p ∧ p ≤ 0x20 ∧ p % 8 = 0 then some { width := 64, rw := mask 63 60 + mask 57 20 }
    else if p = 0x28 then ro32
    else none
  else none

/-- FCE window (R475). -/
def regFce (o : Nat) : Option RegSpec :=
  if o = 0 then ro32
  else if 0x100 ≤ o ∧ o ≤ 0x118 ∧ o % 8 = 0 then ro64
  else none

/-- FBK window (Table 14-13). -/
def regFbk (o : Nat) : Option RegSpec :=
  if 0x1000 ≤ o ∧ o < 0x2000 then
    let p := o % 0x100
    if p = 0x00 then some { rw := mask 19 16 + 0x101, kept := true }
    else if p = 0x04 then some { reset := 2 ^ 18, kept := true }
    else if p = 0x08 then ro32
    else if p = 0x10 then some { width := 64, rw := mask 39 6, kept := true }
    else if 0x18 ≤ p ∧ p < 0x58 ∧ p % 8 = 0 then some { width := 64, rw := rangeMask (p = 0x18 ∨ p = 0x28 ∨ p = 0x38 ∨ p = 0x48), kept := true }
    else if p = 0x58 ∨ p = 0x60 ∨ p = 0x78 ∨ p = 0x80 then some { width := 64, kept := true }
    else if p = 0x68 then some { width := 64, reset := mask 63 0, kept := true }
    else if p = 0x70 then some { width := 64, rw := mask 63 0 }
    else if p = 0x88 then some { rw := mask 11 0 }
    else none
  else none

/-- CMPS window (Table 16-7). -/
def regCmps (o : Nat) : Option RegSpec :=
  if o = 0x000 then ro32
  else if o = 0x008 then some { w1s := 1 }
  else if o = 0x010 then some { width := 64, kept := true }
  else if 0x020 ≤ o ∧ o ≤ 0x02C ∧ o % 4 = 0 then ro32
  else if o = 0x030 then some { rw := mask 2 0, reset := 2 }
  else if 0x040 ≤ o ∧ o ≤ 0x058 ∧ o % 8 = 0 then some { width := 64, rw := mask 63 0 }
  else if 0x100 ≤ o ∧ o < 0x200 ∧ o % 4 = 0 then some { width := 64, rw := mask 63 0, wide := true }
  else if 0x200 ≤ o ∧ o < 0x300 ∧ o % 4 = 0 then some { width := 64, wide := true }
  else none

/-- Edge and global blocks (Table 1-9). -/
def regGlob (o : Nat) : Option RegSpec :=
  if o < 0x100000 then regCtx o
  else if o < 0x200000 then regFlt (o - 0x100000)
  else if o < 0x300000 then regMer (o - 0x200000)
  else if o < 0x400000 then regDat (o - 0x300000)
  else if o < 0x500000 then regPwrc (o - 0x400000)
  else if o < 0x600000 then regClkc (o - 0x500000)
  else if o < 0x700000 then regAtl (o - 0x600000)
  else if o < 0x1000000 then none
  else if o < 0x1100000 then regHostp (o - 0x1000000)
  else if o < 0x1200000 then regBlw ((o - 0x1100000) / 0x10000) ((o - 0x1100000) % 0x10000)
  else if o < 0x1300000 then regCol (o - 0x1200000)
  else if o < 0x1400000 then regFce (o - 0x1300000)
  else if o < 0x1500000 then regFbk (o - 0x1400000)
  else if o < 0x2000000 then none
  else if o < 0x3000000 then regCmps (o - 0x2000000)
  else none

/-- The register at a device address, if the address holds one (R35–R40). -/
def regSpec (a : Nat) : Option RegSpec :=
  if a < tcbBase then none
  else if a < tcbBase + 0x800000 then regTile ((a - tcbBase) / 0x10000) ((a - tcbBase) % 0x10000)
  else if a < dieBase then none
  else if a < dieBase + 0x4000000 then regDie ((a - dieBase) % 0x1000000)
  else if a < globBase then none
  else regGlob (a - globBase)

/-- The reset value of the register at a device address; zero where there is none. -/
def regReset (a : Nat) : Nat :=
  match regSpec a with
  | some r => r.reset
  | none => 0

/-- The value held for the register at an address: of a store wider than 64 bits, the aligned 64-bit word. -/
def regRaw (s : State) (a : Nat) : Nat := (tgetD (BitVec.ofNat 64 (regReset a)) s.regs a).toNat

/-- Hold v for the register at an address. -/
def regPut (a v : Nat) (s : State) : State :=
  { s with regs := tset (BitVec.ofNat 64 (regReset a)) s.regs a (BitVec.ofNat 64 v) }

/-- Change the value held for a register. -/
def regMod (a : Nat) (f : Nat → Nat) (s : State) : State := regPut a (f (regRaw s a)) s

/-- Replace bits [hi:lo] of the value held for a register. -/
def regFld (a hi lo v : Nat) (s : State) : State := regMod a (fun x => setFld x hi lo v) s

/-- Count n more events in a 64-bit saturating counter. -/
def regCount (a n : Nat) (s : State) : State := regMod a (fun x => satAdd 64 x n) s

/-- Put a wide value into consecutive 64-bit words from an address. -/
def regPutWords (a : Nat) : List Nat → State → State
  | [], s => s
  | w :: r, s => regPutWords (a + 8) r (regPut a w s)

/-- n consecutive 64-bit words from an address. -/
def regWords (s : State) (a : Nat) : Nat → List Nat
  | 0 => []
  | n + 1 => regRaw s a :: regWords s (a + 8) n

/-- The 64-bit words of a wide value, lowest first. -/
def words64 (v : Nat) : Nat → List Nat
  | 0 => []
  | n + 1 => v % 2 ^ 64 :: words64 (v / 2 ^ 64) n

end Sys2Proof.Machine
end

