-- ==== Sys2Proof/Machine/Route.lean ====
section
/-!
DEFINITION. The routes inside the module: between tiles (R29), between dies (R30, R31), and the flits that the routers and the die-to-die edges
count along them (R41, R42).
-/

namespace Sys2Proof.Machine

/-! ### Routes -/

/-- Values from a to b, both included, one step at a time. -/
def walkTo (a b : Nat) : List Nat :=
  if a ≤ b then (List.range (b + 1 - a)).map (a + ·) else (List.range (a + 1 - b)).map (a - ·)

/-- Tiles on the way between two tiles, both included: along x to the column of the destination, then along y (R29). -/
def tileRoute (a b : Nat) : List Nat :=
  (walkTo (tileX a) (tileX b)).map (fun x => tileY a * 16 + x) ++ ((walkTo (tileY a) (tileY b)).drop 1).map (fun y => y * 16 + tileX b)

/-- Dies as they are numbered here: C0 to C3 are 0 to 3, E0 and E1 are 4 and 5. -/
def dieE0 : Nat := 4
def dieE1 : Nat := 5

/-- The edge die of a Bluwen port (R34). -/
def portDie (p : Nat) : Nat := if p < 8 then dieE0 else dieE1

/-- The edge that joins two dies (Table 1-3). -/
def edgeOf (a b : Nat) : Option Nat :=
  match min a b, max a b with
  | 0, 1 => some 0
  | 2, 3 => some 1
  | 0, 2 => some 2
  | 1, 3 => some 3
  | 0, 4 => some 4
  | 2, 4 => some 5
  | 1, 5 => some 6
  | 3, 5 => some 7
  | _, _ => none

/-- The dies on the way between two dies: their edge, or the route of Table 1-4; from a compute die to the edge die on the other side, which that
table leaves out, the way back of the route it gives for the other direction (DEDUCED: log entry 121). -/
def dieRoute (a b : Nat) : List Nat :=
  match a, b with
  | 0, 3 => [0, 1, 3]
  | 3, 0 => [3, 2, 0]
  | 1, 2 => [1, 0, 2]
  | 2, 1 => [2, 3, 1]
  | 4, 1 => [4, 0, 1]
  | 4, 3 => [4, 2, 3]
  | 5, 0 => [5, 1, 0]
  | 5, 2 => [5, 3, 2]
  | 1, 4 => [1, 0, 4]
  | 3, 4 => [3, 2, 4]
  | 0, 5 => [0, 1, 5]
  | 2, 5 => [2, 3, 5]
  | 4, 5 => [4, 0, 1, 5]
  | 5, 4 => [5, 1, 0, 4]
  | _, _ => if a = b then [a] else [a, b]

/-! ### Counters -/

/-- A flit counter grows by the flits that a transfer of some bytes makes on the tile plane (0) or on a die edge (1). The spec states no flit size of the tile
plane nor how transfers share the flits of an edge, so their number is a free value (DESIGN CHOICE: log entry 121). -/
def flitCount (plane a bytes : Nat) (s : State) : State :=
  { s with flits := tput s.flits a (satAdd 64 ((tget s.flits a).getD 0) (Config.flits plane bytes)) }

/-- Counters of the router of tile t, and of a compute die's end of edge e. -/
def aRtr (t off : Nat) : Nat := aTile t 10 off
def aDnet (d e off : Nat) : Nat := aDie d (0x100 * e + off)

/-- A transfer of some bytes passes from die a to die b: the compute dies' ends of the edge count. -/
def edgePass (bytes a b : Nat) (s : State) : State :=
  match edgeOf a b with
  | none => s
  | some e =>
    let s := if a < 4 then flitCount 1 (aDnet a e 0x08) bytes s else s
    if b < 4 then flitCount 1 (aDnet b e 0x10) bytes s else s

/-- The edges on a route of dies count. -/
def edgesPass (bytes : Nat) : List Nat → State → State
  | a :: b :: r, s => edgesPass bytes (b :: r) (edgePass bytes a b s)
  | _, s => s

/-- A transfer takes a route of dies. -/
def diesPass (bytes : Nat) (r : List Nat) (s : State) : State := { s with flits := (edgesPass bytes r s).flits }

/-- A transfer takes a route of tiles: first and last router deliver, those between forward, and edges between dies are crossed. -/
def tilesPass (bytes a b : Nat) (s : State) : State :=
  let r := tileRoute a b
  diesPass bytes (r.map tileDie)
    { s with flits := (r.foldl (fun s t => flitCount 0 (aRtr t (if t = a ∨ t = b then 0x08 else 0x10)) bytes s) s).flits }

/-- Flit counters that are registers as they read. -/
def flitView (s : State) (a raw : Nat) : Nat := if raw = 0 then (tget s.flits a).getD 0 else raw

/-- The counters of the routers of a context's tile start again with it (R41). -/
def routerClear (t : Nat) (s : State) : State := { s with flits := s.flits.filter (fun p => decide (p.1 < aRtr t 0 ∨ aRtr t 0x1000 ≤ p.1)) }

end Sys2Proof.Machine
end

