-- ==== Sys2Proof/Machine/Interleave.lean ====
section
/-!
DEFINITION. Where an HBM address lives (R304, R305, R307), pinned ranges (R323), regulators (R326–R328), and the bytes of HBM as every agent reads and writes
them through the home stack caches (R303, R308, R312).
-/

namespace Sys2Proof.Machine

/-- Parity of a 64-bit value. -/
def par64 (v : Nat) : Nat := (List.range 64).foldl (fun a i => (a + (bit v i).toNat) % 2) 0

/-- Home of an HBM address: stack, channel, pseudo-channel, byte offset in the pseudo-channel (R305). -/
def hbmMap (s : State) (a : Nat) : Nat × Nat × Nat × Nat :=
  let d := a / 0x3C00000000
  let g := if s.legend.uniform then a >>> 11 else (a - d * 0x3C00000000) >>> 11
  let stack := if s.legend.uniform then g % 20 else 5 * d + g % 5
  let q := if s.legend.uniform then g / 20 else g / 5
  let ch := (List.range 5).foldl (fun c b =>
    c + ((fld q b b + par64 (Nat.land q (s.legend.chmask.getD b 0).toNat)) % 2) <<< b) 0
  let pc := (fld q 5 5 + par64 (Nat.land q s.legend.pcmask.toNat)) % 2
  (stack, ch, pc, (q >>> 6) * 2048 + a % 2048)

/-- Home stack, home die and channel group of an address; the MRU's unit number in its die (R307). -/
def homeStack (s : State) (a : Nat) : Nat := (hbmMap s a).1
def homeDie (s : State) (a : Nat) : Nat := homeStack s a / 5
def homeGroup (s : State) (a : Nat) : Nat := (hbmMap s a).2.1 / 8
def mruUnit (s : State) (a : Nat) : Nat := 4 * (homeStack s a % 5) + homeGroup s a

/-- First byte and length of a die's pinned range, when pinning is on: the base is that of the moment it was set (R324). -/
def pinRange (s : State) (d : Nat) : Option (Nat × Nat) :=
  let ctl := regRaw s (aDie d 0x100020)
  if bit ctl 8 then some ((tget s.pinBase d).getD (regRaw s (aDie d 0x100018)), (fld ctl 2 0 + 1) * 0x200000) else none

/-- Pinning is on at some die. -/
def anyPin (s : State) : Bool := (List.range 4).any (fun d => (pinRange s d).isSome)

/-- The byte at an HBM address lies in a pinned line. -/
def pinned (s : State) (a : Nat) : Bool :=
  match pinRange s (homeDie s a) with
  | some (b, n) => decide (b ≤ a ∧ a < b + n)
  | none => false

/-- Line of an address, and the lines that [a, a + n) touches. -/
def lineOf (a : Nat) : Nat := a / 64 * 64
def linesOf (a n : Nat) : List Nat := (List.range ((a + n - 1) / 64 + 1 - a / 64)).map (fun i => (a / 64 + i) * 64)

/-- HBMC_STATE.STATE of a stack: 0 UNTRAINED, 1 READY, 2 SELF_REFRESH, 3 QUARANTINED. -/
def stackState (s : State) (k : Nat) : Nat := fld (regRaw s (aHbmc k 0)) 1 0

/-! ### Regulators (R326–R328) -/

/-- HBMC_REGp of stack k as it applies in this tick (R327), and its GUAR, CEIL and BURST. -/
def regNow (s : State) (k p : Nat) : Nat :=
  match tget (stackOf s k).old p with
  | some v => v.toNat
  | none => regRaw s (aHbmc k (0x100 + 8 * p))
def regGuar (s : State) (k p : Nat) : Nat := fld (regNow s k p) 6 0
def regCeil (s : State) (k p : Nat) : Nat := fld (regNow s k p) 22 16
def regBurst (s : State) (k p : Nat) : Nat := fld (regNow s k p) 43 32

/-- Key of a bucket's deficit: partition, group, 0 guaranteed or 1 ceiling. -/
def bucketKey (p g kind : Nat) : Nat := (p * 4 + g) * 2 + kind

/-- Units a bucket holds. -/
def bucketLevel (s : State) (k p g kind : Nat) : Nat :=
  regBurst s k p * 64 - (tget (stackOf s k).buckets (bucketKey p g kind)).getD 0

/-- Take 64 units from a bucket. -/
def bucketTake (k p g kind : Nat) (s : State) : State :=
  modStack k (fun x =>
    { x with buckets := tset 0 x.buckets (bucketKey p g kind) ((tget x.buckets (bucketKey p g kind)).getD 0 + 64) }) s

/-- The class a request of a partition to a line has (R326); 2 where it waits. -/
def lineClass (s : State) (l p : Nat) : Nat :=
  if pinned s l || decide (64 ≤ bucketLevel s (homeStack s l) p (homeGroup s l) 0) then 0
  else if 64 ≤ bucketLevel s (homeStack s l) p (homeGroup s l) 1 then 1
  else 2

/-- Charge one request of a partition at its group (R326): class 0; class 1, after which the next partition's turn comes; or it waits. -/
def charge (a p : Nat) (s : State) : Option State :=
  let k := homeStack s a
  let g := homeGroup s a
  if pinned s a then some s
  else match lineClass s a p with
    | 0 => some (bucketTake k p g 0 (bucketTake k p g 1 s))
    | 1 => some (modStack k (fun x => { x with rr := tset 0 x.rr g ((p + 1) % 17) }) (bucketTake k p g 1 s))
    | _ => none

/-- Charge the request of every line of [a, a + n). -/
def chargeAll (a n p : Nat) (s : State) : Option State :=
  (linesOf a n).foldl (fun x l => match x with | some s => charge l p s | none => none) (some s)

/-- Empty a bucket by 64 units, as far as it holds them. -/
def bucketDrain (k p g kind : Nat) (s : State) : State :=
  let full := regBurst s k p * 64
  modStack k (fun x =>
    { x with buckets := tset 0 x.buckets (bucketKey p g kind) (min full ((tget x.buckets (bucketKey p g kind)).getD 0 + 64)) }) s

/-- The tokens of a command that stands for many requests of one agent on die d: taken as far as the buckets hold them, since the time the
requests wait is not shown (DESIGN CHOICE: log entry 114); each line crosses the edges to its home die. -/
def chargeWork (d p a n : Nat) (s : State) : State :=
  let t := (linesOf a n).foldl (fun s l =>
    let s := diesPass 64 (dieRoute d (homeDie s l)) s
    if pinned s l then s else bucketDrain (homeStack s l) p (homeGroup s l) 0 (bucketDrain (homeStack s l) p (homeGroup s l) 1 s)) s
  { s with stackCtl := t.stackCtl, flits := t.flits }

/-- The new regulator values of a stack apply, and its buckets are clipped to the new BURST (R327). -/
def newValues (s : State) (k : Nat) (x : Stack) : Stack :=
  { x with
    old := []
    buckets := x.old.foldl (fun b o =>
      let burst := fld (regRaw s (aHbmc k (0x100 + 8 * o.1))) 43 32
      ((List.range 4).flatMap (fun g => [bucketKey o.1 g 0, bucketKey o.1 g 1])).foldl (fun b e =>
        tset 0 b e (burst * 64 - (fld o.2.toNat 43 32 * 64 - (tget x.buckets e).getD 0))) b) x.buckets }

/-- The buckets of a stack after one tick. -/
def refillStack (s : State) (k : Nat) (x : Stack) : Stack :=
  let x := newValues s k x
  { x with buckets := x.buckets.foldr (fun e l =>
      let v := regRaw s (aHbmc k (0x100 + 8 * (e.1 / 8)))
      let gain := 10 * (if e.1 % 2 = 0 then fld v 6 0 else fld v 22 16)
      if e.2 ≤ gain then l else (e.1, e.2 - gain) :: l) [] }

/-- Every bucket after one tick. -/
def refill (s : State) : State :=
  { s with stackCtl := s.stackCtl.foldr (fun e l =>
      let x := refillStack s e.1 e.2
      if x = {} then l else (e.1, x) :: l) [] }

/-- Fill the buckets of a partition on every group (R328). -/
def fillBuckets (p : Nat) (s : State) : State :=
  (List.range 20).foldl (fun s k => modStack k (fun x => { x with buckets := x.buckets.filter (fun e => e.1 / 8 ≠ p) }) s) s

/-! ### Bytes of HBM -/

/-- Every byte of [a, a + n) is pinned or has its stack READY (R325). -/
def memAvailable (s : State) (a n : Nat) : Bool :=
  (linesOf a n).all (fun l => pinned s l || stackState s (homeStack s l) == 1)

/-- A line is poisoned (R312): the cache's copy of a pinned one, the stack's of another. -/
def linePoisoned (s : State) (l : Nat) : Bool := if pinned s l then s.pinPoison.contains l else s.poison.contains l
def poisonLine (l : Nat) (s : State) : State :=
  if pinned s l then { s with pinPoison := sinsert l s.pinPoison } else { s with poison := sinsert l s.poison }

/-- A poisoned line of [a, a + n) (R312). -/
def memPoisoned (s : State) (a n : Nat) : Option Nat := (linesOf a n).find? (linePoisoned s)

/-- n bytes of HBM from address a. -/
def hbmRead (s : State) (a n : Nat) : List Byte :=
  if anyPin s then (List.range n).map (fun i => if pinned s (a + i) then memByte s.pin (a + i) else memByte s.hbm (a + i))
  else memRead s.hbm a n

/-- Bytes written one by one to the pinned store or to HBM. -/
def pinWrite (a : Nat) : List Byte → State → State
  | [], s => s
  | b :: r, s =>
    pinWrite (a + 1) r (if pinned s a then { s with pin := tset unwritten s.pin a b } else { s with hbm := tset unwritten s.hbm a b })

/-- Write bytes to HBM: the lines become dirty in their home caches, and a line written whole loses its poison. -/
def hbmWrite (a : Nat) (d : List Byte) (s : State) : State :=
  let ls := linesOf a d.length
  let whole (l : Nat) : Bool := decide (a ≤ l ∧ l + 64 ≤ a + d.length)
  let s := { s with
    dirty := ls.foldl (fun x l => if pinned s l then x else sinsert l x) s.dirty
    poison := s.poison.filter (fun l => !(whole l && !pinned s l))
    pinPoison := s.pinPoison.filter (fun l => !(whole l && pinned s l)) }
  if anyPin s then pinWrite a d s else { s with hbm := memWrite s.hbm a d }

/-- An entry is open for a line of [a, a + n) (R318, R380). -/
def lineOpen (s : State) (a n : Nat) : Bool := s.entries.any (fun e => decide (e.line < a + n ∧ a < e.line + 64 ∧ 0 < n))

/-- A write by one of the module's own agents: while an entry is open for one of its lines it waits, and with it later ones to those bytes (R318). -/
def hbmPut (a : Nat) (d : List Byte) (s : State) : State :=
  if lineOpen s a d.length || s.late.any (fun w => decide (w.1 < a + d.length ∧ a < w.1 + w.2.length)) then { s with late := s.late ++ [(a, d)] }
  else hbmWrite a d s

/-- A write by an agent on die e of the module, charged to partition p. -/
def ownWrite (e p a : Nat) (d : List Byte) (s : State) : State := chargeWork e p a d.length (hbmPut a d s)

/-- Free bytes at an HBM address. -/
def freeBytes (a n : Nat) (s : State) : State :=
  hbmWrite a ((List.range n).map (fun i => BitVec.ofNat 8 (Config.freeNat (s.free + i)))) { s with free := s.free + n }

/-- The writes that waited and may be performed now are. -/
def flushLate (s : State) : State :=
  if s.late = [] then s else s.late.foldl (fun s w => hbmPut w.1 w.2 s) { s with late := [] }

/-- Write zero to every line of HBM (R331), or to those of a die's domain (R333). -/
def hbmClear (s : State) : State := { s with hbm := [], poison := [], dirty := [] }
def hbmClearDie (d : Nat) (s : State) : State :=
  if s.legend.uniform then hbmClear s
  else
    let lo := d * 0x3C00000000
    let hi := lo + 0x3C00000000
    { s with
      hbm := memZero s.hbm lo hi
      poison := s.poison.filter (fun l => decide (l < lo ∨ hi ≤ l))
      dirty := s.dirty.filter (fun l => decide (l < lo ∨ hi ≤ l)) }

end Sys2Proof.Machine
end

