-- ==== Sys2Proof/Machine/Signal.lean ====
section
/-!
DEFINITION. What every unit uses: Meridian time, the module's own device id, the context of a tile and its rights,
the building of fault records, and packets: their header fields, their route and their queueing at a port.
-/

namespace Sys2Proof.Machine

/-! ### Time and identity -/

/-- MER_TIME. -/
def now (s : State) : Nat := regRaw s (aGlob 0x200000)

/-- Set MER_TIME. -/
def setNow (v : Nat) (s : State) : State := regPut (aGlob 0x200000) v s

/-- Move the clock to tick t if it lies ahead (DESIGN CHOICE: log entry 3). -/
def advanceTo (t : Nat) (s : State) : State := if now s < t then setNow t s else s

/-- BLW_POS.DEVID: the module's own device id (R370). -/
def ownDev (s : State) : Nat := fld (regRaw s (aBlw 0 0x8000)) 27 16

/-- Torus dimensions of BLW_SHAPE. -/
def dimX (s : State) : Nat := fld (regRaw s (aBlw 0 0x8008)) 3 0 + 1
def dimY (s : State) : Nat := fld (regRaw s (aBlw 0 0x8008)) 7 4 + 1
def dimZ (s : State) : Nat := fld (regRaw s (aBlw 0 0x8008)) 11 8 + 1

/-- The system's diameter h (R374). -/
def diameter (s : State) : Nat := dimX s / 2 + dimY s / 2 + dimZ s / 2

/-- A fresh free value of w bits, and the state that has used it (DESIGN CHOICE: log entry 10). -/
def freeBits (w : Nat) (s : State) : Nat × State := (Config.freeNat s.free % 2 ^ w, { s with free := s.free + 1 })

/-- A fresh id for an access or message. -/
def freshId (s : State) : Nat × State := (s.nextId, { s with nextId := s.nextId + 1 })

/-! ### Units' own state -/

def tileOf (s : State) (t : Nat) : Tile := tgetD {} s.tiles t
def setTile (t : Nat) (x : Tile) (s : State) : State := { s with tiles := tset {} s.tiles t x }
def modTile (t : Nat) (f : Tile → Tile) (s : State) : State := setTile t (f (tileOf s t)) s

/-- Steward n of tile t. -/
def stOf (s : State) (t n : Nat) : Steward := tgetD {} s.stewards (2 * t + n)
def setSt (t n : Nat) (x : Steward) (s : State) : State := { s with stewards := tset {} s.stewards (2 * t + n) x }
def modSt (t n : Nat) (f : Steward → Steward) (s : State) : State := setSt t n (f (stOf s t n)) s

def ctxOf (s : State) (c : Nat) : Ctx := tgetD {} s.ctxs c
def setCtx (c : Nat) (x : Ctx) (s : State) : State := { s with ctxs := tset {} s.ctxs c x }
def modCtx (c : Nat) (f : Ctx → Ctx) (s : State) : State := setCtx c (f (ctxOf s c)) s

/-- Array a of tile t. -/
def maOf (s : State) (t a : Nat) : MArray := if a = 0 then (tileOf s t).ma0 else (tileOf s t).ma1
def setMa (t a : Nat) (x : MArray) (s : State) : State :=
  modTile t (fun k => if a = 0 then { k with ma0 := x } else { k with ma1 := x }) s
def modMa (t a : Nat) (f : MArray → MArray) (s : State) : State := setMa t a (f (maOf s t a)) s

/-- Stream i of an array. -/
def strOf (m : MArray) (i : Nat) : Stream := if i = 0 then m.stream0 else m.stream1
def setStr (i : Nat) (x : Stream) (m : MArray) : MArray := if i = 0 then { m with stream0 := x } else { m with stream1 := x }
def modStr (i : Nat) (f : Stream → Stream) (m : MArray) : MArray := setStr i (f (strOf m i)) m

def vxeOf (s : State) (t : Nat) : Vxe := (tileOf s t).vxe
def modVxe (t : Nat) (f : Vxe → Vxe) (s : State) : State := modTile t (fun k => { k with vxe := f k.vxe }) s

def cpyOf (s : State) (t : Nat) : Cpy := (tileOf s t).cpy
def modCpy (t : Nat) (f : Cpy → Cpy) (s : State) : State := modTile t (fun k => { k with cpy := f k.cpy }) s

/-- Buffer b of version slot k of tile t. -/
def vbufOf (s : State) (t k b : Nat) : VBuf := tgetD {} (tileOf s t).vbufs (2 * k + b)
def setVbuf (t k b : Nat) (x : VBuf) (s : State) : State :=
  modTile t (fun y => { y with vbufs := tset {} y.vbufs (2 * k + b) x }) s

def linkOf (s : State) (p : Nat) : Link := tgetD {} s.links p
def modLink (p : Nat) (f : Link → Link) (s : State) : State := { s with links := tset {} s.links p (f (linkOf s p)) }

def bookOf (s : State) (b : Nat) : Book := tgetD {} s.books b
def modBook (b : Nat) (f : Book → Book) (s : State) : State := { s with books := tset {} s.books b (f (bookOf s b)) }

/-! ### Bytes of scratchpads and HBM -/

/-- n bytes of tile t's scratchpad from offset off. -/
def spdRead (s : State) (t off n : Nat) : List Byte := memRead s.spd (t * spdSize + off) n

/-- A reservation of a steward of the tile on a line that is written ends (R101). -/
def endReservations (t o n : Nat) (s : State) : State :=
  [0, 1].foldl (fun s k => match (stOf s t k).resv with
    | some l => if decide (l < o + n ∧ o < l + 64) then modSt t k (fun x => { x with resv := none }) s else s
    | none => s) s

/-- Errors and write-backs of the words that a write of [off, off + n) covers: a whole word loses its error, a part leaves it (R292);
a pending write-back of a written word is cancelled (R290). -/
def eccWritten (off n : Nat) (x : Tile) : Tile :=
  { x with
    eccBad := x.eccBad.filter (fun w => !decide (off ≤ w * 8 ∧ w * 8 + 8 ≤ off + n))
    wbPend := x.wbPend.filter (fun p => decide (p.2 + 8 ≤ off ∨ off + n ≤ p.2)) }

/-- Write bytes into tile t's scratchpad through any port: errors, write-backs and reservations of what is written end. -/
def spdWrite (t off : Nat) (d : List Byte) (s : State) : State :=
  endReservations t off d.length
    (modTile t (eccWritten off d.length) { s with spd := memWrite s.spd (t * spdSize + off) d })

/-- Bytes of the device's memory: HBM or a scratchpad. -/
def devRead (s : State) (a n : Nat) : List Byte :=
  match spdOf a with
  | some (t, off) => spdRead s t off n
  | none => hbmRead s a n

def devWrite (a : Nat) (d : List Byte) (s : State) : State :=
  match spdOf a with
  | some (t, off) => spdWrite t off d s
  | none => hbmWrite a d s

/-! ### Contexts, tiles and rights -/

/-- The tile set of a context's registers as 128 bits. -/
def ctxTiles (s : State) (c : Nat) : Nat := regRaw s (aCtx c 0x10) + regRaw s (aCtx c 0x18) <<< 64

/-- The context a tile belongs to: one that is not FREE (R59). -/
def tileCtx (s : State) (t : Nat) : Option Nat :=
  (List.range 16).find? (fun c => decide ((ctxOf s c).state ≠ .free) && bit (ctxTiles s c) t)

/-- The tiles of a context, ascending. -/
def tilesOf (s : State) (c : Nat) : List Nat := setBits (ctxTiles s c) 128

/-- CTX_STEP. -/
def stepOf (s : State) (c : Nat) : Nat := regRaw s (aCtx c 0x78)

/-- FLT_CTX.ABORTED of a context (R486). -/
def aborted (s : State) (c : Nat) : Bool := bit (regRaw s (aGlob 0x100010)) (16 + c)

/-- First and last byte of valid range i of a context (Table 2-6). -/
def ctxRange (s : State) (c i : Nat) : Option (Nat × Nat) :=
  let b := regRaw s (aCtx c (0x20 + i * 0x10))
  let l := regRaw s (aCtx c (0x28 + i * 0x10))
  if bit b 0 then some (fld b 39 21 <<< 21, (fld l 39 21 <<< 21) + 0x1FFFFF) else none

/-- The valid ranges of a context. -/
def ctxRanges (s : State) (c : Nat) : List (Nat × Nat) := (List.range 4).filterMap (ctxRange s c)

/-- Every byte of [a, a + n) lies in a valid range of the context (Table 2-8). -/
def inPartition (s : State) (c a n : Nat) : Bool :=
  let g0 := a >>> 21
  let g1 := (a + (n - 1)) >>> 21
  (List.range (g1 - g0 + 1)).all (fun i =>
    (ctxRanges s c).any (fun r => decide (r.1 ≤ (g0 + i) <<< 21 ∧ (g0 + i) <<< 21 ≤ r.2)))

/-- The scratchpad bytes [a, a + n) lie in the context's tiles. -/
def inTiles (s : State) (c a n : Nat) : Bool :=
  match spdOf a, spdOf (a + (n - 1)) with
  | some (t, _), some (u, _) => (List.range (u + 1 - t)).all (fun i => bit (ctxTiles s c) (t + i))
  | _, _ => false

/-- Table 2-8 for memory: the context may read and write bytes [a, a + n) of this device. The scratchpads follow HBM. -/
def mayReach (s : State) (c a n : Nat) : Bool :=
  if a < hbmTop then
    if a + n ≤ hbmTop then inPartition s c a n else inPartition s c a (hbmTop - a) && inTiles s c hbmTop (a + n - hbmTop)
  else inTiles s c a n

/-! ### Fault records (R476–R478) -/

/-- A record of class.code at a unit of a die, with nothing else known. -/
def blankFault (s : State) (cls code unit die : Nat) : FaultRec :=
  { time := now s, ctx := none, addr := none, tile := none, die := die, unit := unit, half := 0, cls := cls, code := code,
    step := 0, detail := 0, supp := 0, logOnly := false }

/-- The record names context c (R477). -/
def namesCtx (s : State) (c : Nat) (r : FaultRec) : FaultRec :=
  { r with ctx := some (c, (ctxOf s c).gen, (ctxOf s c).rank), step := BitVec.ofNat 64 (stepOf s c) }

/-- The record names tile t and, when the tile has one, its context. -/
def namesTile (s : State) (t : Nat) (r : FaultRec) : FaultRec :=
  let r := { r with tile := some t, die := tileDie t }
  match tileCtx s t with
  | some c => namesCtx s c r
  | none => r

/-- A record of a unit of tile t. -/
def tileFault (s : State) (cls code unit t : Nat) : FaultRec := namesTile s t (blankFault s cls code unit (tileDie t))

/-- The record concerns an address of this device. -/
def atAddr (s : State) (a : Nat) (r : FaultRec) : FaultRec := { r with addr := some (ownDev s, a) }

/-- DETAIL of a record, given from its bit 0 (record bit 320). -/
def withDetail (d : Nat) (r : FaultRec) : FaultRec := { r with detail := BitVec.ofNat 192 d }

/-- Which of the units of one code on a die a record is of: the port, the stack's controller, or the reduction unit. -/
def unitPart (s : State) (r : FaultRec) : Nat :=
  match r.unit with
  | 0x23 => fld r.detail.toNat 3 0
  | 0x12 => fld r.detail.toNat 66 64
  | 0x11 => (r.addr.map (fun a => mruUnit s a.2)).getD 0
  | _ => 0

/-- Two records of one unit (R478); a half of an array counts as one (R501), and of the units of a die that share a code each one (DEDUCED: log entry 123). -/
def sameUnit (s : State) (x y : FaultRec) : Bool :=
  x.unit == y.unit && x.die == y.die && x.tile == y.tile && x.half == y.half && unitPart s x == unitPart s y

/-- A unit raises a record: it waits for FLT, or only counts while an earlier one of the unit waits (R478). -/
def raise (r : FaultRec) (s : State) : State :=
  if s.faults.any (sameUnit s r) then
    { s with faults := s.faults.map (fun x => if sameUnit s r x then { x with supp := satAdd 8 x.supp 1 } else x) }
  else { s with faults := s.faults ++ [r] }

/-- An access that is not performed, by agent who (R15, R36, R60): class 1 with the code, the address and, for an agent of a
context, its context. -/
def accessFault (who : Who) (code a : Nat) (s : State) : State :=
  match who with
  | .steward t n => raise (atAddr s a (tileFault s 1 code (1 + n) t)) s
  | .f0 => raise (atAddr s a (blankFault s 1 code 0x22 4)) s
  | .compass => raise (atAddr s a (blankFault s 1 code 0x27 4)) s

/-! ### Packets (R362, R363) -/

def pOpc (p : Packet) : Nat := fld p.hdr.toNat 7 0
def pVc (p : Packet) : Nat := fld p.hdr.toNat 10 8
def pNpay (p : Packet) : Nat := fld p.hdr.toNat 18 12
def pDst (p : Packet) : Nat := fld p.hdr.toNat 31 20
def pSrc (p : Packet) : Nat := fld p.hdr.toNat 43 32
def pCtx (p : Packet) : Nat := fld p.hdr.toNat 47 44
def pGen (p : Packet) : Nat := fld p.hdr.toNat 63 48
def pTile (p : Packet) : Nat := fld p.hdr.toNat 70 64
def pSt (p : Packet) : Nat := fld p.hdr.toNat 71 71
def pRank (p : Packet) : Nat := fld p.hdr.toNat 83 72
def pClass (p : Packet) : Nat := fld p.hdr.toNat 85 84
def pHops (p : Packet) : Nat := fld p.hdr.toNat 95 88
def pTag (p : Packet) : Nat := fld p.hdr.toNat 111 96
def pAddr (p : Packet) : Nat := fld p.hdr.toNat 167 128
/-- OPHDR bits [hi:lo]. -/
def pOp (p : Packet) (hi lo : Nat) : Nat := fld p.hdr.toNat hi lo
/-- Flits of a packet. -/
def pFlits (p : Packet) : Nat := 1 + pNpay p

/-- A packet with some header field replaced. -/
def pWith (p : Packet) (hi lo v : Nat) : Packet := { p with hdr := BitVec.ofNat 512 (setFld p.hdr.toNat hi lo v) }

/-- Header fields of Table 12-4 as the sender gives them; op holds OPHDR from bit 256 on. -/
structure Hdr where
  opc  : Nat
  vc   : Nat
  dst  : Nat
  ctx  : Nat := 0
  gen  : Nat := 0
  tile : Nat := 0
  st   : Nat := 0
  rank : Nat := 0
  cls  : Nat := 0
  tag  : Nat := 0
  addr : Nat := 0
  op   : Nat := 0
  deriving DecidableEq, Repr

/-- Pad bytes with zeros to whole flits. -/
def padFlits (d : List Byte) : List Byte := d ++ List.replicate ((64 - d.length % 64) % 64) 0#8

/-- The packet this module builds from header fields and payload bytes. -/
def mkPacket (s : State) (h : Hdr) (pay : List Byte) : Packet :=
  let pay := padFlits pay
  { hdr := BitVec.ofNat 512
      (h.opc % 256 + (h.vc % 8) <<< 8 + (pay.length / 64) <<< 12 + (h.dst % 4096) <<< 20 + ownDev s <<< 32 + (h.ctx % 16) <<< 44
        + (h.gen % 65536) <<< 48 + (h.tile % 128) <<< 64 + (h.st % 2) <<< 71 + (h.rank % 4096) <<< 72 + (h.cls % 4) <<< 84
        + (h.tag % 65536) <<< 96 + (h.addr % 2 ^ 40) <<< 128 + h.op <<< 256)
    pay := pay }

/-! ### Routes and ports (R371, R374) -/

/-- BLWp_STATUS.STATE: 0 DOWN, 1 TRAINING, 2 UP, 3 RETRAINING, 4 FAILED. -/
def portState (s : State) (p : Nat) : Nat := fld (regRaw s (aBlw p 0x004)) 2 0
def setPortState (p v : Nat) (s : State) : State := regFld (aBlw p 0x004) 2 0 v s

/-- BLWp_CFG.ROLE. -/
def roleOf (s : State) (p : Nat) : Nat := fld (regRaw s (aBlw p 0x000)) 11 8

/-- Ports of torus or buddy role that are UP, ascending (R489). -/
def floodPorts (s : State) : List Nat :=
  (List.range 16).filter (fun p => decide (1 ≤ roleOf s p ∧ roleOf s p ≤ 7 ∧ portState s p = 2))

/-- Parity of a 12-bit value. -/
def parity12 (v : Nat) : Nat := (List.range 12).foldl (fun a i => (a + (bit v i).toNat) % 2) 0

/-- The direction toward target in a dimension of size n: none, 0 for +, 1 for −. -/
def direction (n here target : Nat) : Option Nat :=
  let d := (target + n - here) % n
  if d = 0 then none else if d ≤ n / 2 then some 0 else some 1

/-- The port by which a packet from src to dst leaves this module (R374); none at its destination. -/
def routePort (s : State) (src dst : Nat) : Option Nat :=
  let me := ownDev s
  let pick (d : Nat) : Nat := d + 8 * parity12 (Nat.xor src dst)
  match direction (dimX s) (me % 16) (dst % 16) with
  | some d => some (pick d)
  | none =>
    match direction (dimY s) (me / 16 % 16) (dst / 16 % 16) with
    | some d => some (pick (2 + d))
    | none =>
      match direction (dimZ s) (me / 256) (dst / 256) with
      | some d => some (pick (4 + d))
      | none => none

/-- A packet meets port p: it waits there when the port is UP or RETRAINING, and is discarded and counted otherwise (R582). -/
def queueAt (p : Nat) (pkt : Packet) (s : State) : State :=
  if portState s p = 2 ∨ portState s p = 3 then modLink p (fun l => { l with queue := l.queue ++ [pkt] }) s
  else regCount (aBlw p 0x150) 1 s

/-- Send a packet toward its destination by its route (R374). -/
def sendPacket (pkt : Packet) (s : State) : State :=
  match routePort s (pSrc pkt) (pDst pkt) with
  | some p => queueAt p pkt s
  | none => s

/-- Send a packet on every port of a list. -/
def sendOn (ps : List Nat) (pkt : Packet) (s : State) : State := ps.foldl (fun a p => queueAt p pkt a) s

/-- The answer to a request packet: same tag and channel, class 2, back to the source's context by the job map of the context
that the request names (Table 12-5). -/
def answerPacket (s : State) (req : Packet) (opc op : Nat) (pay : List Byte) : Packet :=
  let c := ctxOf s (pCtx req)
  let e := if c.gen.toNat = pGen req then tget c.jobMap (pSrc req) else none
  mkPacket s { opc := opc, vc := pVc req, dst := pSrc req, ctx := (e.map (·.ctx)).getD 0, gen := (e.map (·.gen.toNat)).getD 0,
               tile := pTile req, st := pSt req, rank := c.rank, cls := 2, tag := pTag req, op := op } pay

/-! ### The waypoint table -/

/-- Index of the first entry of a kind. -/
def wpFind (l : List WpEntry) (k : WpKind) : Option Nat := l.findIdx? (fun e => e.kind == k)

/-- Indices b and c of a table. -/
def wpB (x : Ctx) : Nat := (wpFind x.wps .stepBegin).getD 0
def wpC (x : Ctx) : Nat := (wpFind x.wps .commit).getD 0

end Sys2Proof.Machine
end

