-- ==== Sys2Proof/Machine/Atlas.lean ====
section
/-!
DEFINITION. The live Atlas record: its counters by temperature band, the health buckets and the score (R539–R546).
-/

namespace Sys2Proof.Machine

/-- Register at offset off of the ATL window; the image's word that holds offset o of the record. -/
def aAtl (off : Nat) : Nat := aGlob (0x600000 + off)
def aImg (o : Nat) : Nat := aAtl (0x10000 + o / 8 * 8)

/-- A 32-bit counter of the record. -/
def img32 (s : State) (o : Nat) : Nat := if o % 8 = 0 then fld (regRaw s (aImg o)) 31 0 else fld (regRaw s (aImg o)) 63 32

/-- Set, and count n events in, a 32-bit counter of the record; counters saturate (R541). -/
def img32Put (o v : Nat) (s : State) : State :=
  if o % 8 = 0 then regFld (aImg o) 31 0 v s else regFld (aImg o) 63 32 v s
def atlCount (o n : Nat) (s : State) : State := img32Put o (satAdd 32 (img32 s o) n) s

/-- Count n events of a health term in the current bucket (R543). -/
def healthCount (term n : Nat) (s : State) : State := atlCount (0x1E00 + 48 * s.power.bucket.val + 4 * term) n s

/-- Band of a temperature in units of 0.5 °C (R540). -/
def tempBand (v : Nat) : Nat := if v < 80 then 0 else min 7 ((v - 60) / 20)

/-- Latest sample of a die's hottest sensor, and of a stack's (R540). -/
def dieTemp (s : State) (d : Nat) : Nat := fld (regRaw s (aGlob 0x400030)) (8 * d + 7) (8 * d)
def stackTemp (s : State) (k : Nat) : Nat := fld (regRaw s (aHbmc k 8)) 7 0

/-- n events of ECC entry e in a band. -/
def eccCount (e band n : Nat) (s : State) : State := atlCount (0xE00 + 32 * e + 4 * band) n s

/-- Scratchpad errors, accumulator errors of a tile. -/
def atlSpdCe (t : Nat) (s : State) : State := eccCount (tileDie t) (tempBand (dieTemp s (tileDie t))) 1 s
def atlSpdUe (t : Nat) (s : State) : State := healthCount 0 1 (eccCount (4 + tileDie t) (tempBand (dieTemp s (tileDie t))) 1 s)
def atlAccUe (t : Nat) (s : State) : State := healthCount 1 1 (eccCount (8 + tileDie t) (tempBand (dieTemp s (tileDie t))) 1 s)

/-- Errors of the cache arrays of die d. -/
def atlCacheCe (d : Nat) (s : State) : State := eccCount (12 + d) (tempBand (dieTemp s d)) 1 s
def atlCacheUe (d : Nat) (s : State) : State := healthCount 4 1 (eccCount (16 + d) (tempBand (dieTemp s d)) 1 s)

/-- Errors of stack k: symbol corrected, uncorrectable, on-die corrections. -/
def atlHbmCe (k : Nat) (s : State) : State := healthCount 3 1 (eccCount (20 + k) (tempBand (stackTemp s k)) 1 s)
def atlHbmUe (k : Nat) (s : State) : State := healthCount 2 1 (eccCount (40 + k) (tempBand (stackTemp s k)) 1 s)
def atlOnDie (k n : Nat) (s : State) : State := eccCount (60 + k) (tempBand (stackTemp s k)) n s

/-- n events of link counter j of port p (Table 17-5), with the health terms they belong to. -/
def linkCount (p j n : Nat) (s : State) : State :=
  let s := regCount (aImg (0x1800 + 64 * p + 8 * j)) n s
  if j = 1 ∨ j = 2 then healthCount 5 n s else if j = 4 ∨ j = 5 then healthCount 6 n s else s

/-- Load class of an average power in units of 10 µW (R540). -/
def loadClass (w : Nat) : Nat := if w < 60000000 then 0 else if w < 120000000 then 1 else if w < 180000000 then 2 else 3

/-- Hottest compute die. -/
def hotBand (s : State) : Nat := tempBand ((List.range 4).foldl (fun m d => max m (dieTemp s d)) 0)

/-- A mismatch of kind k (0 digest, 1 audit) of context c at its vote. With no power sample since STEP_BEGIN the average has no value:
the class is free. -/
def mismatchCount (k c : Nat) (s : State) : State :=
  let (cls, s) := match tget s.power.stepPower c with
    | some (sum, n) => if n = 0 then freeBits 2 s else (loadClass (sum / n), s)
    | none => freeBits 2 s
  healthCount (7 + k) 1 (atlCount (0x1C40 + 128 * k + 16 * hotBand s + 4 * cls) 1 s)

/-- STEP_BEGIN of context c: its average power starts anew. -/
def stepPowerStart (c : Nat) (s : State) : State := { s with power := { s.power with stepPower := tput s.power.stepPower c (0, 0) } }

/-- Erased connections now marked (term 12). -/
def erasedCount (s : State) : Nat :=
  (List.range 20).foldl (fun n k => (List.range 8).foldl (fun n w =>
    (List.range 8).foldl (fun n b => n + (bit (regRaw s (aHbmc k (0x40 + 8 * w))) (8 * b + 7)).toNat) n) n) 0

/-- Events of health term i (R543, R544). -/
def termEvents (s : State) (i : Nat) : Nat :=
  if i = 12 then erasedCount s
  else
    let e := (List.range 24).foldl (fun n h => n + img32 s (0x1E00 + 48 * h + 4 * i)) 0
    if i = 3 ∨ i = 5 then e / 1024 else e

/-- Penalty of a term. -/
def termPenalty (s : State) (i : Nat) : Nat :=
  let (w, cap) := s.legend.weights.getD i (0, 0)
  min cap (w * termEvents s i / 16)

/-- SCORE and TOP (R544). -/
def healthScore (s : State) : Nat := 1000 - (List.range 13).foldl (fun n i => n + termPenalty s i) 0
def healthTop (s : State) : Nat :=
  (List.range 13).foldl (fun b i => if termPenalty s b < termPenalty s i then i else b) 0

/-- ATL_HEALTH is computed. -/
def healthCompute (s : State) : State :=
  regPut (aAtl 0x10) (healthScore s + healthTop s <<< 16 + (fld (regRaw s (aAtl 0x14)) 0 0) <<< 20) s

/-- Residency bins (R539): a temperature in 0.5 °C, a deviation in mV. -/
def tempBin (v : Nat) : Nat := if v < 50 then 0 else if 210 ≤ v then 17 else (v - 40) / 10
def voltBin (mv : Int) : Nat := if mv < -100 then 0 else if 100 ≤ mv then 17 else ((2 * mv + 225) / 25).toNat

/-- ATL_SAMPLE's effect: one bin for every sensor and rail; powered time; the score. A stack sensor is its last report. -/
def atlSample (rails : List Nat) (s : State) : State :=
  let sensor (k : Nat) (s : State) : Nat := if k < 6 then dieTemp s k else stackTemp s (k - 6)
  let s := (List.range 26).foldl (fun s k => atlCount (0x100 + 72 * k + 4 * tempBin (sensor k s)) 1 s) s
  let s := (List.range 16).foldl (fun s r =>
    let set := fld (regRaw s (aGlob (0x400100 + 8 * r))) 15 0
    atlCount (0x900 + 72 * r + 4 * voltBin ((rails.getD r set : Nat) - (set : Int))) 1 s) s
  healthCompute (regCount (aImg 0x40) 1 s)

/-- BUCKET_ROTATION's effect: the oldest bucket is zeroed and becomes the current one. -/
def bucketRotation (s : State) : State :=
  let b := s.power.bucket + 1
  let s := { s with power := { s.power with bucket := b } }
  (List.range 12).foldl (fun s i => img32Put (0x1E00 + 48 * b.val + 4 * i) 0 s) s

/-- ATL_SAMPLE. Its operand: the measured voltage of each rail in mV. -/
def execAtlSample (rails : List Nat) (s : State) : Host.Outcome State Fault Refusal := act (decide (rails.length = 16)) s (atlSample rails)

/-- BUCKET_ROTATION. -/
def execBucketRotation (s : State) : Host.Outcome State Fault Refusal := act true s bucketRotation

end Sys2Proof.Machine
end

