-- ==== Sys2Proof/Machine/Numerics.lean ====
section
/-!
DEFINITION. Exact arithmetic on dyadic numbers with the special values, the element formats, rounding, EF64 and the hachure generator.
-/

namespace Sys2Proof.Machine

/-- A number of the arithmetic: NaN, an infinity, or exactly ±m × 2^e. -/
inductive Dyad where
  | nan
  | inf (neg : Bool)
  | fin (neg : Bool) (m : Nat) (e : Int)
  deriving DecidableEq, Repr

def Dyad.zero : Dyad := .fin false 0 0

/-- An integer as a number. -/
def numInt (i : Int) : Dyad := .fin (decide (i < 0)) i.natAbs 0

/-- Signed significand of a finite number, zero of the others. -/
def numSig : Dyad → Int
  | .fin n m _ => if n then -(m : Int) else m
  | _ => 0

/-- m × 2^e as an integer times 2^e0, for e0 ≤ e. -/
def scaleTo (e0 : Int) (i e : Int) : Int := i * 2 ^ (e - e0).toNat

def isNeg : Dyad → Bool
  | .inf n => n
  | .fin n m _ => n && m != 0
  | .nan => false

def isZero : Dyad → Bool
  | .fin _ m _ => m == 0
  | _ => false

def isNan : Dyad → Bool
  | .nan => true
  | _ => false

def isInf : Dyad → Bool
  | .inf _ => true
  | _ => false

def isFinite : Dyad → Bool
  | .fin _ _ _ => true
  | _ => false

/-- The exact sum (R181); a zero sum is +0 unless both terms are −0. -/
def nadd : Dyad → Dyad → Dyad
  | .nan, _ => .nan
  | _, .nan => .nan
  | .inf a, .inf b => if a = b then .inf a else .nan
  | .inf a, _ => .inf a
  | _, .inf b => .inf b
  | .fin n1 m1 e1, .fin n2 m2 e2 =>
    let e0 := min e1 e2
    let i := scaleTo e0 (numSig (.fin n1 m1 e1)) e1 + scaleTo e0 (numSig (.fin n2 m2 e2)) e2
    .fin (if i = 0 then n1 && n2 else decide (i < 0)) i.natAbs e0

def nneg : Dyad → Dyad
  | .nan => .nan
  | .inf a => .inf !a
  | .fin n m e => .fin (!n) m e

def nabs : Dyad → Dyad
  | .nan => .nan
  | .inf _ => .inf false
  | .fin _ m e => .fin false m e

def nsub (a b : Dyad) : Dyad := nadd a (nneg b)

/-- The exact product; ∞ × 0 is NaN (R181). -/
def nmul : Dyad → Dyad → Dyad
  | .nan, _ => .nan
  | _, .nan => .nan
  | .inf a, .inf b => .inf (a != b)
  | .inf a, .fin n m _ => if m = 0 then .nan else .inf (a != n)
  | .fin n m _, .inf b => if m = 0 then .nan else .inf (n != b)
  | .fin n1 m1 e1, .fin n2 m2 e2 => .fin (n1 != n2) (m1 * m2) (e1 + e2)

/-- a < b in the order of the extended reals; false with NaN. -/
def nlt : Dyad → Dyad → Bool
  | .nan, _ => false
  | _, .nan => false
  | .inf a, .inf b => a && !b
  | .inf a, .fin _ _ _ => a
  | .fin _ _ _, .inf b => !b
  | .fin n1 m1 e1, .fin n2 m2 e2 =>
    let e0 := min e1 e2
    decide (scaleTo e0 (numSig (.fin n1 m1 e1)) e1 < scaleTo e0 (numSig (.fin n2 m2 e2)) e2)

/-- Equal as extended reals; false with NaN. -/
def neq (a b : Dyad) : Bool := !isNan a && !isNan b && !nlt a b && !nlt b a

/-- Larger, smaller; NaN with NaN (R181). -/
def nmax (a b : Dyad) : Dyad := if isNan a || isNan b then .nan else if nlt a b then b else a
def nmin (a b : Dyad) : Dyad := if isNan a || isNan b then .nan else if nlt b a then b else a

/-- Exact multiplication by 2^k. -/
def nscale (k : Int) : Dyad → Dyad
  | .fin n m e => .fin n m (e + k)
  | x => x

/-- ⌊log₂|x|⌋ of a finite non-zero number. -/
def nexp : Dyad → Int
  | .fin _ m e => (Nat.log2 m : Int) + e
  | _ => 0

/-! ### Rounding -/

/-- How a value is rounded: to nearest even, or by the draw u (R184). -/
inductive Rnd where
  | rne
  | stoch (u : Nat)
  | toZero
  deriving DecidableEq, Repr

/-- m × 2^e rounded to a multiple of 2^q, counted in units of 2^q. -/
def roundAt (r : Rnd) (m : Nat) (e q : Int) : Nat :=
  if q ≤ e then m <<< (e - q).toNat
  else
    let k := (q - e).toNat
    let lo := m >>> k
    let rem := m - lo <<< k
    match r with
    | .rne =>
      let half := 2 ^ (k - 1)
      if half < rem ∨ (rem = half ∧ lo % 2 = 1) then lo + 1 else lo
    | .stoch u => if u < (2 ^ 32 * rem) / 2 ^ k then lo + 1 else lo
    | .toZero => lo

/-- The exponent of the last place at p significant bits, not below qmin. -/
def lastPlace (p : Nat) (qmin : Int) (m : Nat) (e : Int) : Int :=
  max ((Nat.log2 m : Int) + e - (p - 1 : Nat)) qmin

/-- A finite number rounded to p significant bits with gradual underflow at 2^qmin. -/
def roundNum (r : Rnd) (p : Nat) (qmin : Int) : Dyad → Dyad
  | .fin n m e => if m = 0 then .fin n 0 0 else let q := lastPlace p qmin m e; .fin n (roundAt r m e q) q
  | x => x

/-! ### Element formats -/

/-- A binary format: exponent bits, fraction bits, bias, the largest finite value as significand and exponent, and which specials
it has: IEEE-like infinities and NaN, only the NaN S.1111.111, or none. -/
inductive Specials where
  | ieee | nanOnly | none
  deriving DecidableEq, Repr

structure Fmt where
  eb   : Nat
  fb   : Nat
  bias : Nat
  sp   : Specials
  deriving DecidableEq, Repr

def fmtF32 : Fmt := ⟨8, 23, 127, .ieee⟩
def fmtBf16 : Fmt := ⟨8, 7, 127, .ieee⟩
def fmtF16 : Fmt := ⟨5, 10, 15, .ieee⟩
def fmtE4m3 : Fmt := ⟨4, 3, 7, .nanOnly⟩
def fmtE5m2 : Fmt := ⟨5, 2, 15, .ieee⟩
def fmtE3m2 : Fmt := ⟨3, 2, 3, .none⟩
def fmtE2m3 : Fmt := ⟨2, 3, 1, .none⟩
def fmtE2m1 : Fmt := ⟨2, 1, 1, .none⟩

/-- Width of a format in bits. -/
def fmtWidth (f : Fmt) : Nat := 1 + f.eb + f.fb

/-- Exponent of the last place of the smallest numbers. -/
def fmtQmin (f : Fmt) : Int := 1 - (f.bias : Int) - f.fb

/-- The largest finite magnitude, as significand and exponent. -/
def fmtMax (f : Fmt) : Nat × Int :=
  match f.sp with
  | .ieee => (2 ^ (f.fb + 1) - 1, (2 ^ f.eb - 2 : Nat) - (f.bias : Int) - f.fb)
  | .nanOnly => (2 ^ (f.fb + 1) - 2, (2 ^ f.eb - 1 : Nat) - (f.bias : Int) - f.fb)
  | .none => (2 ^ (f.fb + 1) - 1, (2 ^ f.eb - 1 : Nat) - (f.bias : Int) - f.fb)

/-- The number that a bit pattern holds (Table 5-5). -/
def fmtDecode (f : Fmt) (v : Nat) : Dyad :=
  let n := bit v (f.eb + f.fb)
  let e := fld v (f.eb + f.fb - 1) f.fb
  let g := v % 2 ^ f.fb
  let ones := 2 ^ f.eb - 1
  if f.sp = .ieee ∧ e = ones then (if g = 0 then .inf n else .nan)
  else if f.sp = .nanOnly ∧ e = ones ∧ g = 2 ^ f.fb - 1 then .nan
  else if e = 0 then .fin n g (fmtQmin f)
  else .fin n (2 ^ f.fb + g) ((e : Int) - f.bias - f.fb)

/-- The bit pattern of ±k × 2^q, a representable magnitude. -/
def fmtPack (f : Fmt) (n : Bool) (k : Nat) (q : Int) : Nat :=
  let s := n.toNat <<< (f.eb + f.fb)
  if k = 0 then s
  else
    let top := Nat.log2 k
    if top < f.fb ∧ q = fmtQmin f then s + k
    else
      let e := (q + (top : Int) + f.bias).toNat
      let g := if f.fb ≤ top then k >>> (top - f.fb) else k <<< (f.fb - top)
      s + e <<< f.fb + (g - 2 ^ f.fb)

/-- k × 2^q lies beyond the largest finite magnitude. -/
def fmtOver (f : Fmt) (k : Nat) (q : Int) : Bool :=
  let (mk, me) := fmtMax f
  nlt (.fin false mk me) (.fin false k q)

/-- The pattern of an infinity, of the canonical NaN and of the largest finite value. -/
def fmtInf (f : Fmt) (n : Bool) : Nat := n.toNat <<< (f.eb + f.fb) + (2 ^ f.eb - 1) <<< f.fb
def fmtNan (f : Fmt) : Nat := if f.sp = .nanOnly then 2 ^ (f.eb + f.fb) - 1 else fmtInf f false + 2 ^ (f.fb - 1)
def fmtMaxBits (f : Fmt) (n : Bool) : Nat := let (mk, me) := fmtMax f; fmtPack f n mk me

/-- IEEE 754 conversion of a number to a format with infinities: overflow to ∞, gradual underflow, canonical NaN. -/
def fmtEncode (f : Fmt) (r : Rnd) : Dyad → Nat
  | .nan => fmtNan f
  | .inf n => fmtInf f n
  | .fin n m e =>
    if m = 0 then n.toNat <<< (f.eb + f.fb)
    else
      let q := lastPlace (f.fb + 1) (fmtQmin f) m e
      let k := roundAt r m e q
      if fmtOver f k q then fmtInf f n else fmtPack f n k q

def f32 (v : Nat) : Dyad := fmtDecode fmtF32 v
def toF32 (x : Dyad) : Nat := fmtEncode fmtF32 .rne x

/-! ### EF64 (R172, R173) -/

/-- A number rounded to EF64: 48 significant bits, ties to even, gradual underflow; a zero result is +0. -/
def ef64Round : Dyad → Dyad
  | .fin n m e =>
    match roundNum .rne 48 (-16429) (.fin n m e) with
    | .fin n k q => if k = 0 then Dyad.zero else .fin n k q
    | x => x
  | x => x

/-- A finite EF64 magnitude lies beyond the largest one. -/
def ef64Over : Dyad → Bool
  | .fin _ m e => decide (m ≠ 0 ∧ (0x7FFE : Int) - 16430 + 47 < nexp (.fin false m e))
  | _ => false

/-- The 64 bits of a finite number already rounded to EF64. -/
def ef64Pack : Dyad → Nat
  | .fin n m e =>
    if m = 0 then 0
    else
      let top := (Nat.log2 m : Int) + e
      if top - 47 < -16429 then (n.toNat <<< 63) + (if e < -16429 then m >>> (-16429 - e).toNat else m <<< (e + 16429).toNat)
      else
        let g := if Nat.log2 m ≤ 47 then m <<< (47 - Nat.log2 m) else m >>> (Nat.log2 m - 47)
        (n.toNat <<< 63) + ((top - 47 + 16430).toNat <<< 48) + g
  | _ => 0

/-- The number of an EF64 pattern, a zero without its sign (R169); none for an invalid encoding, an infinity or NaN (Table 5-4). -/
def ef64Decode (v : Nat) : Option Dyad :=
  let n := bit v 63
  let e := fld v 62 48
  let g := v % 2 ^ 48
  if e = 0 then some (if g = 0 then Dyad.zero else .fin n g (-16429))
  else if e = 0x7FFF then none
  else if bit g 47 then some (.fin n g ((e : Int) - 16430))
  else none

/-! ### The hachure generator (R258) -/

/-- Rotation of a 32-bit value. -/
def rotl32 (v r : Nat) : Nat := ((v <<< r) ||| (v >>> (32 - r))) % 2 ^ 32

/-- One round of the generator on (a, b, c, d, k). -/
def hachureRound (kr : Nat) (x : Nat × Nat × Nat × Nat × Nat) : Nat × Nat × Nat × Nat × Nat :=
  let (a, b, c, d, k) := x
  let a := (a + Nat.xor k kr) % 2 ^ 32
  let d := rotl32 (Nat.xor d a) 16
  let c := (c + d) % 2 ^ 32
  let b := rotl32 (Nat.xor b c) 12
  let a := (a + b) % 2 ^ 32
  let d := rotl32 (Nat.xor d a) 8
  let c := (c + d) % 2 ^ 32
  let b := rotl32 (Nat.xor b c) 7
  let k := (rotl32 k 9 + a) % 2 ^ 32
  (a, b, c, d, k)

/-- The uniform 32-bit draw of seed, step, tensor and element (R257, R258). -/
def hachure (seed step tensor elem : Nat) : Nat :=
  let x := (seed % 2 ^ 32, fld seed 63 32, step % 2 ^ 32, elem % 2 ^ 32, tensor % 2 ^ 24 + fld elem 39 32 <<< 24)
  let (a, b, c, d, _) := [0x9E3779B9, 0x3C6EF372, 0xDAA66D2B, 0x78DDE6E4].foldl (fun y k => hachureRound k y) x
  Nat.xor (Nat.xor a b) (Nat.xor c d)

/-! ### Output conversion (R183–R187) -/

/-- What a conversion reports (Table 5-8). -/
structure ConvEvents where
  zero   : Bool := false
  flush  : Bool := false
  sat    : Bool := false
  nonfin : Bool := false
  deriving DecidableEq, Repr

/-- OUT_FMT's binary format; none for INT32, WIDE and reserved codes. -/
def outFmt : Nat → Option Fmt
  | 0 => some fmtF32
  | 1 => some fmtBf16
  | 2 => some fmtF16
  | 3 => some fmtE4m3
  | 4 => some fmtE5m2
  | _ => none

/-- Bytes of an output element. -/
def outBytes : Nat → Nat
  | 0 => 4
  | 1 => 2
  | 2 => 2
  | 3 => 1
  | 4 => 1
  | 5 => 4
  | _ => 16

/-- An overflowing or infinite value at output (Table 5-7): the pattern, and whether it was clamped. -/
def outOverflow (fmt : Nat) (sat n : Bool) : Nat × Bool :=
  match fmt with
  | 3 => if sat then (if n then 0xFE else 0x7E, true) else (0x7F, false)
  | 5 => (if n then 0x80000000 else 0x7FFFFFFF, true)
  | k => match outFmt k with
    | some f => (fmtInf f n, false)
    | none => (0, false)

/-- Conversion of w to OUT_FMT under SAT and the rounding (R184–R187): the pattern and its event classes. -/
def outConvert (fmt : Nat) (sat : Bool) (r : Rnd) (w : Dyad) : Nat × ConvEvents :=
  match w with
  | .nan => (match fmt with | 5 => 0x80000000 | k => match outFmt k with | some f => (if k = 4 then 0x7E else fmtNan f) | none => 0,
             { nonfin := true })
  | .inf n => let (v, c) := outOverflow fmt sat n; (v, { sat := c, nonfin := !c })
  | .fin n m e =>
    if fmt = 5 then
      let k := roundAt .rne m e 0
      if (if n then 2 ^ 31 < k else 2 ^ 31 ≤ k) then ((outOverflow 5 sat n).1, { sat := true })
      else (wrap 32 (if n then -(k : Int) else k), { zero := k == 0, flush := k == 0 && m != 0 })
    else match outFmt fmt with
      | none => (0, {})
      | some f =>
        let sgnBit := n.toNat <<< (f.eb + f.fb)
        if m = 0 then (sgnBit, { zero := true })
        else if f.eb + f.fb = 7 ∧ nlt (.fin false m e) (.fin false 1 (fmtQmin f)) then (sgnBit, { zero := true, flush := true })
        else
          let q := lastPlace (f.fb + 1) (fmtQmin f) m e
          let k := roundAt r m e q
          if fmtOver f k q then let (v, c) := outOverflow fmt sat n; (v, { sat := c, nonfin := !c })
          else (fmtPack f n k q, { zero := k == 0, flush := k == 0 })

end Sys2Proof.Machine
end

