-- ==== Sys2Proof/Machine/Ports.lean ====
section
/-!
DEFINITION. Banks, words and ECC errors of a scratchpad (R280, R289–R292), and what a unit's own row takes from requests that its port was
granted in a contended cycle (R286, R287): the bytes a read got, and the bytes a write has performed or lost.
-/

namespace Sys2Proof.Machine

/-- Register at offset off of tile t's SPD window. -/
def aSpd (t off : Nat) : Nat := aTile t 7 off

/-- Bank of a byte offset (R280). -/
def bankOf (o : Nat) : Nat := fld o 10 6

/-- Ports as they are numbered here: FEED-A and FEED-B are the arrays' numbers, VEC, and 3 + k for agent k of XFER. -/
def portVec : Nat := 2
def portDump : Nat := 3
def portSt (n : Nat) : Nat := 4 + n
def portCpy : Nat := 6
def portIn : Nat := 7

/-- Two byte intervals (start, length) share a byte. -/
def overlap (a n b m : Nat) : Bool := decide (a < b + m ∧ b < a + n ∧ 0 < n ∧ 0 < m)

/-- The longest runs of bytes whose addresses pass a test, as (address, bytes). -/
def byteRuns (keep : Nat → Bool) : Nat → List Byte → List (Nat × List Byte)
  | _, [] => []
  | a, b :: r =>
    if keep a then
      match byteRuns keep (a + 1) r with
      | (x, d) :: l => if x = a + 1 then (a, b :: d) :: l else (a, [b]) :: (x, d) :: l
      | [] => [(a, [b])]
    else byteRuns keep (a + 1) r

/-! ### Granted requests -/

/-- Granted requests of port p that its unit has not taken. -/
def portGot (s : State) (t p : Nat) (write : Bool) : List PortGot :=
  (tileOf s t).ports.got.filter (fun g => g.port == p && g.write == write)

/-- The state with the scratchpad as the granted reads of port p saw it (R286). -/
def portView (t p : Nat) (s : State) : State :=
  match portGot s t p false with
  | [] => s
  | l => { s with spd := l.foldl (fun m g => memWrite m (t * spdSize + g.off) g.data) s.spd }

/-- Byte a was part of a granted write of port p: it is written, or it was dropped. -/
def portWrote (s : State) (t p a : Nat) : Bool :=
  (portGot s t p true).any (fun g => !g.refused && decide (g.off ≤ a ∧ a < g.off + g.data.length))

/-- Port p's unit takes the granted requests that its access of [off, off + n) made. -/
def portTake (t p off n : Nat) (s : State) : State :=
  if (tileOf s t).ports.got = [] then s
  else modTile t (fun x => { x with ports := { x.ports with
    got := x.ports.got.filter (fun g => !(g.port == p && overlap g.off g.data.length off n)) } }) s

/-- A unit's write through port p: the bytes that no granted request of it has performed or lost. -/
def portStore (t p off : Nat) (d : List Byte) (s : State) : State :=
  if (tileOf s t).ports.got = [] then spdWrite t off d s
  else portTake t p off d.length
    ((byteRuns (fun a => !portWrote s t p a) off d).foldl (fun s r => spdWrite t r.1 r.2 s) s)

/-! ### ECC -/

/-- An ECC error of a word found by a source: the counters, SPD_STATUS, SPD_ECC_LAST with its free syndrome; a correctable one waits to
be written back, an uncorrectable one stays (R289–R291). -/
def eccFound (t src : Nat) (word : Nat) (e : EccFind) (s : State) : State :=
  let (syn, s) := freeBits 8 s
  let kind := match e with | .ce => 1 | .ue => 2
  let s := regPut (aSpd t 0x60) (kind <<< 62 + syn <<< 44 + src <<< 36 + word * 8) s
  match e with
  | .ce =>
    let s := atlSpdCe t (regCount (aSpd t 0x50) 1 (regFld (aSpd t 0) 0 0 1 s))
    if src = 4 ∨ (tget (tileOf s t).wbPend (bankOf (word * 8))).isSome then s
    else modTile t (fun x => { x with wbPend := tput x.wbPend (bankOf (word * 8)) (word * 8) }) s
  | .ue =>
    let s := atlSpdUe t (regCount (aSpd t 0x58) 1 (regFld (aSpd t 0) 1 1 1 s))
    modTile t (fun x => { x with eccBad := sinsert word x.eccBad }) s

/-- A unit's own row meets the uncorrectable word at offset w through port p (R291): it counts here, unless a granted request that read the
word has counted it. SPD's SOURCE is 3 for every agent of XFER. -/
def unitUe (t p w : Nat) (s : State) : State :=
  if (portGot s t p false).any (fun g => overlap g.off g.data.length (w / 8 * 8) 8) then s else eccFound t (min p 3) (w / 8) .ue s

end Sys2Proof.Machine
end

