-- ==== Sys2Proof/Machine/Version.lean ====
section
/-!
DEFINITION. Version slots (R272–R279) and the contour units' counting (R243–R245).
-/

namespace Sys2Proof.Machine

/-! ### Version slots -/

/-- SPD_VSs_CFG of a slot. -/
def vsCfg (s : State) (t k : Nat) : Nat := regRaw s (aTile t 7 (0x800 + k * 0x20))

/-- Slot enabled. -/
def vsEn (s : State) (t k : Nat) : Bool := bit (vsCfg s t k) 32

/-- First byte and length of buffer b under a CFG value. -/
def cfgBase (cfg b : Nat) : Nat := (if b = 0 then fld cfg 11 0 else fld cfg 27 16) * 2048
def cfgLen (cfg : Nat) : Nat := (fld cfg 44 33 + 1) * 2048

/-- A buffer is OPEN (Table 8-2). -/
def vbOpen (v : VBuf) : Bool := !v.valid && !v.pend

/-- A buffer is CLOSED. -/
def vbClosed (v : VBuf) : Bool := v.valid && !v.pend

/-- Every slot and buffer number. -/
def vsAll : List (Nat × Nat) := (List.range 8).flatMap (fun k => [(k, 0), (k, 1)])

/-- No byte of [off, off + n) lies in a buffer of an enabled slot that is not OPEN (R274). -/
def vsWritable (s : State) (t off n : Nat) : Bool :=
  vsAll.all (fun p => !(vsEn s t p.1 && overlap off n (cfgBase (vsCfg s t p.1) p.2) (cfgLen (vsCfg s t p.1))
    && !vbOpen (vbufOf s t p.1 p.2)))

/-- A unit's write through port p may be performed: no cycle refused it, and what no cycle has performed yet is writable (R274). -/
def portMayWrite (s : State) (t p off : Nat) (d : List Byte) : Bool :=
  if (tileOf s t).ports.got = [] then vsWritable s t off d.length
  else !(portGot s t p true).any (fun g => g.refused && overlap g.off g.data.length off d.length)
    && (byteRuns (fun a => !portWrote s t p a) off d).all (fun r => vsWritable s t r.1 r.2.length)

/-- A unit's write of those of its bytes that lie in no closed buffer (R274). -/
def portStoreOpen (t p off : Nat) (d : List Byte) (s : State) : State :=
  (byteRuns (fun a => vsWritable s t a 1) off d).foldl (fun s r => portStore t p r.1 r.2 s) s

/-- The buffer of slot k that holds every byte of [off, off + n). -/
def vsHolds (s : State) (t k off n : Nat) : Option Nat :=
  [0, 1].find? (fun b => decide (cfgBase (vsCfg s t k) b ≤ off ∧ off + n ≤ cfgBase (vsCfg s t k) b + cfgLen (vsCfg s t k)))

/-- Check 8 (R273): the buffer whose reader count the pass will hold. -/
def vsCheck (s : State) (t k ver off n : Nat) : Option Nat :=
  if vsEn s t k then
    match vsHolds s t k off n with
    | some b => if vbClosed (vbufOf s t k b) && (vbufOf s t k b).tag.toNat == ver then some b else none
    | none => none
  else none

/-- One more or one fewer reader of a buffer. -/
def vsReader (t k b : Nat) (up : Bool) (s : State) : State :=
  let v := vbufOf s t k b
  setVbuf t k b { v with rd := if up then v.rd + 1 else v.rd - 1 } s

/-- Passes of an array that have not completed: those in the array, then those decoded. -/
def maPasses (m : MArray) : List Pass :=
  m.stream0.inArray ++ m.stream0.decoded ++ m.stream1.inArray ++ m.stream1.decoded

/-- The output rows of a pass as (offset, length); none when it writes none (R157, Table 4-8). -/
def passOut (p : Pass) : List (Nat × Nat) :=
  let d := p.desc.toNat
  if bit d 44 then
    let shape := fld d 10 8
    let cols := if shape = 1 then 64 else if shape = 4 then 1 else 128
    (List.range (fld d 40 32 + 1)).map (fun i => (fld d 150 128 + i * fld d 207 192, cols * outBytes (fld d 23 20)))
  else []

/-- The uncompleted passes of the tile whose output lies in a byte interval, as (array, release order). -/
def passesInto (s : State) (t off n : Nat) : List (Nat × Nat) :=
  [0, 1].flatMap (fun a => ((maPasses (maOf s t a)).filter (fun p => (passOut p).any (fun r => overlap r.1 r.2 off n))).map (fun p => (a, p.ord)))

/-- A pass named by array and release order has not completed. -/
def passPending (s : State) (t : Nat) (q : Nat × Nat) : Bool := (maPasses (maOf s t q.1)).any (fun p => p.ord == q.2)

/-- OPEN of buffer b (R275): none where it is not allowed. -/
def vsOpenCmd (t k b : Nat) (s : State) : Option State :=
  let v := vbufOf s t k b
  if vsEn s t k && vbClosed v then some (setVbuf t k b { v with valid := false, pend := true } s) else none

/-- CLOSE of buffer b with a tag (R275): none where it is not allowed. -/
def vsCloseCmd (t k b : Nat) (tag : BitVec 16) (s : State) : Option State :=
  let v := vbufOf s t k b
  if vsEn s t k && vbOpen v && !v.closing then
    let ps := passesInto s t (cfgBase (vsCfg s t k) b) (cfgLen (vsCfg s t k))
    some (setVbuf t k b (if ps = [] then { v with valid := true, tag := tag }
      else { v with closing := true, closeTag := tag, closeOn := ps }) s)
  else none

/-- A write of SPD_VSs_CMD (Table 8-3). -/
def vsCmdWrite (t k v : Nat) (s : State) : Option State :=
  match fld v 3 0 with
  | 1 => vsOpenCmd t k (fld v 4 4) s
  | 2 => vsCloseCmd t k (fld v 4 4) (BitVec.ofNat 16 (fld v 31 16)) s
  | _ => none

/-- The two buffers of a CFG value lie in the scratchpad and overlap neither each other nor an enabled slot's buffer (R276). -/
def cfgPlaced (s : State) (t k cfg : Nat) : Bool :=
  let l := cfgLen cfg
  let b0 := cfgBase cfg 0
  let b1 := cfgBase cfg 1
  decide (b0 + l ≤ spdSize ∧ b1 + l ≤ spdSize) && !overlap b0 l b1 l
  && vsAll.all (fun p => p.1 == k || !vsEn s t p.1
      || (!overlap b0 l (cfgBase (vsCfg s t p.1) p.2) (cfgLen (vsCfg s t p.1))
          && !overlap b1 l (cfgBase (vsCfg s t p.1) p.2) (cfgLen (vsCfg s t p.1))))

/-- A write of SPD_VSs_CFG (R276). Enabling makes both buffers OPEN with RD 0 and TAG 0. -/
def vsCfgWriteCmd (t k v : Nat) (s : State) : Option State :=
  let a := aTile t 7 (0x800 + k * 0x20)
  let v := Nat.land v (mask 44 32 + mask 27 16 + mask 11 0)
  if vsEn s t k then
    if bit v 32 then none
    else if (vbufOf s t k 0).rd = 0 ∧ (vbufOf s t k 1).rd = 0 ∧ (vbufOf s t k 0).pend = false ∧ (vbufOf s t k 1).pend = false then
      some (setVbuf t k 0 {} (setVbuf t k 1 {} (regPut a v s)))
    else none
  else if bit v 32 then
    if cfgPlaced s t k v then some (setVbuf t k 0 {} (setVbuf t k 1 {} (regPut a v s))) else none
  else some (regPut a v s)

/-- SPD_VSs_STATE as it reads (Table 8-3). -/
def vsStateView (s : State) (t k : Nat) : Nat :=
  let v0 := vbufOf s t k 0
  let v1 := vbufOf s t k 1
  let half (v : VBuf) : Nat := v.rd % 4096 + v.valid.toNat <<< 12 + v.pend.toNat <<< 13 + v.closing.toNat <<< 14
  half v0 + half v1 <<< 16 + v0.tag.toNat <<< 32 + v1.tag.toNat <<< 48

/-- The reader count of an OPENING buffer is zero and the buffer becomes OPEN (R275). -/
def bufferOpens (t k b : Nat) (s : State) : State :=
  let v := vbufOf s t k b
  if v.pend && v.rd == 0 then setVbuf t k b { v with pend := false } s else s

/-- A pending CLOSE takes effect once every pass it waits for has completed (R275). -/
def closeTakesEffect (t k b : Nat) (s : State) : State :=
  let v := vbufOf s t k b
  if v.closing && !v.closeOn.any (passPending s t) then
    setVbuf t k b { v with closing := false, closeOn := [], valid := true, tag := v.closeTag } s
  else s

/-- SPD_VS_BOUND expires for an OPEN that still has readers: the buffer is CLOSED again with its old tag (R275). -/
def versionBusy (t k b : Nat) (s : State) : State :=
  let v := vbufOf s t k b
  if v.pend && v.rd != 0 then
    let s := setVbuf t k b { v with pend := false, valid := true } s
    raise (withDetail (k + 8 * b + (regRaw s (aTile t 7 0x60) % 2 ^ 60) <<< 4) (tileFault s 4 2 7 t)) s
  else s

/-- BUFFER_OPENS. -/
def execBufferOpens (t slot buf : Nat) (s : State) : Host.Outcome State Fault Refusal :=
  act (tileOk t && decide (slot < 8) && decide (buf < 2)) s (bufferOpens t slot buf)

/-- CLOSE_TAKES_EFFECT. -/
def execCloseTakesEffect (t slot buf : Nat) (s : State) : Host.Outcome State Fault Refusal :=
  act (tileOk t && decide (slot < 8) && decide (buf < 2)) s (closeTakesEffect t slot buf)

/-- VERSION_BUSY. -/
def execVersionBusy (t slot buf : Nat) (s : State) : Host.Outcome State Fault Refusal :=
  act (tileOk t && decide (slot < 8) && decide (buf < 2)) s (versionBusy t slot buf)

/-! ### Contour counting -/

/-- Address of the header of statistics bank k, and of the record of tensor id i in it (R245). -/
def bankAddr (tk : TensorKept) (k : Nat) : Nat := tk.stats + k * (64 + 192 * tk.nt)
def recAddr (tk : TensorKept) (k i : Nat) : Nat := bankAddr tk k + 64 + 192 * i

/-- Address of entry i of the tensor table. -/
def entryAddr (tk : TensorKept) (i : Nat) : Nat := tk.addr + 64 + 128 * i

/-- A 64-bit and a 32-bit saturating sum with the value in HBM at an address. -/
def hbmAdd (bits a n : Nat) (s : State) : State :=
  hbmWrite a (toBytes (bits / 8) (satAdd bits (ofBytes (hbmRead s a (bits / 8))) n)) s

/-- Add one record into its place in a bank (R243, R244). -/
def addRecord (tk : TensorKept) (k i : Nat) (r : ContourRec) (s : State) : State :=
  let a := recAddr tk k i
  let s := hbmAdd 64 a r.elems s
  let s := hbmAdd 64 (a + 8) r.zeros s
  let s := hbmAdd 64 (a + 16) r.flush s
  let s := hbmAdd 64 (a + 24) r.sat s
  let s := hbmAdd 64 (a + 32) r.nonfin s
  let s := hbmWrite (a + 40) (toBytes 4 (max r.amax (ofBytes (hbmRead s (a + 40) 4)))) s
  let s := hbmAdd 32 (a + 44) r.empty s
  let s := hbmAdd 32 (a + 48) r.nans s
  r.hist.foldl (fun s p => hbmAdd 32 (a + 64 + 4 * p.1) p.2 s) s

/-- A contour unit cannot reach its bank (R325, R334): its record, at no unit of Table 15-2 (DESIGN CHOICE: log entry 116). -/
def contourDenied (t a : Nat) (s : State) : State := raise (atAddr s a (tileFault s 5 6 0 t)) s

/-- Evict the record of a tensor id from a tile's contour unit into the bank of the running step (R243, R260). While an entry is open for the
record's lines it waits (R318); where they cannot be reached it stays. -/
def contourEvict (t i : Nat) (s : State) : State :=
  match tileCtx s t with
  | none => s
  | some c =>
    match (ctxOf s c).tensors, tget (tileOf s t).contour.recs i with
    | some tk, some r =>
      let a := recAddr tk (stepOf s c % 2) i
      if !memAvailable s a 192 then contourDenied t a s
      else if lineOpen s a 192 then s
      else
        modTile t (fun x => { x with contour := { x.contour with recs := tdel x.contour.recs i } })
          (addRecord tk (stepOf s c % 2) i r (chargeWork (tileDie t) c a 192 s))
    | _, _ => s

/-- Everything the contour unit of a tile of context c holds goes into bank k, where it can be reached (R247, action 1). -/
def contourFlush (c : Nat) (tk : TensorKept) (k t : Nat) (s : State) : State :=
  let u := (tileOf s t).contour
  let s := u.recs.foldl (fun s p =>
    let a := recAddr tk k p.1
    if memAvailable s a 192 then addRecord tk k p.1 p.2 (chargeWork (tileDie t) c a 192 s) else contourDenied t a s) s
  let s := if u.outside = 0 then s
    else if memAvailable s (bankAddr tk k) 64 then hbmAdd 32 (bankAddr tk k + 12) u.outside (chargeWork (tileDie t) c (bankAddr tk k) 64 s)
    else contourDenied t (bankAddr tk k) s
  modTile t (fun x => { x with contour := {} }) s

/-- HBASE of a tensor, from its table entry. -/
def hbaseOf (s : State) (tk : TensorKept) (i : Nat) : Int := sgn 8 (ofBytes (hbmRead s (entryAddr tk i + 2) 1))

/-- |w| rounded toward zero to FP32 and capped at the largest finite value (R244). -/
def amaxBits (w : Dyad) : Nat :=
  match w with
  | .fin _ m e =>
    match roundNum .toZero 24 (fmtQmin fmtF32) (.fin false m e) with
    | .fin _ k q => if fmtOver fmtF32 k q then 0x7F7FFFFF else fmtPack fmtF32 false k q
    | _ => 0
  | _ => 0

/-- Histogram bin of a finite non-zero value (R244). -/
def histBin (hbase : Int) (w : Dyad) : Nat :=
  let e := nexp w
  if e < hbase then 0 else if hbase + 30 ≤ e then 31 else (e - hbase + 1).toNat

/-- One reported element in a record (R244). -/
def recElem (hbase : Int) (w : Dyad) (ev : ConvEvents) (r : ContourRec) : ContourRec :=
  let big := 2 ^ 64 - 1
  { r with
    elems := min (r.elems + 1) big
    zeros := min (r.zeros + ev.zero.toNat) big
    flush := min (r.flush + ev.flush.toNat) big
    sat := min (r.sat + ev.sat.toNat) big
    nonfin := min (r.nonfin + ev.nonfin.toNat) big
    amax := if isFinite w then max r.amax (amaxBits w) else r.amax
    hist := if isFinite w && !isZero w then
        let b := histBin hbase w
        tput r.hist b (min ((tget r.hist b).getD 0 + 1) (2 ^ 32 - 1))
      else r.hist }

/-- A change of the record of tensor id i of the tile's context: an id of NT or greater counts in OUTSIDE; a seventeenth record
evicts the one of the lowest id first (DESIGN CHOICE: log entry 17). -/
def contourCount (t i : Nat) (f : Int → ContourRec → ContourRec) (s : State) : State :=
  match tileCtx s t with
  | none => s
  | some c =>
    match (ctxOf s c).tensors with
    | none => s
    | some tk =>
      if tk.nt ≤ i then
        modTile t (fun x => { x with contour := { x.contour with outside := satAdd 32 x.contour.outside 1 } }) s
      else
        let u := (tileOf s t).contour
        let s := match tget u.recs i, u.recs with
          | none, (j, _) :: _ => if 16 ≤ u.recs.length then contourEvict t j s else s
          | _, _ => s
        let h := hbaseOf s tk i
        modTile t (fun x => { x with contour :=
          { x.contour with recs := tput x.contour.recs i (f h ((tget x.contour.recs i).getD {})) } }) s

/-- One event of work that was in flight when COMMIT of step m was released counts in the bank of step m or in the unit (R246): free. -/
def contourOver (t i m : Nat) (f : Int → ContourRec → ContourRec) (s : State) : State :=
  let (b, s) := freeBits 1 s
  match tileCtx s t with
  | none => s
  | some c =>
    match (ctxOf s c).tensors with
    | none => s
    | some tk =>
      if b = 0 then contourCount t i f s
      else if tk.nt ≤ i then hbmAdd 32 (bankAddr tk (m % 2) + 12) 1 s
      else addRecord tk (m % 2) i (f (hbaseOf s tk i) {}) s

/-- One event against tensor id i; `across` is the step whose COMMIT its work was in flight at. -/
def contourEvent (t i : Nat) (across : Option Nat) (f : Int → ContourRec → ContourRec) (s : State) : State :=
  match across with
  | none => contourCount t i f s
  | some m => contourOver t i m f s

/-- Report converted elements with their values and classes (R187, R244). -/
def contourElems (t i : Nat) (across : Option Nat) (l : List (Dyad × ConvEvents)) (s : State) : State :=
  l.foldl (fun s p => contourEvent t i across (fun h r => recElem h p.1 p.2 r) s) s

/-- The passes of a tile's arrays, and the run its vector engine is in, are in flight at the release of COMMIT m (R246). -/
def passesCross (t m : Nat) (s : State) : State :=
  let f (x : Stream) : Stream := { x with inArray := x.inArray.map (fun p => { p with across := some m }) }
  let g (a : MArray) : MArray := { a with stream0 := f a.stream0, stream1 := f a.stream1 }
  let x := tileOf s t
  let x := if (maPasses x.ma0 ++ maPasses x.ma1).isEmpty then x else { x with ma0 := g x.ma0, ma1 := g x.ma1 }
  setTile t { x with vxe := { x.vxe with across := if x.vxe.begun then some m else none } } s

/-- CONTOUR_EVICTION. -/
def execContourEviction (t tensor : Nat) (s : State) : Host.Outcome State Fault Refusal :=
  act (tileOk t && decide (tensor < 4096)) s (contourEvict t tensor)

end Sys2Proof.Machine
end

