-- ==== Sys2Proof/Machine/Operands.lean ====
section
/-!
DEFINITION. Operands: the fields of an array descriptor, the placement of matrix operands in a scratchpad (row-major and WB128),
the byte intervals an operand covers, and its elements.
-/

namespace Sys2Proof.Machine

/-! ### Fields of an array descriptor (Table 4-7) -/

def dOpcode (d : Nat) : Nat := fld d 7 0
def dShape (d : Nat) : Nat := fld d 10 8
def dSkeep (d : Nat) : Bool := bit d 11
def dAFmt (d : Nat) : Nat := fld d 15 12
def dSFmt (d : Nat) : Nat := fld d 19 16
def dOutFmt (d : Nat) : Nat := fld d 23 20
def dRnd (d : Nat) : Nat := fld d 25 24
def dSat (d : Nat) : Bool := bit d 26
def dAT (d : Nat) : Bool := bit d 27
def dST (d : Nat) : Bool := bit d 28
def dAWb (d : Nat) : Bool := bit d 29
def dSWb (d : Nat) : Bool := bit d 30
def dOvw (d : Nat) : Bool := bit d 31
def dM (d : Nat) : Nat := fld d 40 32 + 1
def dAcc (d : Nat) : Nat := fld d 42 41
def dAct (d : Nat) : Nat := fld d 44 43
def dTensor (d : Nat) : Nat := fld d 59 48
def dAAddr (d : Nat) : Nat := fld d 86 64
def dSAddr (d : Nat) : Nat := fld d 118 96
def dOutAddr (d : Nat) : Nat := fld d 150 128
def dAStride (d : Nat) : Nat := fld d 175 160
def dSStride (d : Nat) : Nat := fld d 191 176
def dOutStride (d : Nat) : Nat := fld d 207 192
def dAScale (d : Nat) : Int := sgn 8 (fld d 215 208)
def dSScale (d : Nat) : Int := sgn 8 (fld d 223 216)
def dOutScale (d : Nat) : Int := sgn 8 (fld d 231 224)
def dBcast (d : Nat) : Nat := fld d 233 232
def dMaskKind (d : Nat) : Nat := fld d 235 234
def dVEn (d : Nat) : Bool := bit d 236
def dVOpnd (d : Nat) : Nat := fld d 237 237
def dVerSel (d : Nat) : Nat := fld d 240 238
def dVersion (d : Nat) : Nat := fld d 271 256
def dAXAddr (d : Nat) : Nat := fld d 294 272
def dSXAddr (d : Nat) : Nat := fld d 318 296
def dElemBase (d : Nat) : Nat := fld d 359 320
def dElemRow (d : Nat) : Nat := fld d 383 360
def dMask (d : Nat) : Nat := fld d 511 384

/-- Opcode FILL. -/
def isFill (d : Nat) : Bool := dOpcode d == 0x11

/-- The pass is an NSPLIT half. -/
def isSplit (d : Nat) : Bool := dShape d == 1

/-- Columns a pass targets, and the first of them on stream st (Table 4-4, R143). -/
def dCols (d : Nat) : Nat := if dShape d = 1 then 64 else if dShape d = 4 then 1 else 128
def dCol0 (d st : Nat) : Nat := if isSplit d then 64 * st else 0

/-- Format groups of Table 4-2: 0 8-bit float, 1 8-bit integer, 2 FP16, 3 BF16, 4 MX, 5 B1, 6 reserved. -/
def fmtGroup (f : Nat) : Nat :=
  if f < 2 then 0 else if f < 4 then 1 else if f = 4 then 2 else if f = 5 then 3 else if f < 11 then 4 else if f = 11 then 5 else 6

/-- Both operands MXFP6 or MXFP4: two products per PE and cycle (R130). -/
def doubleRate (d : Nat) : Bool := decide (8 ≤ dAFmt d ∧ dAFmt d ≤ 10 ∧ 8 ≤ dSFmt d ∧ dSFmt d ≤ 10)

/-- k values one pass consumes (Table 4-1, Table 4-4); for HAMM, bytes of packed bits. -/
def dK (d : Nat) : Nat :=
  let k := if doubleRate d then 256 else 128
  if dShape d = 2 then k / 2 else if dShape d = 3 then k / 4 else k

/-- NSPLIT half of a pass on stream st as a fault record has it (Table 15-1). -/
def dHalf (d st : Nat) : Nat := if isSplit d || st == 1 then st + 1 else 0

/-- Width in bits of an element of a format. -/
def elemBits (f : Nat) : Nat :=
  if f = 4 ∨ f = 5 then 16 else if f = 8 ∨ f = 9 then 6 else if f = 10 then 4 else 8

/-- The value of an element code (Table 4-2, Table 5-5); B1 bytes are plain numbers. -/
def elemValue (f v : Nat) : Dyad :=
  match f with
  | 0 => fmtDecode fmtE4m3 v
  | 1 => fmtDecode fmtE5m2 v
  | 2 => numInt (sgn 8 v)
  | 3 => numInt v
  | 4 => fmtDecode fmtF16 v
  | 5 => fmtDecode fmtBf16 v
  | 6 => fmtDecode fmtE4m3 v
  | 7 => fmtDecode fmtE5m2 v
  | 8 => fmtDecode fmtE3m2 v
  | 9 => fmtDecode fmtE2m3 v
  | 10 => fmtDecode fmtE2m1 v
  | _ => numInt v

/-! ### Placement (R151, R261) -/

/-- Byte offset of element (i, j) of a stored WB128 matrix (R261). -/
def wb128Offset (addr stride w i j : Nat) : Nat :=
  let r := i % 128
  let c := j % 128
  let a := r / 16
  let b := c / 16
  let k := a * 8 + Nat.xor a b
  addr + i / 128 * 128 * stride + j / 128 * 16384 * w + k * 256 * w + ((r % 16) * 16 + c % 16) * w

/-- A matrix operand in a scratchpad. -/
structure MatOp where
  addr   : Nat
  stride : Nat
  wb     : Bool
  tr     : Bool
  fmt    : Nat
  rows   : Nat
  cols   : Nat
  deriving DecidableEq, Repr

/-- A and S of a descriptor (R20): A is M × K, S is K × N. -/
def opA (d : Nat) : MatOp := ⟨dAAddr d, dAStride d, dAWb d, dAT d, dAFmt d, dM d, dK d⟩
def opS (d : Nat) : MatOp := ⟨dSAddr d, dSStride d, dSWb d, dST d, dSFmt d, dK d, dCols d⟩

/-- Sixteens that cover n. -/
def sixteens (n : Nat) : Nat := (n + 15) / 16

/-- The byte intervals (offset, length) that an operand covers: whole sub-blocks of a WB128 operand (R262, R264), whole rows of a
row-major one. -/
def intervals (o : MatOp) : List (Nat × Nat) :=
  if o.wb then
    let w := elemBits o.fmt / 8
    (List.range (sixteens o.rows)).flatMap (fun a => (List.range (sixteens o.cols)).map (fun b =>
      (if o.tr then wb128Offset o.addr o.stride w (16 * b) (16 * a) else wb128Offset o.addr o.stride w (16 * a) (16 * b), 256 * w)))
  else (List.range o.rows).map (fun i => (o.addr + i * o.stride, (o.cols * elemBits o.fmt + 7) / 8))

/-- First and past-the-last byte of a list of intervals. -/
def span (l : List (Nat × Nat)) : Nat × Nat :=
  match l with
  | [] => (0, 0)
  | p :: r => r.foldl (fun x q => (min x.1 q.1, max x.2 (q.1 + q.2))) (p.1, p.1 + p.2)

/-- Every interval lies inside the scratchpad. -/
def inSpd (l : List (Nat × Nat)) : Bool := l.all (fun p => decide (p.1 + p.2 ≤ spdSize))

/-- Element codes of row i of an operand. -/
def opRow (s : State) (t : Nat) (o : MatOp) (i : Nat) : List Nat :=
  let w := elemBits o.fmt
  if o.wb then
    (List.range o.cols).map (fun j =>
      ofBytes (spdRead s t (if o.tr then wb128Offset o.addr o.stride (w / 8) j i else wb128Offset o.addr o.stride (w / 8) i j) (w / 8)))
  else
    let v := ofBytes (spdRead s t (o.addr + i * o.stride) ((o.cols * w + 7) / 8))
    (List.range o.cols).map (fun j => (v >>> (w * j)) % 2 ^ w)

/-- Offset of the first word with an uncorrectable error among byte intervals (R291). -/
def firstUe (s : State) (t : Nat) (l : List (Nat × Nat)) : Option Nat :=
  ((tileOf s t).eccBad.find? (fun w => l.any (fun p => overlap (w * 8) 8 p.1 p.2))).map (· * 8)

/-- Buffers a pass of M rows from buffer acc targets (R132, R209). -/
def targetBufs (acc m : Nat) : List Nat := (List.range ((m + 127) / 128)).map (fun i => (acc + i) % 4)

/-- Element key of pass-local row m and accumulator column n (R132). -/
def accKey (acc m n : Nat) : Nat := (((acc + m / 128) % 4) * 128 + m % 128) * 128 + n

/-- The element in row m and column n is masked (R154). -/
def masked (kind mask m n : Nat) : Bool :=
  if kind = 1 then bit mask (m % 128) else if kind = 2 then bit mask (m % 128 / 16 * 8 + n / 16) else false

end Sys2Proof.Machine
end

