-- ==== Sys2Proof/Machine/CopyDesc.lean ====
section
/-!
DEFINITION. Copy descriptors (Tables 11-1 to 11-4): fields, checks, and the pieces that a row moves.
-/

namespace Sys2Proof.Machine

def cKind (d : Nat) : Nat := fld d 3 0
def cW (d : Nat) : Nat := fld d 5 4
def cOrder (d : Nat) : Bool := bit d 6
def cRows (d : Nat) : Nat := fld d 23 8 + 1
def cRowBytes (d : Nat) : Nat := fld d 39 24 + 1
def cSrcStride (d : Nat) : Nat := fld d 63 40
def cDstStride (d : Nat) : Nat := fld d 87 64
def cSrcDev (d : Nat) : Nat := fld d 179 168
def cSrc (d : Nat) : Nat := fld d 167 128
def cDstDev (d : Nat) : Nat := fld d 243 232
def cDst (d : Nat) : Nat := fld d 231 192
def cIdx (d : Nat) : Nat := fld d 110 88

/-- The reduction request of a REDUCE descriptor: every element contributes (R340). -/
def cReq (d : Nat) : RedReq :=
  { op := fld d 89 88, ty := fld d 92 90, seq := bit d 93, ovw := bit d 94, slot := fld d 111 96, cntM1 := fld d 127 112,
    emask := 0xFFFFFFFF }

/-- Element width of a WB kind. -/
def cWidth (d : Nat) : Nat := cW d + 1

/-- The checks of Table 11-4: the stop code of the first that fails. -/
def cpyCheck (d : Nat) : Option Nat :=
  let k := cKind d
  let wb := k == 1 || k == 2
  let wa := if k = 1 then cDst d else cSrc d
  let ws := if k = 1 then cDstStride d else cSrcStride d
  let c1 := decide (k ≤ 4) && !bit d 7 && fld d 191 180 == 0 && fld d 255 244 == 0 && (wb || cW d == 0)
    && (if k < 3 then fld d 127 88 == 0 else if k = 3 then fld d 127 111 == 0 else !bit d 95)
  let c2 := !wb || (decide (cW d < 2) && cRowBytes d % cWidth d == 0 && wa % 2048 == 0 && ws % 64 == 0)
  let c3 := k != 4 || (decide (fld d 89 88 < 3 ∧ fld d 92 90 < 5) && cRowBytes d % 64 == 0 && cDst d % 64 == 0
    && cDstStride d % 64 == 0 && decide (fld d 111 96 ≤ fld d 127 112))
  let c4 := wb || cRows d == 1 || decide (cRowBytes d ≤ cDstStride d)
  let c5 := k != 3 || (cIdx d % 4 == 0 && decide (cIdx d + 4 * cRows d ≤ spdSize))
  if !(c1 && c2 && c3 && c4) then some 1 else if !c5 then some 2 else none

/-- Cut n bytes from a source to a destination address at 64-byte lines of both. -/
def cutPieces (red : Bool) : Nat → Nat → Nat → Nat → List (Nat × Nat × Nat)
  | 0, _, _, _ => []
  | fuel + 1, src, dst, n =>
    if n = 0 then []
    else
      let m := if red then min n 64 else min n (min (64 - src % 64) (64 - dst % 64))
      (src, dst, m) :: cutPieces red fuel (src + m) (dst + m) (n - m)

/-- The pieces of row i as (source address, destination address, bytes) on the source's and destination's devices (Table 11-2); ix is
the row's index for GATHER. -/
def rowPieces (d i ix : Nat) : List (Nat × Nat × Nat) :=
  let w := cWidth d
  let n := cRowBytes d
  match cKind d with
  | 1 => (List.range (n / w)).flatMap (fun j => cutPieces false w (cSrc d + i * cSrcStride d + j * w) (wb128Offset (cDst d) (cDstStride d) w i j) w)
  | 2 => (List.range (n / w)).flatMap (fun j => cutPieces false w (wb128Offset (cSrc d) (cSrcStride d) w i j) (cDst d + i * cDstStride d + j * w) w)
  | 3 => cutPieces false n (cSrc d + ix * cSrcStride d) (cDst d + i * cDstStride d) n
  | 4 => cutPieces true n (cSrc d + i * cSrcStride d) (cDst d + i * cDstStride d) n
  | _ => cutPieces false n (cSrc d + i * cSrcStride d) (cDst d + i * cDstStride d) n

/-- The index of row i of a GATHER. -/
def gatherIndex (s : State) (t d i : Nat) : Nat := if cKind d = 3 then ofBytes (spdRead (portView t portCpy s) t (cIdx d + 4 * i) 4) else 0

/-- A global address (R46). -/
def gAt (dev a : Nat) : Nat := dev * 2 ^ 40 + a

/-- Bytes of this device that a stopped copy leaves unpredictable (R346): free values where the context may write. -/
def scrambleBytes (c : Nat) (l : List (Nat × Nat)) (s : State) : State :=
  l.foldl (fun s p =>
    if mayReach s c p.1 p.2 then
      let base := s.free
      devWrite p.1 ((List.range p.2).map (fun i => BitVec.ofNat 8 (Config.freeNat (base + i)))) { s with free := base + p.2 }
    else s) s

/-- A started descriptor that is in the stream, or has posted writes still to be answered. -/
def cpyDesc (s : State) (t no : Nat) : Option CpyDesc :=
  ((cpyOf s t).decoded ++ (cpyOf s t).past).find? (fun d => d.no = no && d.started)

/-- No closed version buffer holds the byte (R274). -/
def byteWritable (s : State) (a : Nat) : Bool := match spdOf a with | some (t, o) => vsWritable s t o 1 | none => true

/-- The destination bytes of the faulting row of a descriptor (R346), but for those that no write may reach (R274). -/
def scrambleRow (t c no row : Nat) (s : State) : State :=
  match cpyDesc s t no with
  | some x =>
    let d := x.desc.toNat
    if cDstDev d ≠ ownDev s then s
    else scrambleBytes c (((rowPieces d row (gatherIndex s t d row)).flatMap (fun p =>
      ((List.range p.2.2).map (fun i => p.2.1 + i)).filter (byteWritable s))).map (fun a => (a, 1))) s
  | none => s

/-- The write of a row at a destination address is the row's first to its 64-byte line. -/
def firstOfLine (s : State) (t no row a : Nat) : Bool :=
  match cpyDesc s t no with
  | some x => ((rowPieces x.desc.toNat row 0).find? (fun p => decide (p.2.1 / 64 = a / 64))).map (·.2.1) == some a
  | none => true

/-- Free bytes that no memory holds yet. -/
def freeData (n : Nat) (s : State) : List Byte × State :=
  ((List.range n).map (fun i => BitVec.ofNat 8 (Config.freeNat (s.free + i))), { s with free := s.free + n })

end Sys2Proof.Machine
end

