-- ==== Sys2Proof/Machine/Flags.lean ====
section
/-!
DEFINITION. The flagged accumulator element (Table 5-2) and how contributions combine into it (R165–R189); the rows of Table 5-1.
-/

namespace Sys2Proof.Machine

/-- An element as it is computed with: extended form or not, and its value. -/
structure Elem where
  ext : Bool
  v   : Dyad
  deriving DecidableEq, Repr

/-- Flag bits of an element in a form. -/
def elemFlag (ext : Bool) (i : Nat) : BitVec 128 := BitVec.ofNat 128 (2 ^ i + ext.toNat <<< 126)

/-- The 128 bits of an element (R167–R171): one flag with VALUE zero, or the number in its form. An exact sum outside VALUE's range
is NaN; an extended sum beyond the largest EF64 is an infinity (R188). -/
def elemPack (x : Elem) : BitVec 128 :=
  match x.v with
  | .nan => elemFlag x.ext 125
  | .inf n => elemFlag x.ext (if n then 123 else 124)
  | .fin n m e =>
    if x.ext then
      if ef64Over (.fin n m e) then elemFlag true (if n then 123 else 124)
      else BitVec.ofNat 128 (2 ^ 126 + ef64Pack (.fin n m e))
    else
      let k : Nat := if -48 ≤ e then m <<< (e + 48).toNat else m >>> (-48 - e).toNat
      let i : Int := if n then -(k : Int) else k
      if i < -(2 ^ 111) ∨ 2 ^ 111 ≤ i then elemFlag false 125 else BitVec.ofNat 128 (wrap 112 i)

/-- An element from its bits (R168). -/
def elemUnpack (b : BitVec 128) : Elem :=
  let n := b.toNat
  let ext := bit n 126
  { ext := ext
    v := if bit n 125 then .nan else if bit n 124 then .inf false else if bit n 123 then .inf true
      else if ext then (ef64Decode (n % 2 ^ 64)).getD .nan
      else let i := sgn 112 n; .fin (decide (i < 0)) i.natAbs (-48) }

/-- A wide partial that FILL may take as it is (R189). -/
def partialOk (b : BitVec 128) : Bool :=
  let n := b.toNat
  let flags := (bit n 125).toNat + (bit n 124).toNat + (bit n 123).toNat
  !bit n 127 && fld n 122 112 == 0 && decide (flags ≤ 1)
  && (!bit n 126 || (fld n 111 64 == 0 && (ef64Decode (n % 2 ^ 64)).isSome))

/-- How contributions of an opcode combine (Table 4-1): sum, max or min. -/
inductive Comb where
  | sum | max | min
  deriving DecidableEq, Repr

def combOf (op : Nat) : Comb := if op = 4 then .max else if op = 5 then .min else .sum

def combine (c : Comb) (a b : Dyad) : Dyad :=
  match c with
  | .sum => nadd a b
  | .max => nmax a b
  | .min => nmin a b

/-- The identity of ⨁ (R179). -/
def combId (c : Comb) : Dyad :=
  match c with
  | .sum => Dyad.zero
  | .max => .inf true
  | .min => .inf false

/-- Set bits of an 8-bit value. -/
def popcount8 (v : Nat) : Nat := (List.range 8).foldl (fun a i => a + (bit v i).toNat) 0

/-- f(a, s) on element codes (Table 4-1), exactly; BF16 differences and sums rounded once to EF64 (R165). -/
def fOf (op fa fs a s : Nat) : Dyad :=
  let x := elemValue fa a
  let y := elemValue fs s
  let r (z : Dyad) : Dyad := if fa = 5 then ef64Round z else z
  match op with
  | 1 => nmul x y
  | 2 => r (nabs (nsub x y))
  | 3 => let d := nsub x y; r (nmul d d)
  | 4 => r (nadd x y)
  | 5 => r (nadd x y)
  | _ => numInt (popcount8 (Nat.xor a s))

/-- The pass runs in extended mode (Table 5-1). -/
def extMode (fa : Nat) : Bool := decide (5 ≤ fa ∧ fa ≤ 10)

/-- A list in chunks of 32, for at most `fuel` chunks (R174). -/
def chunks32 {α : Type} : Nat → List α → List (List α)
  | 0, _ => []
  | n + 1, l => if l.isEmpty then [] else l.take 32 :: chunks32 n (l.drop 32)

/-- A scale 2^(X − 127); 0xFF is NaN (Table 5-5). -/
def e8m0 (x : Nat) : Dyad := if x = 255 then .nan else .fin false 1 ((x : Int) - 127)

/-- Chunk values of one element (R175, R176, R178): the BF16 chain, the scaled block sum, or the exact combination. -/
def chunkValue (op fa : Nat) (scale : Dyad) (l : List Dyad) : Dyad :=
  let c := combOf op
  if fa = 5 then l.foldl (fun g f => ef64Round (combine c g f)) (combId c)
  else if 6 ≤ fa ∧ fa ≤ 10 then nmul (l.foldl nadd Dyad.zero) scale
  else l.foldl (combine c) (combId c)

/-- One element after a pass (R171, R175, R178, R179): its codes along k, and the product of block scales by chunk. -/
def elemPass (op fa fs : Nat) (ovw : Bool) (a s : List Nat) (scales : List Dyad) (cur : BitVec 128) : BitVec 128 :=
  let c := combOf op
  let x : Elem := if ovw then ⟨extMode fa, combId c⟩ else elemUnpack cur
  let fs' := List.zipWith (fOf op fa fs) a s
  if !x.ext && !extMode fa then elemPack ⟨false, combine c x.v (fs'.foldl (combine c) (combId c))⟩
  else
    let g := List.zipWith (chunkValue op fa) scales (chunks32 8 fs')
    elemPack ⟨true, g.foldl (fun v k => ef64Round (combine c v k)) (if x.ext then x.v else ef64Round x.v)⟩

/-- One element after FILL with partial p (R188, R189); with OVW it holds p as the module writes an element: no sign of a zero, VALUE zero
under a flag (R168, R169). A malformed partial is NaN in the form that FORM names, and in exact form where FORM is reserved (DESIGN CHOICE:
DEDUCED: log entry 105). -/
def elemFill (ovw : Bool) (p cur : BitVec 128) : BitVec 128 :=
  let ok := partialOk p
  if ovw then (if ok then elemPack (elemUnpack p) else elemFlag (bit p.toNat 126 && !bit p.toNat 127) 125)
  else
    let x := elemUnpack cur
    let y : Elem := if ok then elemUnpack p else ⟨bit p.toNat 126 && !bit p.toNat 127, .nan⟩
    if !x.ext && !y.ext then elemPack ⟨false, nadd x.v y.v⟩
    else elemPack ⟨true, ef64Round (nadd (if x.ext then x.v else ef64Round x.v) y.v)⟩

end Sys2Proof.Machine
end

