-- ==== Sys2Proof/Machine/Realfn.lean ====
section
/-!
DEFINITION. Quotients, square roots, exponentials and logarithms of dyadic numbers, close enough that one rounding to FP32 is the
rounding of the exact value (R216, R217, DEDUCED: log entry 13): a quotient or root carries an odd last bit where it is inexact.
-/

namespace Sys2Proof.Machine

/-- a / b for finite b ≠ 0 and finite a, to 80 bits with a sticky last bit. -/
def nquot (a b : Dyad) : Dyad :=
  match a, b with
  | .fin n1 m1 e1, .fin n2 m2 e2 =>
    let k := 81 + Nat.log2 m2
    let q := (m1 <<< k) / m2
    .fin (n1 != n2) (2 * q + (decide (q * m2 ≠ m1 <<< k)).toNat) (e1 - e2 - k - 1)
  | _, _ => .nan

/-- IEEE 754 division, exact but for its rounding. -/
def ndiv : Dyad → Dyad → Dyad
  | .nan, _ => .nan
  | _, .nan => .nan
  | .inf _, .inf _ => .nan
  | .inf a, .fin n _ _ => .inf (a != n)
  | .fin n _ _, .inf b => .fin (n != b) 0 0
  | .fin n1 m1 e1, .fin n2 m2 e2 =>
    if m2 = 0 then (if m1 = 0 then .nan else .inf (n1 != n2)) else nquot (.fin n1 m1 e1) (.fin n2 m2 e2)

/-- The integer square root, by bits from the top. -/
def isqrt (n : Nat) : Nat :=
  (List.range 200).foldl (fun r i => let x := r + 2 ^ (199 - i); if x * x ≤ n then x else r) 0

/-- √x of a finite x ≥ 0 with a sticky last bit. -/
def nsqrt : Dyad → Dyad
  | .fin _ m e =>
    let o := (e % 2).toNat
    let m' := m <<< (160 + o)
    let r := isqrt m'
    .fin false (2 * r + (decide (r * r ≠ m')).toNat) ((e - o - 160) / 2 - 1)
  | x => x

/-- Bits of the fixed-point working form. -/
def fixBits : Nat := 384

/-- A fixed-point integer as a number, and a number's floor in fixed point. -/
def ofFix (i : Int) : Dyad := .fin (decide (i < 0)) i.natAbs (-(fixBits : Int))
def toFix : Dyad → Int
  | .fin n m e =>
    let k : Nat := if -(fixBits : Int) ≤ e then m <<< (e + fixBits).toNat else m >>> (-(fixBits : Int) - e).toNat
    if n then -(k : Int) else k
  | _ => 0

/-- 2·artanh z in fixed point. -/
def fixLog (z : Int) : Int :=
  let z2 := (z * z) >>> fixBits
  ((List.range 125).foldl (fun (x : Int × Int) j => (x.1 + x.2 / (2 * j + 1 : Nat), (x.2 * z2) >>> fixBits)) (0, 2 * z)).1

/-- ln 2 = 2·artanh(1/3). -/
def fixLn2 : Int := fixLog (2 ^ fixBits / 3)

/-- eˣ; beyond ±1024 a magnitude outside every rounding range. -/
def nexpE : Dyad → Dyad
  | .fin n m e =>
    if m = 0 then .fin false 1 0
    else if nlt (.fin false 1 10) (.fin false m e) then .fin false 1 (if n then -3000 else 3000)
    else
      let x := toFix (.fin n m e)
      let k := x / fixLn2
      let r := x - k * fixLn2
      let one : Int := 2 ^ fixBits
      let sum := ((List.range 90).foldl (fun (y : Int × Int) j => (y.1 + y.2, (y.2 * r) / (one * (j + 1 : Nat)))) (0, one)).1
      .fin false sum.natAbs (k - fixBits)
  | .inf true => Dyad.zero
  | x => x

/-- eˣ − 1. -/
def nexpm1 (x : Dyad) : Dyad := if isZero x then x else nsub (nexpE x) (.fin false 1 0)

/-- log x of a finite x > 0. -/
def nlog : Dyad → Dyad
  | .fin _ m e =>
    let l := Nat.log2 m
    let one : Int := 2 ^ fixBits
    let f : Int := ((m <<< fixBits) >>> l : Nat)
    ofFix (((l : Int) + e) * fixLn2 + fixLog (((f - one) * one) / (f + one)))
  | x => x

/-- log(1 + t) of a finite 0 ≤ t ≤ 1. -/
def nlog1p (t : Dyad) : Dyad :=
  if nlt t (.fin false 1 (-100)) then t
  else
    let one : Int := 2 ^ fixBits
    let x := toFix t
    ofFix (fixLog ((x * one) / (2 * one + x)))

/-- One. -/
def dOne : Dyad := .fin false 1 0

/-- tanh x (finite). -/
def ntanh (x : Dyad) : Dyad :=
  if isZero x then x
  else if nlt (.fin false 5 3) (nabs x) then .fin (isNeg x) (2 ^ 60 - 1) (-60)
  else
    let e := nexpm1 (nscale 1 x)
    nquot e (nadd e (.fin false 2 0))

/-- 1 / (1 + e⁻ˣ) (finite). -/
def nsigmoid (x : Dyad) : Dyad :=
  if isNeg x then let e := nexpE x; nquot e (nadd dOne e)
  else nquot dOne (nadd dOne (nexpE (nneg x)))

/-- log(1 + eˣ) (finite). -/
def nsoftplus (x : Dyad) : Dyad := nadd (nmax x Dyad.zero) (nlog1p (nexpE (nneg (nabs x))))

end Sys2Proof.Machine
end

