-- ==== Sys2Proof/Machine/Lanes.lean ====
section
/-!
DEFINITION. Lane functions of the vector engine on 4,096-bit register images: arithmetic, comparison, conversion, the nonlinear unit,
reductions, softmax and top-k (R194, R206, R214–R227).
-/

namespace Sys2Proof.Machine

/-- The elements of w bits of a register image, lowest first (R195). -/
def lanes (w v : Nat) : List Nat := (List.range (4096 / w)).map (fun i => (v >>> (w * i)) % 2 ^ w)

/-- A register image, or a run of images, from elements of w bits. -/
def joinLanes (w : Nat) : List Nat → Nat
  | [] => 0
  | x :: r => x % 2 ^ w + (joinLanes w r) <<< w

/-- The destination with the 32-bit lanes of mask en taken from new (R205). -/
def mergeLanes (old new en : Nat) : Nat :=
  joinLanes 32 ((List.range 128).map (fun l => ((if bit en l then new else old) >>> (32 * l)) % 2 ^ 32))

/-- A mask with the bits of en taken from new (R205). -/
def mergeMask (old new en : Nat) : Nat :=
  joinLanes 1 ((List.range 128).map (fun l => (if bit en l then bit new l else bit old l).toNat))

/-- Every lane. -/
def allLanes : Nat := 2 ^ 128 - 1

/-! ### Element operations (R206) -/

/-- Binary format of MODE 0, 1, 2. -/
def modeFmt (m : Nat) : Fmt := if m = 0 then fmtF32 else if m = 1 then fmtBf16 else fmtF16

/-- A zero sum is +0 (Table 5-9). -/
def posZero (x : Dyad) : Dyad := if isZero x then Dyad.zero else x

/-- Sign in front of a zero counts: +0 is greater than −0 (R206). -/
def zeroLt (f : Fmt) (x y : Nat) : Bool :=
  let a := fmtDecode f x
  let b := fmtDecode f y
  nlt a b || (isZero a && isZero b && bit x (f.eb + f.fb) && !bit y (f.eb + f.fb))

/-- One lane of VADD … VNEG and VDIV on floating-point codes. -/
def laneF (op : Nat) (f : Fmt) (x y z : Nat) : Nat :=
  let a := fmtDecode f x
  let b := fmtDecode f y
  let top := f.eb + f.fb
  match op with
  | 0x10 => fmtEncode f .rne (posZero (nadd a b))
  | 0x11 => fmtEncode f .rne (posZero (nsub a b))
  | 0x12 => fmtEncode f .rne (nmul a b)
  | 0x13 => fmtEncode f .rne (posZero (nadd (nmul a b) (fmtDecode f z)))
  | 0x14 => if isNan a || isNan b then fmtNan f else if zeroLt f x y then y else x
  | 0x15 => if isNan a || isNan b then fmtNan f else if zeroLt f y x then y else x
  | 0x16 => if isNan a then fmtNan f else setFld x top top 0
  | 0x17 => if isNan a then fmtNan f else setFld x top top (1 - fld x top top)
  | _ => fmtEncode f .rne (ndiv a b)

/-- One INT32 lane; `free` is the value of a lane for which the spec states none: |x| and −x of the most negative number. -/
def laneI (op x y free : Nat) : Nat :=
  let a := sgn 32 x
  let b := sgn 32 y
  match op with
  | 0x10 => wrap 32 (a + b)
  | 0x11 => wrap 32 (a - b)
  | 0x12 => wrap 32 (a * b)
  | 0x14 => if a < b then y else x
  | 0x15 => if b < a then y else x
  | 0x16 => if x = 0x80000000 then free else wrap 32 a.natAbs
  | _ => if x = 0x80000000 then free else wrap 32 (-a)

/-- An element operation on images. An INT32 lane for which the spec states no value takes a free one of operation and operand (R3). -/
def elemOp (op mode a b c : Nat) : Nat :=
  if mode = 3 then
    joinLanes 32 ((List.range 128).map (fun l =>
      let x := (a >>> (32 * l)) % 2 ^ 32
      laneI op x ((b >>> (32 * l)) % 2 ^ 32) (Config.int32Corner op x % 2 ^ 32)))
  else
    let f := modeFmt mode
    let w := fmtWidth f
    joinLanes w ((List.range (4096 / w)).map (fun l =>
      laneF op f ((a >>> (w * l)) % 2 ^ w) ((b >>> (w * l)) % 2 ^ w) ((c >>> (w * l)) % 2 ^ w)))

/-- VIOTA. -/
def viotaOp (a : Nat) : Nat := joinLanes 32 ((List.range 128).map (fun l => a % 2 ^ 32 + l))

/-- One lane of VCMP. -/
def laneCmp (fn mode x y : Nat) : Bool :=
  let a := if mode = 3 then numInt (sgn 32 x) else f32 x
  let b := if mode = 3 then numInt (sgn 32 y) else f32 y
  match fn with
  | 0 => neq a b
  | 1 => !neq a b
  | 2 => nlt a b
  | 3 => nlt a b || neq a b
  | 4 => nlt b a
  | 5 => nlt b a || neq a b
  | 6 => isNan a
  | _ => isInf a

def vcmpOp (fn mode a b : Nat) : Nat :=
  joinLanes 1 ((List.range 128).map (fun l => (laneCmp fn mode ((a >>> (32 * l)) % 2 ^ 32) ((b >>> (32 * l)) % 2 ^ 32)).toNat))

/-- MOP; `lim` is AR + IMM, signed. -/
def mopOp (fn a b : Nat) (lim : Int) : Nat :=
  joinLanes 1 ((List.range 128).map (fun l =>
    let x := bit a l
    let y := bit b l
    (match fn with
      | 0 => x && y
      | 1 => x || y
      | 2 => x != y
      | 3 => x && !y
      | 4 => !x
      | 5 => true
      | 6 => false
      | _ => decide ((l : Int) < lim)).toNat))

/-! ### Conversions (R214, R215) -/

/-- Source registers of a conversion kind on its FP32 side (Table 6-6). -/
def cvtN (fn : Nat) : Nat :=
  if fn = 8 ∨ fn = 9 then 1 else if fn = 0 ∨ fn = 1 ∨ fn = 4 ∨ fn = 5 then 2 else 4

/-- A narrowing kind, an MX kind. -/
def cvtNarrow (fn : Nat) : Bool := decide (fn < 4 ∨ fn = 8 ∨ 10 ≤ fn)
def cvtMx (fn : Nat) : Bool := decide (10 ≤ fn)

/-- OUT_FMT of a narrowing kind that is not MX. -/
def cvtFmt (fn : Nat) : Nat := if fn = 8 then 5 else fn + 1

/-- Element format of an MX kind, and the exponent e of R215. -/
def mxFmt (fn : Nat) : Fmt :=
  if fn = 10 then fmtE4m3 else if fn = 11 then fmtE5m2 else if fn = 12 then fmtE3m2 else if fn = 13 then fmtE2m3 else fmtE2m1
def mxE (fn : Nat) : Int := if fn = 10 then 8 else if fn = 11 then 15 else if fn = 12 then 4 else 2

/-- Draw of element j of a conversion. -/
abbrev Draw := Nat → Rnd

/-- One MX element: the code of w, already divided by the block's scale, and its classes (R215, step 5). -/
def mxElem (f : Fmt) (r : Rnd) : Dyad → Nat × ConvEvents
  | .fin n m e =>
    let s := n.toNat <<< (f.eb + f.fb)
    let (mk, me) := fmtMax f
    if m = 0 then (0, { zero := true })
    else if nlt (.fin false m e) (.fin false 1 (fmtQmin f)) then (s, { zero := true, flush := true })
    else if nlt (.fin false mk me) (.fin false m e) then (fmtMaxBits f n, { sat := true })
    else
      let q := lastPlace (f.fb + 1) (fmtQmin f) m e
      let k := roundAt r m e q
      (fmtPack f n k q, { zero := k == 0, flush := k == 0 })
  | _ => (0, { zero := true, nonfin := true })

/-- The scale byte of a block (R215, steps 1–4). -/
def mxScale (fn : Nat) (blk : List Dyad) : Nat :=
  if blk.any (fun v => !isFinite v) then 0xFF
  else
    let amax := blk.foldl (fun a v => nmax a (nabs v)) Dyad.zero
    if isZero amax then 0
    else
      let x := nexp amax - mxE fn + 127
      if x < 0 then 0 else if 254 < x then 254 else x.toNat

/-- Elements of a list in blocks of n. -/
def blocksOf {α : Type} (n k : Nat) (l : List α) : List (List α) := (List.range k).map (fun b => (l.drop (n * b)).take n)

/-- An MX conversion of 512 values: packed elements, scales, and what each element reports. -/
def mxConvert (fn : Nat) (draw : Draw) (xs : List Dyad) : Nat × Nat × List (Dyad × ConvEvents) :=
  let f := mxFmt fn
  let bl := blocksOf 32 16 xs
  let sc := bl.map (mxScale fn)
  let es := (List.range 16).flatMap (fun b =>
    let x := sc.getD b 0
    ((bl.getD b []).zip (List.range 32)).map (fun p =>
      if x = 0xFF then (p.1, 0, ({ zero := true, flush := isFinite p.1 && !isZero p.1, nonfin := true } : ConvEvents))
      else
        let w := nscale (127 - (x : Int)) p.1
        let c := mxElem f (draw (32 * b + p.2)) w
        (p.1, c.1, c.2)))
  (joinLanes (fmtWidth f) (es.map (fun e => e.2.1)), joinLanes 8 sc, es.map (fun e => (e.1, e.2.2)))

/-- A narrowing conversion of values: codes and reports; a zero element gives +0 (R186). -/
def narrow (fn : Nat) (sat : Bool) (draw : Draw) (xs : List Dyad) : List Nat × List (Dyad × ConvEvents) :=
  let l := (xs.zip (List.range xs.length)).map (fun p =>
    let c := outConvert (cvtFmt fn) sat (draw p.2) (posZero p.1)
    (c.1, p.1, c.2))
  (l.map (fun e => e.1), l.map (fun e => e.2))

/-- A widening conversion of a code to FP32. -/
def widen (fn v : Nat) : Nat :=
  match fn with
  | 4 => toF32 (fmtDecode fmtBf16 v)
  | 5 => toF32 (fmtDecode fmtF16 v)
  | 6 => toF32 (fmtDecode fmtE4m3 v)
  | 7 => toF32 (fmtDecode fmtE5m2 v)
  | _ => toF32 (numInt (sgn 32 v))

/-- Width of the narrow side of a kind that is not MX. -/
def cvtWidth (fn : Nat) : Nat := if cvtN fn = 1 then 32 else if cvtN fn = 2 then 16 else 8

/-- Lane of the destination that holds element j's first bit. -/
def cvtLane (fn j : Nat) : Nat := (if cvtMx fn then fmtWidth (mxFmt fn) else cvtWidth fn) * j / 32

/-! ### Nonlinear unit (Table 6-7, Table 6-8) -/

/-- One lane of NLU on a number. -/
def nluOf (fn : Nat) (x : Dyad) : Dyad :=
  match x with
  | .nan => .nan
  | .inf n =>
    match fn with
    | 0 => if n then Dyad.zero else .inf false
    | 1 => if n then .nan else .inf false
    | 2 => .fin n 0 0
    | 3 => if n then .nan else Dyad.zero
    | 4 => .fin n 1 0
    | 5 => if n then Dyad.zero else dOne
    | 6 => if n then Dyad.zero else .inf false
    | _ => if n then .fin true 1 0 else .inf false
  | .fin n m e =>
    match fn with
    | 0 => nexpE x
    | 1 => if m = 0 then .inf true else if n then .nan else nlog x
    | 2 => if m = 0 then .inf n else nquot dOne x
    | 3 => if m = 0 then .inf n else if n then .nan else nquot dOne (nsqrt x)
    | 4 => ntanh x
    | 5 => nsigmoid x
    | 6 => nsoftplus x
    | _ => nexpm1 (.fin n m e)

/-- g(y) of Table 6-8 for the kinds other than squared ReLU. -/
def vderG (fn : Nat) (y al : Dyad) : Dyad :=
  match fn with
  | 0 => if nlt Dyad.zero y then dOne else Dyad.zero
  | 2 => nmul y (nsub dOne y)
  | 3 => nsub dOne (nmul y y)
  | 4 => nneg (match y with | .inf true => .inf false | .inf false => .fin true 1 0 | _ => nexpm1 (nneg y))
  | 5 => y
  | 6 => if nlt y Dyad.zero then nadd y al else dOne
  | 7 => nexpE (nneg y)
  | 8 => nneg (nmul y y)
  | 9 => nneg (nscale (-1) (nmul (nmul y y) y))
  | _ => nadd y dOne

/-- One lane of VDER, before its one rounding (R217). -/
def vderOf (fn : Nat) (y dy al : Dyad) : Dyad :=
  if isNan y || isNan dy then .nan
  else if fn = 1 then
    if nlt Dyad.zero y then
      (match y, dy with
        | .fin _ _ _, .fin n m e =>
          if m = 0 then .fin n 0 0
          else match nsqrt (nscale 2 (nmul (nmul (.fin n m e) (.fin n m e)) y)) with
            | .fin _ k q => .fin n k q
            | z => z
        | _, _ => nmul dy (.inf false))
    else nmul dy Dyad.zero
  else nmul dy (vderG fn y al)

/-! ### Reductions (R218–R222) -/

/-- Kind of an RACC function. -/
def raccKind (fn : Nat) : RedKind := if fn < 3 then .sum else if fn = 3 then .max else if fn = 4 then .min else .smax

/-- The finite maximum of a softmax-max accumulator; −∞, as for an empty one, where no lane was finite (DEDUCED: log entry 105). -/
def smaxFinite (r : Racc) : Dyad :=
  if r.n = r.nInf then .inf true else .fin (decide (r.man < 0)) r.man.natAbs r.exp

/-- The value an accumulator holds (R222): its flags first, then the identity of an empty one. -/
def raccValue (r : Racc) : Dyad :=
  if r.nan then .nan
  else if r.pinf then .inf false
  else if r.ninf then .inf true
  else match r.kind with
    | none => Dyad.zero
    | some .sum => .fin (decide (r.man < 0)) r.man.natAbs r.exp
    | some .smax => smaxFinite r
    | some k =>
      if r.n = 0 then .inf (decide (k ≠ .min)) else .fin (decide (r.man < 0)) r.man.natAbs r.exp

/-- An accumulator with value v. -/
def raccPut (r : Racc) (v : Dyad) : Racc :=
  match v with
  | .nan => { r with nan := true }
  | .inf true => { r with ninf := true, pinf := false, man := 0, exp := 0 }
  | .inf false => { r with pinf := true, ninf := false, man := 0, exp := 0 }
  | .fin n m e => { r with pinf := false, ninf := false, man := if n then -(m : Int) else m, exp := if m = 0 then 0 else e }

/-- One more term of a sum (R220, R181). -/
def raccSum (r : Racc) (v : Dyad) : Racc :=
  match v with
  | .nan => { r with nan := true }
  | .inf n =>
    let r := if n then { r with ninf := true } else { r with pinf := true }
    if r.pinf && r.ninf then { r with nan := true } else r
  | .fin _ _ _ =>
    match nadd (.fin (decide (r.man < 0)) r.man.natAbs r.exp) v with
    | .fin n m e => { r with man := if n then -(m : Int) else m, exp := if m = 0 then 0 else e }
    | _ => r

/-- One included lane of an accumulator of its kind set. -/
def raccLane (fn : Nat) (r : Racc) (x y : Dyad) : Racc :=
  match fn with
  | 0 => raccSum { r with n := r.n + 1 } x
  | 1 => raccSum { r with n := r.n + 1 } (nmul x x)
  | 2 => raccSum { r with n := r.n + 1 } (nmul x y)
  | 3 => raccPut { r with n := r.n + 1 } (posZero (nmax (raccValue r) x))
  | 4 => raccPut { r with n := r.n + 1 } (posZero (nmin (raccValue r) x))
  | _ =>
    match x with
    | .inf true => r
    | .inf false => { r with n := r.n + 1, nInf := r.nInf + 1 }
    | .nan => { r with n := r.n + 1, nan := true }
    | v => match posZero (nmax (smaxFinite r) v) with
      | .fin n m e => { r with n := r.n + 1, man := if n then -(m : Int) else m, exp := if m = 0 then 0 else e }
      | _ => { r with n := r.n + 1 }

/-- RACC over the lanes of a mask; none for a kind that does not fit (R219). -/
def raccOp (fn a b en : Nat) (r : Racc) : Option Racc :=
  if r.kind.isSome && r.kind != some (raccKind fn) then none
  else
    let r := { r with kind := some (raccKind fn) }
    some ((List.range 128).foldl (fun r l =>
      if bit en l then raccLane fn r (f32 ((a >>> (32 * l)) % 2 ^ 32)) (f32 ((b >>> (32 * l)) % 2 ^ 32)) else r) r)

/-- The class of an accumulator (R221). -/
def raccClass (r : Racc) : Nat := if r.nan then 3 else if 0 < r.nInf then 2 else if r.n = 0 then 1 else 0

/-- Every lane the same code. -/
def splat (v : Nat) : Nat := joinLanes 32 (List.replicate 128 v)

/-! ### Softmax (R224, R225) -/

/-- One lane of SMXE. -/
def smxeLane (r : Racc) (inRow : Bool) (x : Dyad) : Dyad :=
  if r.nan then .nan
  else if !inRow then Dyad.zero
  else match x with
    | .inf true => Dyad.zero
    | .nan => .nan
    | _ =>
      if raccClass r = 2 then (if isInf x then dOne else Dyad.zero)
      else nexpE (nsub x (raccValue r))

/-- One lane of SMXN. -/
def smxnLane (v e : Dyad) : Dyad := if isNan v then .nan else if isZero v then Dyad.zero else ndiv e v

/-- One lane of SMXB. -/
def smxbLane (v : Dyad) (cls : Int) (inRow : Bool) (y dy : Dyad) : Dyad :=
  if cls = 3 || !isFinite v then .nan
  else if cls ≠ 0 then Dyad.zero
  else if inRow then posZero (nmul y (nsub dy v)) else Dyad.zero

/-- Apply a function of lane number and code to every 32-bit lane. -/
def mapLanes (f : Nat → Nat → Nat) (a : Nat) : Nat :=
  joinLanes 32 ((List.range 128).map (fun l => f l ((a >>> (32 * l)) % 2 ^ 32)))

/-- Lane l of an image. -/
def laneOf (a l : Nat) : Nat := (a >>> (32 * l)) % 2 ^ 32

/-! ### Top-k (R227) -/

/-- A candidate: value code, index, and its list and lane. -/
structure Cand where
  v    : Nat
  idx  : Nat
  list : Nat
  lane : Nat
  deriving DecidableEq, Repr

/-- x ranks before y by value: none where they tie. -/
def rankValue (fn mode : Nat) (x y : Nat) : Option Bool :=
  let a := if mode = 3 then numInt (sgn 32 x) else f32 x
  let b := if mode = 3 then numInt (sgn 32 y) else f32 y
  if isNan a && isNan b then none
  else if isNan a then some false
  else if isNan b then some true
  else if nlt a b then some (decide (fn ≠ 0))
  else if nlt b a then some (decide (fn = 0))
  else none

/-- x ranks no later than y. -/
def rankLe (fn mode : Nat) (x y : Cand) : Bool :=
  match rankValue fn mode x.v y.v with
  | some r => r
  | none =>
    if x.idx ≠ y.idx then decide (x.idx < y.idx)
    else if x.list ≠ y.list then decide (x.list < y.list)
    else decide (x.lane ≤ y.lane)

/-- Values and indices of the best k candidates, filled with the sentinel. -/
def topkOp (fn mode k v1 i1 v2 i2 en : Nat) : Nat × Nat :=
  let c1 := ((List.range 128).filter (fun l => bit en l)).map (fun l => (⟨laneOf v1 l, laneOf i1 l, 0, l⟩ : Cand))
  let c2 := (List.range 128).map (fun l => (⟨laneOf v2 l, laneOf i2 l, 1, l⟩ : Cand))
  let best := (sortBy (rankLe fn mode) (c1 ++ c2)).take k
  let sent := if mode = 3 then (if fn = 0 then 0x80000000 else 0x7FFFFFFF) else (if fn = 0 then 0xFF800000 else 0x7F800000)
  (joinLanes 32 (best.map (fun c => c.v) ++ List.replicate (128 - best.length) sent),
   joinLanes 32 (best.map (fun c => c.idx) ++ List.replicate (128 - best.length) 0xFFFFFFFF))

end Sys2Proof.Machine
end

