-- ==== Sys2Proof/Machine/Reduce.lean ====
section
/-!
DEFINITION. The element operations of reductions (R315, R316, R317, R322).
-/

namespace Sys2Proof.Machine

/-- Bytes of an element of a TYPE (Table 10-3). -/
def redWidth (ty : Nat) : Nat := if ty = 1 ∨ ty = 2 then 2 else if ty = 4 then 8 else 4

/-- Floating-point TYPEs and their formats. -/
def redFloat (ty : Nat) : Bool := decide (ty < 3)
def redFmt (ty : Nat) : Fmt := if ty = 0 then fmtF32 else if ty = 1 then fmtBf16 else fmtF16

/-- Elements of a line, and a line of elements. -/
def redElems (ty : Nat) (d : List Byte) : List Nat :=
  (List.range (64 / redWidth ty)).map (fun e => ofBytes ((d.drop (e * redWidth ty)).take (redWidth ty)))
def redLine (ty : Nat) (es : List Nat) : List Byte := es.flatMap (toBytes (redWidth ty))

/-- MAX or MIN of two codes (R316): NaN canonical, +0 above −0; signed for integers. -/
def redMaxMin (op ty x y : Nat) : Nat :=
  if redFloat ty then
    let f := redFmt ty
    if isNan (fmtDecode f x) || isNan (fmtDecode f y) then fmtNan f
    else if op = 1 then (if zeroLt f x y then y else x) else (if zeroLt f y x then y else x)
  else
    let w := 8 * redWidth ty
    if op = 1 then (if sgn w x < sgn w y then y else x) else (if sgn w y < sgn w x then y else x)

/-- The identity of an operation (R316). -/
def redIdent (op ty : Nat) : Nat :=
  if op = 0 then 0
  else if redFloat ty then fmtInf (redFmt ty) (op == 1)
  else
    let w := 8 * redWidth ty
    if op = 1 then 2 ^ (w - 1) else 2 ^ (w - 1) - 1

/-- One element of a sequenced entry at its close (R317): the contributions in slot order. -/
def seqElem (op ty m : Nat) (cs : List Nat) : Nat :=
  if op = 0 then
    if redFloat ty then
      let f := redFmt ty
      fmtEncode f .rne (posZero (cs.foldl (fun v c => ef64Round (nadd v (fmtDecode f c))) (fmtDecode f m)))
    else cs.foldl (fun v c => (v + c) % 2 ^ (8 * redWidth ty)) m
  else cs.foldl (redMaxMin op ty) m

/-- The line an entry writes at close, from the line in memory and the contributions in slot order. -/
def seqClose (q : RedReq) (line : List Byte) (parts : List (BitVec 32 × List Byte)) : List Byte :=
  let es := redElems q.ty line
  let ps := parts.map (fun p => (p.1.toNat, redElems q.ty p.2))
  redLine q.ty ((List.range es.length).map (fun e =>
    seqElem q.op q.ty (if q.ovw then redIdent q.op q.ty else es.getD e 0)
      (ps.filterMap (fun p => if bit p.1 e then some (p.2.getD e 0) else none))))

/-- The line after one unsequenced request (R322): each element rounded once. -/
def unseqLine (q : RedReq) (line data : List Byte) : List Byte :=
  let cs := redElems q.ty data
  redLine q.ty (((redElems q.ty line).zip (List.range 32)).map (fun p =>
    if bit q.emask.toNat p.2 then
      let c := cs.getD p.2 0
      if q.op = 0 then
        if redFloat q.ty then
          let f := redFmt q.ty
          fmtEncode f .rne (posZero (nadd (fmtDecode f p.1) (fmtDecode f c)))
        else (p.1 + c) % 2 ^ (8 * redWidth q.ty)
      else redMaxMin q.op q.ty p.1 c
    else p.1))

/-- A reserved OP or TYPE (cause BAD_REQUEST). -/
def redBad (q : RedReq) : Bool := decide (2 < q.op ∨ 4 < q.ty)

/-- A request agrees with an entry's fields (R317). -/
def redAgrees (e : RedEntry) (q : RedReq) (c : Nat) (g : BitVec 16) : Bool :=
  e.req.op == q.op && e.req.ty == q.ty && e.req.ovw == q.ovw && e.req.cntM1 == q.cntM1 && e.ctx == c && e.gen == g

/-- NEXT after the held contributions that follow on are applied. -/
def redNext (parts : Tab (Nat × BitVec 32 × List Byte)) : Nat → Nat → Nat
  | 0, n => n
  | k + 1, n => if (tget parts n).isSome then redNext parts k (n + 1) else n

end Sys2Proof.Machine
end

