-- ==== Sys2Proof/Machine/Access.lean ====
section
/-!
DEFINITION. Accesses in flight: how a copy's writes and requests are posted, how packets ask and are answered, and what the answer to
an access does (R343–R347, R364, R378, R382).
-/

namespace Sys2Proof.Machine

/-- Device and device address of a global address (R46). -/
def gDev (g : Nat) : Nat := g >>> 40 % 4096
def gAddr (g : Nat) : Nat := g % 2 ^ 40

/-- The generation is current for a context that is neither FREE nor in TEARDOWN (R51, R364). -/
def current (s : State) (c : Nat) (g : BitVec 16) : Bool :=
  (ctxOf s c).gen == g && decide ((ctxOf s c).state ≠ .free ∧ (ctxOf s c).state ≠ .teardown)

/-! ### Collective windows and credits (R377, R378, R382) -/

def aCol (c off : Nat) : Nat := aGlob (0x1201000 + c * 0x100 + off)

/-- GATHER of the window of context c that holds an address. -/
def colWindow (s : State) (c a : Nat) : Option Nat :=
  ((List.range 4).find? (fun i =>
    let w := regRaw s (aCol c (8 + 8 * i))
    bit w 63 && decide (fld w 38 20 ≤ a >>> 21 ∧ a >>> 21 ≤ fld w 57 39))).map (fun i => fld (regRaw s (aCol c (8 + 8 * i))) 62 60)

/-- S: lines of one member's slice at a collector (R382). -/
def colSlice (s : State) (c : Nat) : Nat := fld (regRaw s (aCol c 0)) 18 0 / max 1 (ctxOf s c).members

/-- The line j of the kept lines by which the AMAX values of a job on context c go to the collector and come back (R384); the spec gives these
packets no ADDR (DESIGN CHOICE: log entry 115). -/
def aAmax (c j : Nat) : Nat := aGlob (0x1210000 + c * 0x4000 + 64 * j)

/-- The kept line of context c at a device address. -/
def amaxLine (c a : Nat) : Option Nat := if aAmax c 0 ≤ a ∧ a < aAmax c 256 ∧ a % 64 = 0 then some ((a - aAmax c 0) / 64) else none

/-- Lines of one member's slice of the kept lines (R384). -/
def amaxSlice (s : State) (c : Nat) : Nat := 4096 / max 1 (ctxOf s c).members

/-- Credits in use toward a destination, by context × 4096 + device; those of the kept lines by 16 + context. -/
def creditKey (c dev : Nat) : Nat := c * 4096 + dev

/-! ### Bytes and order of accesses (R344) -/

/-- Bytes an access touches. -/
def accLen (a : Acc) : Nat :=
  match a.op with
  | .read n _ _ _ => n
  | .write d => d.length
  | .reduce _ d => d.length

/-- The copy engine that posted an access, as device and tile: one of this module, or that of the packet that carried it. -/
def accEngine (s : State) (a : Acc) : Option (Nat × Nat) :=
  match a.origin with
  | .cpy t _ _ _ => some (ownDev s, t)
  | .packet _ h _ _ => some (pSrc { hdr := h, pay := [] }, pTile { hdr := h, pay := [] })
  | _ => none

/-- The device address that an access comes to next: a read goes on after the bytes it has. -/
def accAt (a : Acc) : Nat := gAddr a.addr + (match a.op with | .read _ g _ _ => g.length | _ => 0)

/-- A posted write, or a reduction request. -/
def accWrites (a : Acc) : Bool := match a.op with | .read _ _ _ _ => false | _ => true

/-- An earlier posted write of the same copy engine to a line of this one is still to be performed (R344). -/
def earlierWrite (s : State) (a : Acc) : Bool :=
  accWrites a && (accEngine s a).isSome && s.accs.any (fun b => decide (b.id < a.id) && accWrites b && accEngine s b == accEngine s a
    && (linesOf a.addr (accLen a)).any (fun l => (linesOf b.addr (accLen b)).contains l))

/-! ### Stops of a copy stream (R346, R347) -/

/-- Class and code of a copy stop (Table 15-4). -/
def cpyClass (code sub : Nat) : Nat × Nat :=
  match code with
  | 1 => (2, 1)
  | 2 => (1, 3)
  | 3 => (3, 6)
  | 4 => (1, 7)
  | 5 => (2, 7)
  | 6 => (5, sub)
  | 7 => (5, 6)
  | _ => (6, 4)

/-- An access of descriptor `no` of tile t's copy stream is in flight. -/
def cpyInFlight (s : State) (t no : Nat) : Bool :=
  s.accs.any (fun a => match a.origin with | .cpy u k _ _ => u == t && k == no | _ => false)

/-- Descriptors leave the stream; those with accesses in flight are remembered for their answers (R347). -/
def cpyLeave (t : Nat) (gone : CpyDesc → Bool) (s : State) : State :=
  modCpy t (fun c => { c with
    decoded := c.decoded.filter (fun d => !gone d)
    past := (c.past ++ c.decoded.filter (fun d => gone d && d.started)).filter (fun d => cpyInFlight s t d.no) }) s

/-- Descriptor `no` and all after it, and any not started, leave the stream. Their reads that have not returned come to nothing; a posted write is not
recalled (R346, R347). -/
def cpyCut (t no : Nat) (s : State) : State :=
  let s := { s with accs := s.accs.filter (fun a => match a.origin with
    | .cpy u k _ _ => decide (u ≠ t ∨ k < no) || accWrites a
    | _ => true) }
  cpyLeave t (fun d => !d.started || decide (no ≤ d.no)) (modCpy t (fun c => { c with fault := none }) s)

/-- Tile t's copy stream stops at descriptor `no`: CPY_STOP and the record. A stream that has stopped keeps the first (DESIGN CHOICE: log entry 122). -/
def cpyStop (t no off row code sub : Nat) (cls : Nat × Nat) (addr : Option Nat) (s : State) : State :=
  if (cpyOf s t).stopped then cpyCut t no s
  else
    let s := modCpy t (fun c => { c with stopped := true }) (cpyCut t no s)
    let s := regPut (aTile t 6 0x10) (code + sub <<< 16 + fld off 22 5 <<< 24 + row <<< 48) s
    let r := withDetail (code + sub <<< 4 + fld off 22 5 <<< 12 + row <<< 30) (tileFault s cls.1 cls.2 6 t)
    raise (match addr with | some g => { r with addr := some (gDev g, gAddr g) } | none => r) s

/-! ### Posting -/

/-- Add an access and its id to those in flight. -/
def addAcc (o : Origin) (c : Nat) (g : BitVec 16) (addr : Nat) (op : AccOp) (st : AccStage) (s : State) : Nat × State :=
  let (id, s) := freshId s
  (id, { s with accs := s.accs ++ [{ id := id, origin := o, ctx := c, gen := g, addr := addr, op := op, stage := st }] })

/-- The request packet of an access to another module (Table 12-5). -/
def requestPacket (s : State) (c t id : Nat) (op : AccOp) (addr : Nat) : Packet :=
  let e := tget (ctxOf s c).jobMap (gDev addr)
  let h (opc vc op : Nat) : Hdr :=
    { opc := opc, vc := vc, dst := gDev addr, ctx := (e.map (·.ctx)).getD 0, gen := (e.map (·.gen.toNat)).getD 0, tile := t,
      rank := (ctxOf s c).rank, tag := id, addr := gAddr addr, op := op }
  match op with
  | .read len _ _ _ => mkPacket s (h 3 5 (len - 1)) []
  | .write d => mkPacket s (h 1 5 (d.length - 1)) d
  | .reduce q d =>
    mkPacket s (h 5 (if q.seq && ((colWindow s c (gAddr addr)).isSome || ((e.map (·.ctx)).bind (fun d => amaxLine d (gAddr addr))).isSome) then 1 else 5)
      (q.op + q.ty <<< 2 + q.seq.toNat <<< 5 + q.ovw.toNat <<< 6 + q.slot <<< 16 + q.cntM1 <<< 32 + q.emask.toNat <<< 48)) d

/-- Tile of an access that a copy made. -/
def accTile (a : Acc) : Nat :=
  match a.origin with
  | .cpy t _ _ _ => t
  | _ => 0

/-- Set the stage of an access. -/
def setStage (id : Nat) (st : AccStage) (s : State) : State :=
  { s with accs := s.accs.map (fun a => if a.id = id then { a with stage := st } else a) }

/-- Send an access to its module, or leave it to be served on this one. -/
def launch (a : Acc) (s : State) : State :=
  if gDev a.addr = ownDev s then setStage a.id .todo s
  else sendPacket (requestPacket s a.ctx (accTile a) a.id a.op a.addr) (setStage a.id .remote s)

/-- Post an access of row `row` of a copy descriptor. -/
def post (t no row off c : Nat) (g : BitVec 16) (addr : Nat) (op : AccOp) (s : State) : State :=
  let (id, s) := addAcc (.cpy t no row off) c g addr op .todo s
  match s.accs.find? (fun a => a.id = id) with
  | some a => launch a s
  | none => s

/-- A contribution to a window line takes a credit or waits for one; without a slice there are none, and the collector refuses it (R382). -/
def postContribution (t no row off c : Nat) (g : BitVec 16) (addr : Nat) (op : AccOp) (s : State) : State :=
  let k := creditKey c (gDev addr)
  if colSlice s c = 0 then post t no row off c g addr op s
  else if (tget s.credits k).getD 0 < colSlice s c then
    post t no row off c g addr op { s with credits := tset 0 s.credits k ((tget s.credits k).getD 0 + 1) }
  else (addAcc (.cpy t no row off) c g addr op .waitCredit s).2

/-- CPY_LINES_POSTED counts a line of a row with its first write (R353). -/
def linePosted (t no row addr : Nat) (s : State) : State :=
  if firstOfLine s t no row (gAddr addr) then regCount (aTile t 6 0x30) 1 s else s

/-- Post a reduction request of a copy (R340, R378). -/
def postReduce (t no row off c : Nat) (g : BitVec 16) (addr : Nat) (q : RedReq) (d : List Byte) (s : State) : State :=
  let s := linePosted t no row addr s
  if q.seq && (colWindow s c (gAddr addr)).isSome then postContribution t no row off c g addr (.reduce q d) s
  else post t no row off c g addr (.reduce q d) s

/-- Write bytes of a copy: at once to the own scratchpad by its port (R274), posted elsewhere. -/
def postWrite (t no row off c : Nat) (g : BitVec 16) (addr : Nat) (d : List Byte) (s : State) : State :=
  match (if gDev addr = ownDev s then spdOf (gAddr addr) else none) with
  | some (t', o) =>
    if t' = t then
      if portMayWrite s t portCpy o d then portStore t portCpy o d s
      else cpyStop t no off row 4 0 (1, 7) (some addr) (scrambleRow t c no row (portTake t portCpy o d.length s))
    else post t no row off c g addr (.write d) (linePosted t no row addr s)
  | none => post t no row off c g addr (.write d) (linePosted t no row addr s)

/-- A credit comes back, of a context's own or of the kept lines: what waits for the destination leaves in order (R382). -/
def returnCredits (kept : Bool) (c dev : Nat) : Nat → State → State
  | 0, s => s
  | n + 1, s =>
    match s.accs.find? (fun a => a.stage == .waitCredit && a.ctx == c && gDev a.addr == dev && (a.origin == .amax) == kept) with
    | some a => returnCredits kept c dev n (launch a s)
    | none =>
      let k := creditKey (if kept then 16 + c else c) dev
      returnCredits kept c dev n { s with credits := tset 0 s.credits k ((tget s.credits k).getD 0 - 1) }

/-- The kept line j of a member leaves for the collector at a global address, or waits for a credit (R382, R384). -/
def postAmax (c addr : Nat) (q : RedReq) (d : List Byte) (s : State) : State :=
  let k := creditKey (16 + c) (gDev addr)
  let g := (ctxOf s c).gen
  if (tget s.credits k).getD 0 < amaxSlice s c then
    let (id, s) := addAcc .amax c g addr (.reduce q d) .todo { s with credits := tset 0 s.credits k ((tget s.credits k).getD 0 + 1) }
    match s.accs.find? (fun a => a.id = id) with
    | some a => launch a s
    | none => s
  else (addAcc .amax c g addr (.reduce q d) .waitCredit s).2

/-! ### Answers -/

/-- Copy stop code of an answer STATUS (Table 12-6). -/
def statusCode (status : Nat) : Nat :=
  match status with
  | 1 => 5
  | 2 => 5
  | 3 => 4
  | 4 => 7
  | 5 => 6
  | _ => 3

/-- The answer packet to a request header. -/
def answerHdr (s : State) (hdr : BitVec 512) (status sub : Nat) (data : List Byte) : Packet :=
  let req : Packet := { hdr := hdr, pay := [] }
  match pOpc req with
  | 1 => answerPacket s req 2 (status + sub <<< 8) []
  | 3 => answerPacket s req 4 status (if status = 0 then data else [])
  | _ => answerPacket s req 6 (status + sub <<< 8) []

/-- An access of a request packet has its outcome: the answer leaves when no other access of the packet is in flight (R364). -/
def packetReply (port : Nat) (hdr : BitVec 512) (status sub : Nat) (data : List Byte) (s : State) : State :=
  let mine (a : Acc) : Bool := match a.origin with | .packet p h _ _ => p == port && h == hdr | _ => false
  if s.accs.any mine then
    if status = 0 then s
    else { s with accs := s.accs.map (fun a => match a.origin with
      | .packet p h 0 _ => if p = port ∧ h = hdr then { a with origin := .packet p h status sub } else a
      | _ => a) }
  else sendPacket (answerHdr s hdr status sub data) s

/-- What the outcome of an access means to who made it: a copy goes on or stops, a packet is answered. -/
def reply (a : Acc) (status sub : Nat) (data : List Byte) (s : State) : State :=
  match a.origin with
  | .cpy t no row off =>
    if !current s a.ctx a.gen then s
    else if status = 0 then
      match a.op with
      | .read _ _ dst none => postWrite t no row off a.ctx a.gen dst data s
      | .read _ _ dst (some q) => postReduce t no row off a.ctx a.gen dst q data s
      | _ => s
    else
      let code := statusCode status
      let cls := if code = 3 ∧ hbmTop ≤ gAddr a.addr then (3, 1) else cpyClass code sub
      cpyStop t no off row code (if code = 6 then sub else 0) cls (some a.addr) (scrambleRow t a.ctx no row s)
  | .packet p h st su => packetReply p h (if st = 0 then status else st) (if st = 0 then sub else su) data s
  | .gather _ => s
  | .amax => s
  | .msg => s
  | .book b =>
    if status ≠ 0 then
      let s := modBook b (fun k => { k with cmd := k.cmd.map (fun c => { c with result := 6 }) }) s
      if status = 4 then raise (atAddr s (gAddr a.addr) (blankFault s 5 6 0x25 5)) s else s
    else match a.op with
      | .read _ _ dst _ => ownWrite dieE1 16 dst data s
      | _ => s

/-- Dies and tiles that an access and its answer pass inside the module (R29, R31): from the unit that asks, or the port its packet came by, to the
home stack cache, the tile, or the port toward another module. -/
def accTravels (a : Acc) (s : State) : State :=
  let n := accLen a
  let port (d : Nat) : Nat := match routePort s (ownDev s) d with | some p => portDie p | none => dieE0
  let die := match a.origin with
    | .cpy t _ _ _ => tileDie t
    | .packet p _ _ _ => portDie p
    | _ => dieE1
  let way (x y : Nat) (s : State) : State := diesPass n (dieRoute y x) (diesPass n (dieRoute x y) s)
  let s' :=
    if gDev a.addr ≠ ownDev s then way die (port (gDev a.addr)) s
    else match a.origin, spdOf (gAddr a.addr) with
      | .cpy t _ _ _, some (u, _) => tilesPass n u t (tilesPass n t u s)
      | _, some (u, _) => flitCount 0 (aRtr u 0x08) n (way die (tileDie u) s)
      | _, none => (linesOf (gAddr a.addr) n).foldl (fun s l => diesPass 64 (dieRoute (homeDie s l) die) (diesPass 64 (dieRoute die (homeDie s l)) s)) s
  { s with flits := s'.flits }

/-- An access ends: it leaves the list, its maker learns the outcome, and the last gather write of a completing contribution answers
that contribution (R380). -/
def accDone (a : Acc) (status sub : Nat) (data : List Byte) (s : State) : State :=
  let s := accTravels a { s with accs := s.accs.filter (fun x => x.id ≠ a.id) }
  match a.origin with
  | .gather g =>
    if s.accs.any (fun x => x.origin == .gather g) then s
    else match s.accs.find? (fun x => x.id = g && x.stage == .closing) with
      | some x => reply x 0 0 [] { s with accs := s.accs.filter (fun y => y.id ≠ g) }
      | none => s
  | _ => reply a status sub data s

/-- The access with an id. -/
def accOf (s : State) (id : Nat) : Option Acc := s.accs.find? (fun a => a.id = id)

/-- An access ends because its generation is not current (R51): a packet is told, a copy is not there to be told. The router of a tile counts it, or
FLT_STALE_MEM at a stack cache (R493). -/
def accStale (a : Acc) (s : State) : State :=
  accDone a 1 0 [] (if gDev a.addr ≠ ownDev s then s
    else match spdOf (gAddr a.addr) with
      | some (t, _) => regCount (aRtr t 0x20) 1 s
      | none => regCount (aGlob 0x100040) 1 s)

end Sys2Proof.Machine
end

