-- ==== Sys2Proof/Machine/Digest.lean ====
section
/-!
DEFINITION. SD-128, the step digest (R447).
-/

namespace Sys2Proof.Machine

/-- fold: a 64-bit mix. -/
def fold64 (x : BitVec 64) : BitVec 64 :=
  let x := x ^^^ (x >>> 29)
  let x := x * 0xB7E35A19C64D2F8B
  let x := x ^^^ (x >>> 32)
  let x := x * 0xE2C94D7138A6F05D
  x ^^^ (x >>> 31)

/-- The words of a line mixed into the two halves, from word j on. -/
def sdWords : Nat → List (BitVec 64) → BitVec 64 × BitVec 64 → BitVec 64 × BitVec 64
  | _, [], h => h
  | j, w :: r, (a, b) => sdWords (j + 1) r (fold64 (a ^^^ w), fold64 (b + (w ^^^ BitVec.ofNat 64 j)))

/-- sd_line: the term of the line with an index. -/
def sdLine (step i : BitVec 64) (w : List (BitVec 64)) : BitVec 64 × BitVec 64 :=
  let a := fold64 (step ^^^ (i * 0xC3A596D17B2E4F09))
  sdWords 0 w (a, fold64 (a + 0x9B47E0D35C81A26F))

/-- The eight words of a line. -/
def lineWords (d : List Byte) : List (BitVec 64) := (List.range 8).map (fun j => BitVec.ofNat 64 (ofBytes ((d.drop (8 * j)).take 8)))

/-- The sums over lines given with their indices. -/
def sdSums (step : BitVec 64) : List (Nat × List Byte) → BitVec 64 × BitVec 64
  | [] => (0, 0)
  | (i, d) :: r =>
    let h := sdLine step (BitVec.ofNat 64 i) (lineWords d)
    let t := sdSums step r
    (h.1 + t.1, h.2 + t.2)

/-- sd128 over lines given with their indices; the low half is out[0]. -/
def sd128 (step : Nat) (ls : List (Nat × List Byte)) : BitVec 128 :=
  let m := BitVec.ofNat 64 step
  let n := BitVec.ofNat 64 ls.length
  let t := sdSums m ls
  let o0 := fold64 (t.1 ^^^ n)
  let o1 := fold64 (t.2 + fold64 (n ^^^ m))
  o1 ++ o0

end Sys2Proof.Machine
end

