-- ==== Sys2Proof/Machine/Book.lean ====
section
/-!
DEFINITION. The Field Book controller and the Fair Copy Engine: plans, entries, captures, mirrors and pool records (R438–R474).
-/

namespace Sys2Proof.Machine

/-- Register at offset off of book b's set, and of the FCE window. -/
def aFbk (b off : Nat) : Nat := aGlob (0x1401000 + b * 0x100 + off)
def aFce (off : Nat) : Nat := aGlob (0x1300000 + off)

/-- FBK_Bb_CTL.CTX. -/
def bookCtx (s : State) (b : Nat) : Nat := fld (regRaw s (aFbk b 0)) 19 16

/-- A range of a book (Table 2-6): areas 0 book, 1 mirror book, 2 and 3 slots; none without VALID. -/
def bookRange (s : State) (b i : Nat) : Option (Nat × Nat) :=
  let x := regRaw s (aFbk b (0x18 + 0x10 * i))
  let l := regRaw s (aFbk b (0x20 + 0x10 * i))
  if bit x 0 then some (fld x 39 21 <<< 21, (fld l 39 21 <<< 21) + 0x200000) else none

/-- First byte of a range of a book. -/
def bookArea (s : State) (b i : Nat) : Nat := ((bookRange s b i).map (·.1)).getD 0

/-- Ranges of every book. -/
def bookRanges (s : State) : List (Nat × Nat) := (List.range 16).flatMap (fun b => (List.range 4).filterMap (bookRange s b))

/-- The RUNNING book bound to context c. -/
def runningBook (s : State) (c : Nat) : Option Nat :=
  (List.range 16).find? (fun b => (bookOf s b).state == .running && decide (bookCtx s b = c))

/-- The book bound to context c in any state that is bound. -/
def boundBook (s : State) (c : Nat) : Option Nat :=
  (List.range 16).find? (fun b => bit (regRaw s (aFbk b 0)) 8 && decide (bookCtx s b = c)
    && decide ((bookOf s b).state = .running ∨ (bookOf s b).state = .bound ∨ (bookOf s b).state = .busy))

/-! ### Regions of a plan -/

/-- Pieces (address, length) of the regions of a kind, in plan order. -/
def kindPieces (p : Plan) (k : Nat) : List (Nat × Nat) := (p.regions.filter (fun r => r.kind = k)).map (fun r => (r.base0, r.len))

/-- The parity-q buffers of the REPLICATED regions. -/
def parityPieces (p : Plan) (q : Nat) : List (Nat × Nat) :=
  (p.regions.filter (fun r => r.kind = 3)).map (fun r => (if q % 2 = 0 then r.base0 else r.base1, r.len))

def piecesLen (l : List (Nat × Nat)) : Nat := l.foldl (fun n x => n + x.2) 0

/-- Address of byte i of pieces taken one after another. -/
def pieceAt : List (Nat × Nat) → Nat → Option Nat
  | [], _ => none
  | (a, n) :: r, i => if i < n then some (a + i) else pieceAt r (i - n)

/-- Blocks of 4 KiB of the exclusive state (R450). -/
def exBlocks (p : Plan) : Nat := piecesLen (kindPieces p 4) / 4096
def exAddr (p : Plan) (g : Nat) : Nat := (pieceAt (kindPieces p 4) (4096 * g)).getD 0

/-- Blocks sampled in step m (R450). -/
def sampled (p : Plan) (m : Nat) : List Nat :=
  let k := (fold64 (BitVec.ofNat 64 m)).toNat % 64
  (List.range (exBlocks p)).filter (fun g => decide (g % 64 = k))

/-- The block of the exclusive state that holds an address. -/
def exBlockOf (p : Plan) (a : Nat) : Option Nat :=
  (List.range (exBlocks p)).find? (fun g => decide (exAddr p g ≤ a ∧ a < exAddr p g + 4096))

/-! ### Entries (R443) -/

/-- Entries of the tensor table of the bound context. -/
def bookNt (s : State) (b : Nat) : Nat := ((ctxOf s (bookCtx s b)).tensors.map (·.nt)).getD 0

/-- Offsets of BANK, INPUT and SHARD in an entry, and ESIZE. -/
def offBank (nt : Nat) : Nat := 64 + 128 * nt
def offInput (nt : Nat) : Nat := offBank nt + 64 + 192 * nt
def offShard (nt : Nat) (p : Plan) : Nat := offInput nt + piecesLen (kindPieces p 1)
def entrySize (nt : Nat) (p : Plan) : Nat := ((offShard nt p + piecesLen (kindPieces p 2) + 0x1FFFFF) / 0x200000) * 0x200000

/-- Address of entry m: area 0 the own book, 1 the mirror book. -/
def entryAt (s : State) (b area : Nat) (p : Plan) (m : Nat) : Nat := bookArea s b area + (m % 2) * entrySize (bookNt s b) p

/-- KEY as it stands at an address. -/
def keyAt (s : State) (a : Nat) : Nat := ofBytes (hbmRead s a 64)
def setKeyBit (a i : Nat) (s : State) : State := ownWrite dieE1 16 a (toBytes 64 (setBit (keyAt s a) i true)) s

/-- Entry m of an area (0 own, 1 the partner's) is there; a fresh book's and a lost book's are not (R442, R472). -/
def entryPresent (s : State) (b area m : Nat) : Bool := (bookOf s b).present.contains (2 * area + m % 2)
def markEntry (b area m : Nat) (s : State) : State := modBook b (fun k => { k with present := sinsert (2 * area + m % 2) k.present }) s

/-- KEY of entry m of an area; zero while the entry is absent. -/
def entryKey (s : State) (b area : Nat) (p : Plan) (m : Nat) : Nat :=
  if entryPresent s b area m then keyAt s (entryAt s b area p m) else 0

/-- Rank the book stands for: that of the bound context, or of the last one. -/
def bookRank (s : State) (b : Nat) : Nat :=
  let k := bookOf s b
  if k.state = .halted ∨ k.cmd.map (·.back) = some .halted then k.rank else (ctxOf s (bookCtx s b)).rank

/-- Copy n bytes of HBM, charged to partition 16 (R326). -/
def hbmCopy (src dst n : Nat) (s : State) : State := ownWrite dieE1 16 dst (hbmRead s src n) (chargeWork dieE1 16 src n s)

/-- Copy pieces one after another to dst, or from src back. -/
def copyOut (l : List (Nat × Nat)) (dst : Nat) (s : State) : State :=
  (l.foldl (fun (x : Nat × State) p => (x.1 + p.2, hbmCopy p.1 x.1 p.2 x.2)) (dst, s)).2
def copyBack (l : List (Nat × Nat)) (src : Nat) (s : State) : State :=
  (l.foldl (fun (x : Nat × State) p => (x.1 + p.2, hbmCopy x.1 p.1 p.2 x.2)) (src, s)).2

/-! ### Packets of the fair-copy channel (R456) -/

/-- OPHDR of Table 14-6. -/
def mirrorOp (sub slot index step jobtag rank : Nat) : Nat :=
  sub + slot <<< 4 + index <<< 8 + step <<< 40 + jobtag <<< 104 + rank <<< 136

def mSub (p : Packet) : Nat := pOp p 259 256
def mSlot (p : Packet) : Nat := pOp p 260 260
def mIndex (p : Packet) : Nat := pOp p 295 264
def mStep (p : Packet) : Nat := pOp p 359 296
def mJob (p : Packet) : Nat := pOp p 391 360
def mRank (p : Packet) : Nat := pOp p 403 392

/-- Send a MIRROR packet to (device, context, generation) and remember what its answer is for. -/
def sendMirror (b : Nat) (dst : Nat × Nat × BitVec 16) (mop : MirrorOp) (op : Nat) (pay : List Byte) (s : State) : State :=
  let (id, s) := freshId s
  let s := modBook b (fun k => { k with flight := k.flight ++ [(id % 65536, mop)] }) s
  sendPacket (mkPacket s { opc := 0x40, vc := 6, dst := dst.1, ctx := dst.2.1, gen := dst.2.2.toNat, rank := bookRank s b,
                           tag := id, op := op } pay) s

/-- The first pool port (ROLE 8), an UP one before the others. -/
def poolPort (s : State) : Option Nat :=
  match (List.range 16).find? (fun p => decide (roleOf s p = 8 ∧ portState s p = 2)) with
  | some p => some p
  | none => (List.range 16).find? (fun p => decide (roleOf s p = 8))

/-- Send a MIRROR packet to the pool device. -/
def sendPool (b : Nat) (mop : MirrorOp) (op : Nat) (pay : List Byte) (s : State) : State :=
  match poolPort s with
  | none => s
  | some p =>
    let (id, s) := freshId s
    let s := modBook b (fun k => { k with flight := k.flight ++ [(id % 65536, mop)] }) s
    queueAt p (mkPacket s { opc := 0x40, vc := 6, dst := 0, tag := id, op := op } pay) (regCount (aFce 0x118) (pay.length / 64) s)

/-- The partner's device, context and generation by the job map. -/
def memberOf (x : Ctx) (rank : Nat) : Option (Nat × Nat × BitVec 16) :=
  (x.jobMap.find? (fun e => e.2.rank = rank)).map (fun e => (e.1, e.2.ctx, e.2.gen))

/-! ### Captures (R444) -/

/-- Page i of an entry, as it travels. -/
def entryPage (s : State) (a i : Nat) : List Byte := hbmRead s (a + 4096 * i) 4096

/-- Pages of an entry are not answered, since no partner takes them now (R456). -/
def pagesRefused (b : Nat) (part : CapturePart) (m : Nat) (s : State) : State :=
  modBook b (fun k => { k with flight := k.flight ++ [(65536, .entry part m)] }) s

/-- Send the pages that hold [off, off + n) of entry m to the partner's mirror book, the page of KEY last. -/
def sendPages (b : Nat) (p : Plan) (part : CapturePart) (m off n : Nat) (s : State) : State :=
  match (bookOf s b).peer with
  | none => pagesRefused b part m s
  | some peer =>
    if (bookOf s b).refused then pagesRefused b part m s
    else
      let a := entryAt s b 0 p m
      let pages := (List.range ((off + n + 4095) / 4096 - off / 4096)).map (fun i => off / 4096 + i)
      let one (s : State) (i : Nat) : State :=
        sendMirror b peer (.entry part m) (mirrorOp 1 0 i m 0 (bookRank s b)) (entryPage s a i) (chargeWork dieE1 16 (a + 4096 * i) 4096 s)
      one ((pages.filter (· ≠ 0)).foldl one s) 0

/-- A capture is under way. -/
def addCapture (b : Nat) (part : CapturePart) (m : Nat) (s : State) : State :=
  modBook b (fun k => { k with captures := k.captures ++ [(part, m)] }) s

/-- A part counts as captured without a capture. -/
def haveCapture (b : Nat) (part : CapturePart) (m : Nat) (s : State) : State :=
  modBook b (fun k => { k with capDone := (k.capDone.filter (fun x => decide (m ≤ x.2 + 1))) ++ [(part, m)] }) s

/-- What a capture reads. -/
def captureFrom (s : State) (b : Nat) (p : Plan) (part : CapturePart) (m : Nat) : List (Nat × Nat) :=
  let tk := (ctxOf s (bookCtx s b)).tensors
  match part with
  | .keyLive => (tk.map (fun tk => (tk.addr + 64, 128 * bookNt s b))).toList
  | .input => kindPieces p 1
  | .shard => (tk.map (fun tk => (bankAddr tk (m % 2), 64 + 192 * bookNt s b))).toList ++ kindPieces p 2

/-- A line of some pieces is open. -/
def piecesOpen (s : State) (l : List (Nat × Nat)) : Bool := l.any (fun r => lineOpen s r.1 r.2)

/-- The book does something once the line that it waits for is closed. -/
def bookLater (b : Nat) (x : BookDue) (s : State) : State :=
  modBook b (fun k => if k.due.contains x then k else { k with due := k.due ++ [x] }) s

/-- The capture of a part of entry m: into the own entry, then to the partner. -/
def captureNow (b : Nat) (p : Plan) (part : CapturePart) (m : Nat) (s : State) : State :=
    let c := bookCtx s b
    let nt := bookNt s b
    let a := entryAt s b 0 p m
    let s := addCapture b part m s
    match part with
    | .keyLive =>
      let s := markEntry b 0 m (ownWrite dieE1 16 a (toBytes 64 (m + regRaw s (aCtx c 0x70) <<< 64 + 1 <<< 128)) s)
      let s := match (ctxOf s c).tensors with
        | some tk => hbmCopy (tk.addr + 64) (a + 64) (128 * nt) s
        | none => s
      sendPages b p part m 0 (offBank nt) s
    | .input =>
      let l := kindPieces p 1
      sendPages b p part m (offInput nt) (piecesLen l) (setKeyBit a 129 (copyOut l (a + offInput nt) s))
    | .shard =>
      let s := match (ctxOf s c).tensors with
        | some tk =>
          hbmCopy (bankAddr tk (m % 2)) (a + offBank nt) (64 + 192 * nt) ((tilesOf s c).foldl (fun s t => contourFlush c tk (m % 2) t s) s)
        | none => s
      let l := kindPieces p 2
      let s := setKeyBit a 131 (setKeyBit a 130 (copyOut l (a + offShard nt p) s))
      let s := sendPages b p part m (offBank nt) (64 + 192 * nt) s
      sendPages b p part m (offShard nt p) (piecesLen l) s

/-- Start the capture of a part of entry m; it waits while a line it reads is open (R318). -/
def startCapture (b : Nat) (part : CapturePart) (m : Nat) (s : State) : State :=
  match (bookOf s b).plan with
  | none => s
  | some p => if piecesOpen s (captureFrom s b p part m) then bookLater b (.capture part m) s else captureNow b p part m s

/-- Send the pages of a capture again. -/
def resendCapture (b : Nat) (p : Plan) (part : CapturePart) (m : Nat) (s : State) : State :=
  let nt := bookNt s b
  match part with
  | .keyLive => sendPages b p part m 0 (offBank nt) s
  | .input => sendPages b p part m (offInput nt) (piecesLen (kindPieces p 1)) s
  | .shard =>
    sendPages b p part m (offShard nt p) (piecesLen (kindPieces p 2)) (sendPages b p part m (offBank nt) (64 + 192 * nt) s)

/-- Set a decision bit of KEY of entry m, here and at the partner. -/
def decideEntry (b m i : Nat) (s : State) : State :=
  match (bookOf s b).plan with
  | none => s
  | some p => sendPages b p .keyLive m 0 0 (setKeyBit (entryAt s b 0 p m) i s)

/-! ### Mirrors (R452–R455) -/

/-- The step before m; before step 0 the loaded state counts as step all ones (Table 14-11). -/
def prevStep (m : Nat) : Nat := (m + (2 ^ 64 - 1)) % 2 ^ 64

def slotMap (k : Book) (q : Nat) : List Nat := if q % 2 = 0 then k.slotMap0 else k.slotMap1
def setSlotMap (q : Nat) (l : List Nat) (k : Book) : Book := if q % 2 = 0 then { k with slotMap0 := l } else { k with slotMap1 := l }

/-- Push block g of the mirror of step m, unless it is on its way or the partner refused one (R456); it waits while a line of it is open. -/
def pushBlock (b : Nat) (p : Plan) (m g : Nat) (s : State) : State :=
  match (bookOf s b).peer with
  | none => s
  | some peer =>
    if (bookOf s b).refused || (bookOf s b).flight.any (fun f => f.2 == .slot (m % 2) g) then s
    else if lineOpen s (exAddr p g) 4096 then bookLater b (.push m g) s
    else sendMirror b peer (.slot (m % 2) g) (mirrorOp 0 (m % 2) g m 0 (bookRank s b)) (hbmRead s (exAddr p g) 4096)
      (chargeWork dieE1 16 (exAddr p g) 4096 (regCount (aFce 0x100) 1 s))

/-- The mirror of step m is complete when every bit of its slot is set: step m is safe (R445, R455, R462). -/
def mirrorCheck (b m : Nat) (s : State) : State :=
  let k := bookOf s b
  match k.plan with
  | none => s
  | some p =>
    if (List.range (exBlocks p)).all (fun g => (slotMap k m).contains g) then
      regPut (aFbk b 0x68) m (modBook b (fun k => { k with complete := some m, unprot := false }) s)
    else s

/-- From STEP_BEGIN m the FCE builds the mirror of m − 1: sampled blocks first, then the others, those whose bit is clear. -/
def mirrorStart (b m : Nat) (s : State) : State :=
  let k := bookOf s b
  match k.plan with
  | none => s
  | some p =>
    let first := sampled p m
    let order := first ++ (List.range (exBlocks p)).filter (fun g => !first.contains g)
    let todo := order.filter (fun g => !(slotMap k (prevStep m)).contains g)
    mirrorCheck b (prevStep m) (todo.foldl (fun s g => pushBlock b p (prevStep m) g s) s)

/-- STEP_BEGIN of the running step has been released, and its COMMIT not. -/
def midStep (x : Ctx) : Bool :=
  match x.next with
  | .at i => decide (wpB x < i ∧ i ≤ wpC x)
  | _ => false

/-- The partner is as the job map says; a change of its device is a pairing change: no slot bit is set, captures under way are sent again, and
the mirror of a step in progress is built again from its first block (R453, R456, R462). -/
def pairBook (b : Nat) (s : State) : State :=
  let k := bookOf s b
  match k.plan with
  | none => s
  | some p =>
    let x := ctxOf s (bookCtx s b)
    match memberOf x p.partner with
    | none => s
    | some m =>
      let changed : Bool := match k.peer with | some o => decide (o.1 ≠ m.1) | none => true
      if changed then
        let s := modBook b (fun k => { k with
          peer := some m, slotMap0 := [], slotMap1 := [], unprot := true, complete := none, refused := false
          flight := k.flight.filter (fun f => match f.2 with | .slot _ _ => false | .entry _ _ => false | _ => true) }) s
        let s := k.captures.foldl (fun s x => resendCapture b p x.1 x.2 s) s
        if midStep x then mirrorStart b (stepOf s (bookCtx s b)) s else s
      else modBook b (fun k => { k with peer := some m }) s

/-- The parts of the pool record of step k that this rank and the FCE of its partner send (R469). Page 0 holds KEY and the machine
shape, then follow the blocks and the replicated pages. -/
def poolNow (b k : Nat) (p : Plan) (s : State) : State :=
  let c := bookCtx s b
  let x := ctxOf s c
  let n := exBlocks p
  let rep := if p.ckptRepl then parityPieces p k else []
  let rn := piecesLen rep / 4096
  let key := ofBytes (hbmRead s (entryAt s b 0 p k) 64)
  let page0 := fitBytesNat (key + n <<< 512 + rn <<< 544 + x.members <<< 576 + x.mbInFlight <<< 592 + ctxTiles s c <<< 640)
  let send (rank pg : Nat) (d : List Byte) (s : State) : State := sendPool b (.pool k) (mirrorOp 4 0 pg k p.jobTag rank) d s
  let held := if k % 2 = 0 then (bookOf s b).held0 else (bookOf s b).held1
  let slot := bookArea s b (2 + k % 2)
  let page (rank pg a : Nat) (s : State) : State := send rank pg (hbmRead s a 4096) (chargeWork dieE1 16 a 4096 s)
  let s := held.foldl (fun s h => page p.partner (1 + h.1) (slot + 4096 * h.1) s) s
  let s := (List.range rn).foldl (fun s j => page x.rank (1 + n + j) ((pieceAt rep (4096 * j)).getD 0) s) s
  send x.rank 0 page0 s
where
  /-- 4 KiB that hold a number. -/
  fitBytesNat (v : Nat) : List Byte := toBytes 96 v ++ List.replicate 4000 0#8

/-- A pool record is sent; its replicated pages wait while a line of them is open (R318). -/
def poolSend (b k : Nat) (p : Plan) (s : State) : State :=
  let s := modBook b (fun y => { y with ckpt := sinsert k y.ckpt }) s
  if p.ckptRepl && piecesOpen s (parityPieces p k) then bookLater b (.record k) s else poolNow b k p s

/-- Lines have closed: what a book waited to do it does now, or waits again. -/
def wakeBook (b : Nat) (s : State) : State :=
  match (bookOf s b).plan with
  | none => s
  | some p =>
    (bookOf s b).due.foldl (fun s x => match x with
      | .capture part m => startCapture b part m s
      | .record k => poolSend b k p s
      | .push m g => if (slotMap (bookOf s b) m).contains g then s else pushBlock b p m g s) (modBook b (fun k => { k with due := [] }) s)
def wakeBooks (s : State) : State :=
  (List.range 16).foldl (fun s b => if (bookOf s b).due = [] then s else wakeBook b s) s

/-- What waited for a line that is open no more goes on: late writes, then the books. -/
def linesClosed (s : State) : State := wakeBooks (flushLate s)

/-- Copy-before-write (R454): a write to bytes of HBM by step m's work goes on when the block's slot bit is set, and the written bit is set
with it; otherwise the FCE pushes the block and the write waits. -/
def cbwBlock (b m : Nat) (p : Plan) (g : Nat) (s : State) : Bool × State :=
  let k := bookOf s b
  if (slotMap k (prevStep m)).contains g then (true, modBook b (fun k => { k with written := sinsert g k.written }) s)
  else (false, pushBlock b p (prevStep m) g s)

/-- The book whose exclusive state holds an address, with the block. -/
def cbwFind (s : State) (a : Nat) : Option (Nat × Plan × Nat) :=
  (List.range 16).findSome? (fun b =>
    let k := bookOf s b
    match k.plan with
    | some p => if k.state == .running then (exBlockOf p a).map (fun g => (b, p, g)) else none
    | none => none)

/-- Copy-before-write of every block that [a, a + n) touches: whether the write may go on. -/
def cbw (a n : Nat) (s : State) : Bool × State :=
  (linesOf a n).foldl (fun x l =>
    match cbwFind x.2 l with
    | some (b, p, g) =>
      let y := cbwBlock b (stepOf x.2 (bookCtx x.2 b)) p g x.2
      (x.1 && y.1, y.2)
    | none => x) (true, s)

/-- Go on with a write of [a, a + n) once copy-before-write lets it; a write that has to wait counts. -/
def afterCbw (a n : Nat) (f : State → State) (s : State) : State :=
  let x := cbw a n s
  if x.1 then f x.2 else regCount (aFce 0x110) 1 x.2

/-! ### Gates and events of waypoints -/

/-- The rank audits its partner: its plan has an AUDIT region (R438, R451; DEDUCED: log entry 117). -/
def audits (p : Plan) : Bool := p.regions.any (fun r => r.kind == 5)

/-- Whether a packet of book b's part of the pool record of a rank and step still waits at a port, or to be built. -/
def poolWaiting (s : State) (b rank step : Nat) : Bool :=
  (bookOf s b).due.contains (.record step)
    || s.links.any (fun l => l.2.queue.any (fun p => decide (pOpc p = 0x40 ∧ mSub p = 4 ∧ mRank p = rank ∧ mStep p = step)))

/-- The book lets the waypoint of an index count as reached in step m (R444, R451, R457, R469). -/
def bookGate (s : State) (c : Nat) (kind : WpKind) (i m : Nat) : Bool :=
  match runningBook s c with
  | none => true
  | some b =>
    let k := bookOf s b
    match k.plan with
    | none => true
    | some p =>
      match kind with
      | .stepBegin => k.capDone.contains (.keyLive, m) && k.capDone.contains (.input, m) && !(decide (3 ≤ m) && poolWaiting s b p.partner (m - 3))
      | .commit => decide (k.voted = some m)
      | _ =>
        if i = p.uwp then k.capDone.contains (.shard, m) && (!audits p || decide (k.audited = some m))
          && !(decide (2 ≤ m) && p.ckptRepl && poolWaiting s b (ctxOf s c).rank (m - 2))
        else true

/-- Sampled blocks of step m packed from an address: (index of the first line, address of the block). -/
def auditArea (p : Plan) : Nat := ((kindPieces p 5).head?.map (·.1)).getD 0

/-- The auditor's FBK writes its AUDIT region (R451, action 1) once the partner's SHARD and LIVE of step m are in the mirror book. -/
def auditPrepare (b m : Nat) (s : State) : State :=
  let k := bookOf s b
  match k.plan with
  | none => s
  | some p =>
    let nt := bookNt s b
    let e := entryAt s b 1 p m
    let key := entryKey s b 1 p m
    let held := if prevStep m % 2 = 0 then k.held0 else k.held1
    let ss := sampled p m
    if audits p && decide (k.audited ≠ some m) && decide (key % 2 ^ 64 = m) && bit key 128 && bit key 130
        && ss.all (fun g => (tget held g).isSome) then
      let src := bookArea s b (2 + prevStep m % 2)
      let s := (ss.foldl (fun (x : Nat × State) g => (x.1 + 4096, hbmCopy (src + 4096 * g) x.1 4096 x.2)) (auditArea p, s)).2
      let o := auditArea p + 4096 * ss.length
      let sh := piecesLen (kindPieces p 2)
      let s := hbmCopy (e + offShard nt p) o sh s
      let s := hbmCopy (e + 64) (o + sh) (128 * nt) s
      modBook b (fun k => { k with audited := some m }) s
    else s

/-- Every local participant has reached waypoint i of step m (Table 14-5, R464). -/
def bookReached (c : Nat) (kind : WpKind) (i : Nat) (s : State) : State :=
  match runningBook s c with
  | none => s
  | some b =>
    let k := bookOf s b
    let m := stepOf s c
    match k.plan with
    | none => s
    | some p =>
      let resumed (kd : Nat) : Bool := match k.resume with | some (n, x) => decide (n = m ∧ kd ≤ x) | none => false
      match kind with
      | .stepBegin =>
        if resumed 1 then
          let a := entryAt s b 0 p m
          haveCapture b .input m (if bit (entryKey s b 0 p m) 129 then copyBack (kindPieces p 1) (a + offInput (bookNt s b)) s else s)
        else startCapture b .input m s
      | _ =>
        if i = p.uwp then auditPrepare b m (if resumed 2 then haveCapture b .shard m s else startCapture b .shard m s) else s

/-- The actions of R247 for step m − 1 are done: the capture of KEY and LIVE of entry m (Table 14-5). -/
def bookLiveDone (c : Nat) (s : State) : State :=
  match runningBook s c with
  | none => s
  | some b => startCapture b .keyLive (stepOf s c) s

/-- A waypoint of step m is released: UREL, the mirror, the commit (R453, R455, R458, R469). -/
def bookReleased (c : Nat) (kind : WpKind) (i m : Nat) (s : State) : State :=
  match runningBook s c with
  | none => s
  | some b =>
    match (bookOf s b).plan with
    | none => s
    | some p =>
      match kind with
      | .stepBegin => mirrorStart b m (modBook b (fun k => { k with phase := 1 }) s)
      | .commit =>
        let s := decideEntry b m 133 (regPut (aFbk b 0x58) m s)
        let s := modBook b (fun k => { k with
          phase := 4, resume := none, stateAt := none, voted := none, mineDig := none, mineAud := none
          slotMap0 := k.slotMap0.filter (fun g => !k.written.contains g)
          slotMap1 := k.slotMap1.filter (fun g => !k.written.contains g)
          written := [] }) s
        if p.every ≠ 0 ∧ 1 ≤ m ∧ (m - 1) % p.every = 0 then poolSend b (m - 1) p s else s
      | _ => if i = p.uwp then regPut (aFbk b 0x60) m (modBook b (fun k => { k with phase := 2 }) s) else s

/-- A run of a step begins, or ends without a commit: it has its own digests and vote (R449, R451). -/
def freshChecks (b : Nat) (s : State) : State :=
  modBook b (fun k => { k with voted := none, mineDig := none, mineAud := none, predDig := none, peerAud := none }) s

/-- REPLAY_FIRST and REPLAY_LAST of a resume of step n (R464, R465): the steps after the one whose state is held, up to the target's; (1, 0) where the
target is the state before step 0 (DESIGN CHOICE: log entry 132). -/
def resumeSpan (k : Book) (n kind : Nat) : Nat × Nat :=
  if kind ≠ 2 ∧ n = 0 then (1, 0)
  else
    let target := if kind = 2 then n else n - 1
    (match k.stateAt with | some q => (q + 1) % 2 ^ 64 | none => target + 1, target)

/-- The context starts (R464, R472): the resume record and what goes with it, or the first capture. -/
def bookStart (c : Nat) (s : State) : State :=
  match runningBook s c with
  | none => s
  | some b =>
    let k := bookOf s b
    match k.plan with
    | none => s
    | some p =>
      let m := stepOf s c
      let nt := bookNt s b
      let s := freshChecks b (modBook b (fun k => { k with phase := 1, audited := none }) s)
      match k.resume with
      | some (n, kind) =>
        let (first, target) := resumeSpan k n kind
        let a := entryAt s b 0 p n
        let key := entryKey s b 0 p n
        let s := ownWrite dieE1 16 p.resume (toBytes 64 (kind + n <<< 64 + first <<< 128 + target <<< 192 + (!bit key 129).toNat <<< 256)) s
        let s := match (ctxOf s c).tensors with
          | some tk => hbmCopy (a + offBank nt) (bankAddr tk (n % 2)) (64 + 192 * nt) (hbmCopy (a + 64) (tk.addr + 64) (128 * nt) s)
          | none => s
        let sh := piecesLen (kindPieces p 2)
        let s := (List.range (target + 1 - first)).foldl (fun s j =>
          let e := entryAt s b 0 p (first + j)
          let h := p.replay + j * (sh + 128 * nt)
          hbmCopy (e + 64) (h + sh) (128 * nt) (hbmCopy (e + offShard nt p) h sh s)) s
        sendPages b p .keyLive n 0 (offBank nt) (addCapture b .keyLive n s)
      | none =>
        startCapture b .keyLive m (if m = 0 then regPut (aFbk b 0x58) (2 ^ 64 - 1) s else regPut (aFbk b 0x58) (m - 1) s)

/-! ### States (R442, R446) -/

/-- Every steward of the context waits at WAYPOINT, is stopped or in reset; streams and vector engines are idle or stopped; copies
have completed, which the one that stopped its stream has not (R446). -/
def ctxQuiet (s : State) (c : Nat) : Bool :=
  (tilesOf s c).all (fun t =>
    [0, 1].all (fun n =>
      let x := stOf s t n
      (x.run == .waiting && x.waitKind == .waypoint) || x.run == .stopped || x.run == .reset)
    && [(0, 0), (0, 1), (1, 0), (1, 1)].all (fun (a, i) =>
      let x := strOf (maOf s t a) i
      x.stopped || (x.queue.isEmpty && x.decoded.isEmpty && x.inArray.isEmpty))
    && ((vxeOf s t).stopped || (vxeOf s t).runs.isEmpty)
    && !(cpyOf s t).stopped && (cpyOf s t).queue.isEmpty && (cpyOf s t).decoded.isEmpty)

/-- The capture of R446 before a teardown. -/
def bookTeardown (c : Nat) (s : State) : State :=
  match runningBook s c with
  | none => s
  | some b =>
    match (bookOf s b).plan, (ctxOf s c).tensors with
    | some p, some tk =>
      if ctxQuiet s c then
        let m := stepOf s c
        let nt := bookNt s b
        let a := entryAt s b 0 p m
        let s := (tilesOf s c).foldl (fun s t => contourFlush c tk (m % 2) t s) s
        setKeyBit a 132 (setKeyBit a 131 (hbmCopy (bankAddr tk (m % 2)) (a + offBank nt) (64 + 192 * nt) s))
      else s
    | _, _ => s

/-- Book b enters HALTED (R442): EN clears, work in progress ends. -/
def haltBook (b : Nat) (s : State) : State :=
  regFld (aFbk b 0) 0 0 0 (freshChecks b (modBook b (fun k => { k with
    state := .halted, cmd := none, flight := [], captures := [], capDone := [], due := [], resume := none, audited := none }) s))

/-- The bound context has left for FREE: every book bound to it is HALTED. -/
def bookCtxFree (c : Nat) (s : State) : State :=
  (List.range 16).foldl (fun s b =>
    let k := bookOf s b
    if bit (regRaw s (aFbk b 0)) 8 ∧ bookCtx s b = c ∧ (k.state = .running ∨ k.state = .bound ∨ (k.state = .busy ∧ k.cmd.map (·.back) ≠ some .halted))
    then haltBook b s else s) s

/-- FBK_Bb_STATUS and FCE_STATUS as they read (Tables 14-13, R475). -/
def bookStatusView (s : State) (b : Nat) : Nat :=
  let k := bookOf s b
  let st := match k.state with | .unbound => 0 | .bound => 1 | .running => 2 | .halted => 3 | .busy => 4
  let quiet := match k.state with | .running => ctxQuiet s (bookCtx s b) | _ => false
  st + k.phase <<< 4 + (!k.ckpt.isEmpty).toNat <<< 16 + quiet.toNat <<< 17 + k.unprot.toNat <<< 18 + k.lost.toNat <<< 19 + k.result <<< 24

def fceStatusView (s : State) : Nat :=
  (List.range 16).foldl (fun v b =>
    let k := bookOf s b
    let done := match k.complete with | some m => decide (m = prevStep (stepOf s (bookCtx s b))) && decide (k.state = BookState.running) | none => false
    v + done.toNat <<< (16 + b)) ((List.range 16).any (fun b => !(bookOf s b).flight.isEmpty)).toNat

end Sys2Proof.Machine
end

