-- ==== Sys2Proof/Machine/Queue.lean ====
section
/-!
DEFINITION. The rings of the host port: their indices, the entries the module writes into them, and events (R416–R419, R429, R581).
-/

namespace Sys2Proof.Machine

/-- Register at offset off of the HOSTP window, and of function n's set. -/
def aHost (off : Nat) : Nat := aGlob (0x1000000 + off)
def aFn (n off : Nat) : Nat := aHost (0x1000 + n * 0x100 + off)

/-- HOSTP_FNn_STATE [1:0]: 0 DISABLED, 1 ENABLED, 2 RESETTING. -/
def fnState (s : State) (n : Nat) : Nat := fld (regRaw s (aFn n 0x04)) 1 0
def setFnState (n v : Nat) (s : State) : State := regFld (aFn n 0x04) 1 0 v s

/-- Key of queue F:i. -/
def qKey (f i : Nat) : Nat := f * 4096 + i
def qOf (s : State) (k : Nat) : Option Queue := tget s.queues k
def setQ (k : Nat) (q : Queue) (s : State) : State := { s with queues := tput s.queues k q }

/-- Depth, count, entry size of a ring (R417). -/
def qDepth (q : Queue) : Nat := 2 ^ q.log2
def qCount (q : Queue) : Nat := (q.pi + 2 * qDepth q - q.ci) % (2 * qDepth q)
def qSize (q : Queue) : Nat := if q.big then 256 else 64
def qFull (q : Queue) : Bool := decide (qDepth q ≤ qCount q)
/-- An index some entries on. -/
def qAdd (q : Queue) (i n : Nat) : Nat := (i + n) % (2 * qDepth q)
/-- Address of the entry at an index. -/
def qAddr (q : Queue) (i : Nat) : Nat := q.addr + qSize q * (i % qDepth q)

/-- PHASE of an entry written at index i (R418). -/
def qPhase (q : Queue) (i : Nat) : Nat := 1 - (bit i q.log2).toNat

/-- A ring's stack is not READY: the queue enters ERROR and a record goes to F0 (R581). -/
def qFail (k : Nat) (q : Queue) (a : Nat) (s : State) : State :=
  raise (atAddr s a (blankFault s 5 6 0x22 4)) (setQ k { q with error := true } s)

/-! ### Module-initiated RDMA (R419) -/

def qpOf (s : State) (n : Nat) : Option Qp := tget s.qps n
def setQp (n : Nat) (x : Qp) (s : State) : State := { s with qps := tput s.qps n x }

/-- Fields of QP_MODIFY as a queue pair keeps them: entry bits from 64 on. -/
def qpFld (x : Qp) (hi lo : Nat) : Nat := fld x.params.toNat (hi - 64) (lo - 64)

/-- A RoCEv2 packet leaves on queue pair n, or is held while the function's ROCE_PRIO is paused (R406, R430). -/
def sendRoce (n : Nat) (o : RoceOut) (s : State) : State :=
  let prio := fld (regRaw s (aFn (match qpOf s n with | some x => x.func | none => 0) 0)) 22 20
  if s.paused.contains prio then { s with heldRoce := s.heldRoce ++ [(prio, n, o)] } else { s with sentRoce := s.sentRoce ++ [(n, o)] }

/-- RDMA Reads a queue pair may have outstanding: MAX_RD, its code 0 read as 16 (DEDUCED: log entry 113). -/
def maxReads (x : Qp) : Nat := if qpFld x 403 400 = 0 then 16 else qpFld x 403 400

/-- Requests of a queue pair that wait for RTS or for an RDMA Read to end leave in order: each takes the next PSN. -/
def roceLaunch (n : Nat) : Nat → State → State
  | 0, s => s
  | m + 1, s =>
    match qpOf s n with
    | none => s
    | some x =>
      match x.waiting with
      | [] => s
      | r :: w =>
        if x.state ≠ .rts ∨ (r.data = [] ∧ maxReads x ≤ (x.unacked.filter (fun u => u.data = [])).length) then s
        else
          let r := { r with psn := x.sendPsn }
          roceLaunch n m (sendRoce n (.request r) (setQp n { x with
            sendPsn := (x.sendPsn + 1) % 2 ^ 24, unacked := x.unacked ++ [r], waiting := w } s))

/-- What waits at a queue pair leaves as far as it may. -/
def roceGo (n : Nat) (s : State) : State := roceLaunch n (match qpOf s n with | some x => x.waiting.length | none => 0) s

/-- A RoCEv2 request on queue pair n: it leaves behind those that wait. -/
def roceRequest (n addr : Nat) (rkey : BitVec 32) (data : List Byte) (len queue idx : Nat) (s : State) : State :=
  match qpOf s n with
  | some x =>
    roceGo n (setQp n { x with waiting := x.waiting ++
      [{ psn := 0, addr := addr, rkey := rkey, data := data, len := len, queue := queue, idx := idx }] } s)
  | none => s

/-- A queue of the function that a host-memory ring may use: its queue pair is in RTS. -/
def qReady (s : State) (q : Queue) : Bool :=
  !q.host || (match qpOf s q.qpn with | some x => x.state == .rts | none => false)

/-! ### Writing entries -/

/-- Bytes padded or cut to a length. -/
def fitBytes (n : Nat) (d : List Byte) : List Byte := (d ++ List.replicate (n - d.length) 0#8).take n

/-- An entry as the module writes it at the producer index, with its PHASE (R418). -/
def qEntry (q : Queue) (d : List Byte) : List Byte :=
  match fitBytes (qSize q) d with
  | b :: r => BitVec.ofNat 8 (setBit b.toNat 0 (decide (qPhase q q.pi = 1))) :: r
  | [] => []

/-- An agent on die e writes an entry into a ring that has room and is not in ERROR; in HBM that is charged to partition p (R326). -/
def qProduce (e p k : Nat) (d : List Byte) (s : State) : State :=
  match qOf s k with
  | none => s
  | some q =>
    let a := qAddr q q.pi
    let d := qEntry q d
    if q.host then
      let kept := if q.notify = 2 then q.hostCopy ++ [(q.pi, d)] else q.hostCopy
      roceRequest q.qpn a q.rkey d d.length k q.pi (setQ k { q with pi := qAdd q q.pi 1, hostCopy := kept } s)
    else if memAvailable s a (qSize q) then ownWrite e p a d (setQ k { q with pi := qAdd q q.pi 1 } s)
    else qFail k q a s

/-- The queue takes an entry now: it exists, works and has room. -/
def qRoom (s : State) (k : Nat) : Bool :=
  match qOf s k with
  | some q => !q.error && qReady s q && !qFull q
  | none => false

/-! ### Completions of commands (R426, R427) -/

/-- The entry at the consumer index of a submission queue, as a number. -/
def qFront (s : State) (q : Queue) : Nat :=
  if q.host then ofBytes (((q.hostCopy.find? (fun p => p.1 = q.ci)).map (·.2)).getD [])
  else ofBytes (hbmRead s (qAddr q q.ci) 64)

/-- Complete the entry at the front of submission queue F:i: it is consumed, and the completion with a status and the result from bit
64 on goes to the completion queue; one in ERROR takes none (R581). -/
def qComplete (f i cid status result : Nat) (s : State) : State :=
  match qOf s (qKey f i) with
  | none => s
  | some q =>
    let ci := qAdd q q.ci 1
    let s := if q.host then s else chargeWork dieE0 16 (qAddr q q.ci) 64 s
    let s := setQ (qKey f i) { q with ci := ci, hostCopy := q.hostCopy.filter (fun p => p.1 ≠ q.ci) } s
    let s := { s with rrNext := tset 0 s.rrNext f (i + 1) }
    let k := qKey f q.cq
    if qRoom s k then qProduce dieE0 16 k (toBytes 64 (status <<< 8 + cid <<< 16 + ci <<< 32 + i <<< 48 + result <<< 64)) s else s

/-! ### Events (R429) -/

/-- The event queue of a function. -/
def eventQueue (s : State) (f : Nat) : Option Nat :=
  (s.queues.find? (fun p => decide (p.1 / 4096 = f) && p.2.kind == .event)).map (·.1)

/-- An event entry: kind, context and generation, time, and the words from bit 128 on. -/
def eventBytes (s : State) (kind ctx gen more : Nat) : List Byte :=
  toBytes 256 (kind <<< 8 + ctx <<< 16 + gen <<< 20 + now s <<< 64 + more <<< 128)

/-- An event that function f does not get is counted (R429). -/
def dropEvent (f : Nat) (s : State) : State :=
  regCount (aHost 0x140) 1 { s with lostEv := tset 0 s.lostEv f ((tget s.lostEv f).getD 0 + 1) }

/-- Write an event into the queue of function f, or drop it. -/
def putEvent (f kind ctx gen more : Nat) (s : State) : State :=
  match eventQueue s f with
  | some k => if qRoom s k then qProduce dieE0 16 k (eventBytes s kind ctx gen more) s else dropEvent f s
  | none => dropEvent f s

/-- The LOST entry of function f's drops, when its queue takes an event again: it goes to F0 (R429). -/
def lostEvent (f : Nat) (s : State) : State :=
  let lost := (tget s.lostEv f).getD 0
  match eventQueue s f with
  | some k => if lost ≠ 0 ∧ qRoom s k then putEvent 0 5 0 0 (min lost (2 ^ 32 - 1)) { s with lostEv := tset 0 s.lostEv f 0 } else s
  | none => s

/-- Write an event to function f, a LOST entry first after drops; with no queue or no room it is dropped and counted. -/
def postEvent (f kind ctx gen more : Nat) (s : State) : State :=
  putEvent f kind ctx gen more (lostEvent f (if f ≠ 0 ∧ (tget s.lostEv f).getD 0 ≠ 0 then lostEvent 0 s else s))

/-- A context enters a state: an event goes to the function that owns it. -/
def setCtxState (c : Nat) (st : CtxState) (s : State) : State :=
  let x := ctxOf s c
  let code (v : CtxState) : Nat := match v with
    | .free => 0 | .created => 1 | .loading => 2 | .ready => 3 | .running => 4 | .held => 5 | .teardown => 6 | .done => 7
  if x.state = st then s
  else postEvent x.func 1 c x.gen.toNat (code st + code x.state <<< 8) (setCtx c { x with state := st } s)

end Sys2Proof.Machine
end

