-- ==== Sys2Proof/Machine/Log.lean ====
section
/-!
DEFINITION. The firmware log (R519) and its trace points (R520), and whether a Compass core runs (R521).
-/

namespace Sys2Proof.Machine

/-- A CMPS register. -/
def aCmps (o : Nat) : Nat := aGlob (0x2000000 + o)

/-- CMPS_COREc.STATE: 0 RUNNING, 1 RESTARTING, 2 FAILED. -/
def coreState (s : State) (c : Nat) : Nat := fld (regRaw s (aCmps (0x20 + 4 * c))) 1 0
def coreRuns (s : State) (c : Nat) : Bool := decide (coreState s c = 0)

/-- An entry of Table 16-11 before its TEXT and PHASE. -/
def logHead (s : State) (core level point a0 a1 : Nat) : Nat :=
  level <<< 8 + core <<< 16 + (point + core <<< 8) <<< 32 + now s <<< 64 + (s.compass.lseq % 2 ^ 32) <<< 128
    + (s.compass.dropped % 2 ^ 32) <<< 160 + (a0 % 2 ^ 64) <<< 256 + (a1 % 2 ^ 64) <<< 320

/-- A core writes an entry into queue F0:2, or drops and counts it. What TEXT says is open. -/
def logEntry (core level point a0 a1 : Nat) (s : State) : State :=
  let (t, s) := freeBits 1280 s
  let d := toBytes 256 (logHead s core level point a0 a1 + t <<< 768)
  let n := s.compass.lseq + 1
  if qRoom s 2 then qProduce dieE0 16 2 d { s with compass := { s.compass with lseq := n, dropped := 0 } }
  else { s with compass := { s.compass with lseq := n, dropped := s.compass.dropped + 1 } }

/-- A trace entry is written: the core runs, and LEVEL is 4 or the point's bit is set. -/
def traceOn (s : State) (core point : Nat) : Bool :=
  coreRuns s core && (decide (4 ≤ fld (regRaw s (aCmps 0x30)) 2 0) || bit (regRaw s (aCmps (0x40 + 8 * core))) point)

/-- A core passes a trace point. -/
def trace (core point a0 a1 : Nat) (s : State) : State := if traceOn s core point then logEntry core 4 point a0 a1 s else s

end Sys2Proof.Machine
end

