-- ==== Sys2Proof/Machine/Hbm.lean ====
section
/-!
DEFINITION. Stacked memory (chapter 10): accesses at their home caches, memory-side reduction, the cache commands, ECC of the stacks,
regulators and temperature; and the collector's contributions (R377–R384), which close entries of the same kind.
-/

namespace Sys2Proof.Machine

/-! ### Regulators (R327) -/

/-- A write of HBMC_REGp (R327): none where it is refused; the values in force stay until the next tick. -/
def regulatorWrite (k p v : Nat) (s : State) : Option State :=
  let v := Nat.land v (mask 43 32 + mask 22 16 + mask 6 0)
  let reg (q : Nat) : Nat := regRaw s (aHbmc k (0x100 + 8 * q))
  let sum := (List.range 17).foldl (fun n q => n + (if q = p then fld v 6 0 else fld (reg q) 6 0)) 0
  let old := (List.range 17).foldl (fun n q => n + fld (reg q) 6 0) 0
  if fld v 22 16 < fld v 6 0 ∨ 64 < fld v 22 16 ∨ fld v 43 32 = 0 ∨ (64 < sum ∧ old < sum) then none
  else some (modStack k (fun x => { x with old := if (tget x.old p).isSome then x.old else tput x.old p (BitVec.ofNat 64 (reg p)) })
    (regPut (aHbmc k (0x100 + 8 * p)) v s))

/-! ### Refusals and entries -/

/-- Address of register `off` of the MRU that serves an address. -/
def aMru (s : State) (a off : Nat) : Nat := aDie (homeDie s a) (0x200000 + mruUnit s a * 0x1000 + off)

/-- MRU_FAULT_LAST and COL_FAULT_LAST. -/
def faultLast (cause c : Nat) (g : BitVec 16) (a : Nat) : Nat := cause <<< 60 + c <<< 56 + g.toNat <<< 40 + fld a 39 6 <<< 6

/-- A refusal in the registers of the MRU, and of the collector (R334). -/
def mruNote (cause : Nat) (a : Acc) (s : State) : State :=
  let l := gAddr a.addr
  regCount (aMru s l 0x20) 1 (regPut (aMru s l 8) (faultLast cause a.ctx a.gen l) s)
def colNote (cause : Nat) (a : Acc) (s : State) : State :=
  regCount (aGlob 0x1200028) 1 (regPut (aGlob 0x1200008) (faultLast cause a.ctx a.gen (gAddr a.addr)) s)

/-- A request refused with a cause of Table 10-5 by the MRU. -/
def mruRefuse (cause : Nat) (a : Acc) (s : State) : State :=
  accDone a (if cause = 6 then 4 else 5) (if cause = 6 then 0 else cause) [] (mruNote cause a s)

/-- A contribution refused by the collector. -/
def colRefuse (cause : Nat) (a : Acc) (s : State) : State :=
  accDone a (if cause = 6 then 4 else 5) (if cause = 6 then 0 else cause) [] (colNote cause a s)

/-- The open entry of a line. -/
def entryOf (s : State) (l : Nat) : Option RedEntry := s.entries.find? (fun e => e.line = l)

/-- Put back an entry that was changed. -/
def putEntry (e : RedEntry) (s : State) : State :=
  { s with entries := s.entries.map (fun x => if x.line = e.line then e else x) }

/-- Open entries of the unit that serves a line. -/
def unitOpen (s : State) (l : Nat) : Nat :=
  (s.entries.filter (fun e => !e.col && homeDie s e.line == homeDie s l && mruUnit s e.line == mruUnit s l)).length

/-- The entry of a request's line, or a new one with NEXT 0. -/
def entryFor (s : State) (a : Acc) (q : RedReq) (col : Bool) : RedEntry :=
  let l := gAddr a.addr
  (entryOf s l).getD { line := l, col := col, req := q, ctx := a.ctx, gen := a.gen, next := 0, parts := [] }

/-- Device a request came from. -/
def accSource (s : State) (a : Acc) : Nat :=
  match a.origin with
  | .packet _ h _ _ => pSrc { hdr := h, pay := [] }
  | _ => ownDev s

/-- The entry with a contribution filed and NEXT advanced over what is held. -/
def entryTake (s : State) (e : RedEntry) (a : Acc) (q : RedReq) (d : List Byte) : RedEntry :=
  let parts := tput e.parts q.slot (accSource s a, q.emask, d)
  { e with parts := parts, next := redNext parts (parts.length + 1) e.next }

/-- Add an entry when its line has none. -/
def openEntry (e : RedEntry) (s : State) : State :=
  if (entryOf s e.line).isSome then putEntry e s else { s with entries := s.entries ++ [e] }

/-! ### Accesses at the home cache -/

/-- An access may be served: it is to be served here, at HBM. -/
def servable (s : State) (a : Acc) : Bool :=
  (a.stage == .todo || a.stage == .waitEntry || a.stage == .waitCopy) && gDev a.addr == ownDev s && decide (accAt a < hbmTop)

/-- Bytes of an access that lie in HBM. -/
def accHere (a : Acc) : Nat := min (accLen a) (hbmTop - gAddr a.addr)

/-- The request is a contribution to a collective window. -/
def accCollects (s : State) (a : Acc) : Bool :=
  match a.op with
  | .reduce q _ => q.seq && (colWindow s a.ctx (gAddr a.addr)).isSome
  | _ => false

/-- The partition that a request is charged to (R326): 16 for the collector, the FCE and the books. -/
def accPart (s : State) (a : Acc) : Nat :=
  match a.origin with
  | .book _ | .gather _ => 16
  | _ => if accCollects s a then 16 else a.ctx

/-- A request that waits for nothing but a token. -/
def accReady (s : State) (b : Acc) : Bool :=
  servable s b && b.stage == .todo && !earlierWrite s b && (match b.op with
    | .reduce _ _ => true
    | _ => !lineOpen s (gAddr b.addr) (accHere b))

/-- A request may be served at a line's group now: class 0 goes first, and class 1 goes by partition in turn (R326). -/
def lineTurn (s : State) (a : Acc) (l : Nat) : Bool :=
  let far (p : Nat) : Nat := (p + 17 - (tget (stackOf s (homeStack s l)).rr (homeGroup s l)).getD 0) % 17
  let meets (b : Acc) : Bool := (linesOf (gAddr b.addr) (accHere b)).any (fun m =>
    !pinned s m && homeStack s m == homeStack s l && homeGroup s m == homeGroup s l)
  decide (lineClass s l (accPart s a) ≠ 1) || s.accs.all (fun b =>
    b.id == a.id || !accReady s b || !meets b || (match lineClass s l (accPart s b) with
      | 0 => false
      | 1 => decide (far (accPart s a) ≤ far (accPart s b))
      | _ => true))

def accTurn (s : State) (a : Acc) : Bool := (linesOf (gAddr a.addr) (accHere a)).all (lineTurn s a)

/-- A request in its turn is charged and served by f, or waits. -/
def charged (a : Acc) (f : State → State) (s : State) : State :=
  if accTurn s a then
    match chargeAll (gAddr a.addr) (accHere a) (accPart s a) s with
    | some s => f s
    | none => s
  else s

/-- The tensor table and the statistics banks of a context. -/
def tensorAreas (tk : TensorKept) : List (Nat × Nat) := [(tk.addr, 64 + 128 * tk.nt), (tk.stats, 2 * (64 + 192 * tk.nt))]

/-- A software write into a tensor table or its banks leaves both with unpredictable contents (R241). -/
def spoilTensors (a n : Nat) (s : State) : State :=
  (List.range 16).foldl (fun s c =>
    match (ctxOf s c).tensors with
    | some tk =>
      if (tensorAreas tk).any (fun r => decide (r.1 < a + n ∧ a < r.1 + r.2)) then (tensorAreas tk).foldl (fun s r => freeBytes r.1 r.2 s) s
      else s
    | none => s) s

/-- The closed line is written; a poisoned line stays so where the sum started from it (R312, R482). What waited on the entry goes on. -/
def closeLine (e : RedEntry) (s : State) : State :=
  let bad := linePoisoned s e.line && !e.req.ovw
  let d := seqClose e.req (hbmRead s e.line 64) (e.parts.map (fun p => p.2.2))
  let s := spoilTensors e.line 64 (hbmWrite e.line d { s with entries := s.entries.filter (fun x => x.line ≠ e.line) })
  linesClosed (if bad then poisonLine e.line s else s)

/-- A write of an access once copy-before-write lets it (R454); one that has to wait counts once. -/
def accWrite (a : Acc) (f : State → State) (s : State) : State :=
  let x := cbw (gAddr a.addr) (accLen a) s
  if x.1 then f x.2
  else if a.stage = .waitCopy then x.2
  else setStage a.id .waitCopy (regCount (aFce 0x110) 1 x.2)

/-- A read that has bytes of its access goes on with the others, and an access to HBM that goes on in a scratchpad does so as one of tile 0's. -/
def readGoes (a : Acc) (d : List Byte) (s : State) : State :=
  { s with accs := s.accs.map (fun x => if x.id = a.id then { x with stage := .todo, op := match x.op with
    | .read m g dst q => .read m (g ++ d) dst q
    | o => o } else x) }

/-- HBM_ACCESS's effect (R24, R303, R318, R325): a read or write of HBM. -/
def hbmAccess (id : Nat) (s : State) : State :=
  match accOf s id with
  | none => s
  | some a =>
    let l := gAddr a.addr
    let n := accHere a
    if !servable s a then s
    else if !current s a.ctx a.gen then accStale a s
    else match a.op with
      | .reduce _ _ => s
      | .read _ _ _ _ =>
        if !memAvailable s l n then accDone a 4 0 [] s
        else if lineOpen s l n then setStage id .waitEntry s
        else charged a (fun s =>
          if (memPoisoned s l n).isSome then accDone a 7 0 [] s
          else if n < accLen a then readGoes a (hbmRead s l n) s
          else accDone a 0 0 (hbmRead s l n) s) s
      | .write d =>
        if !memAvailable s l n then accDone a 4 0 [] s
        else if lineOpen s l n then setStage id .waitEntry s
        else if earlierWrite s a then s
        else accWrite a (charged a (fun s => accDone a 0 0 [] (spoilTensors l n (hbmWrite l d s)))) s

/-- A sequenced request at its MRU once it may use an entry (R317). -/
def mruSequenced (a : Acc) (q : RedReq) (d : List Byte) (s : State) : State :=
  let e := entryFor s a q false
  if !redAgrees e q a.ctx a.gen then mruRefuse 3 a s
  else if q.slot < e.next ∨ e.next + 63 < q.slot ∨ q.cntM1 < q.slot then mruRefuse 1 a s
  else if (tget e.parts q.slot).isSome then mruRefuse 2 a s
  else charged a (fun s =>
    let e := entryTake s e a q d
    let s := openEntry e s
    let s := if q.cntM1 < e.next then regCount (aMru s e.line 0x10) 1 (closeLine e s) else s
    accDone a 0 0 [] s) s

/-- SEQUENCED_REDUCTION's effect: an access that is a sequenced request to a line of no collective window. -/
def sequencedReduction (id : Nat) (s : State) : State :=
  match accOf s id with
  | none => s
  | some a =>
    let l := gAddr a.addr
    match a.op with
    | .reduce q d =>
      if !servable s a || !q.seq || (colWindow s a.ctx l).isSome then s
      else if !current s a.ctx a.gen then accStale a s
      else if redBad q || decide (l % 64 ≠ 0) then mruRefuse 7 a s
      else if !memAvailable s l 64 then mruRefuse 6 a s
      else if earlierWrite s a then s
      else match entryOf s l with
        | some e => if e.col then setStage id .waitEntry s else accWrite a (mruSequenced a q d) s
        | none =>
          if 64 ≤ unitOpen s l then setStage id (.waitAlloc (homeDie s l * 20 + mruUnit s l)) s else accWrite a (mruSequenced a q d) s
    | _ => s

/-- ENTRY_ALLOCATION's effect (R319): the first request in the unit's allocation queue that can go on does, with a new entry or with that of
its line, which has opened. -/
def entryAllocation (unit : Nat) (s : State) : State :=
  match s.accs.find? (fun a => a.stage == .waitAlloc unit
      && (decide (unitOpen s (gAddr a.addr) < 64) || (entryOf s (gAddr a.addr)).isSome)) with
  | none => s
  | some a => sequencedReduction a.id (setStage a.id .todo s)

/-- UNSEQUENCED_REDUCTION's effect (R322, R378). -/
def unsequencedReduction (id : Nat) (s : State) : State :=
  match accOf s id with
  | none => s
  | some a =>
    let l := gAddr a.addr
    match a.op with
    | .reduce q d =>
      if !servable s a || q.seq then s
      else if !current s a.ctx a.gen then accStale a s
      else if redBad q || decide (l % 64 ≠ 0) || (colWindow s a.ctx l).isSome then mruRefuse 7 a s
      else if !(ctxOf s a.ctx).nondet then mruRefuse 5 a s
      else if !memAvailable s l 64 then mruRefuse 6 a s
      else if (entryOf s l).isSome then setStage id .waitEntry s
      else if earlierWrite s a then s
      else accWrite a (charged a (fun s =>
        let bad := linePoisoned s l
        let s := spoilTensors l 64 (hbmWrite l (unseqLine q (hbmRead s l 64) d) s)
        let s := if bad then poisonLine l s else s
        accDone a 0 0 [] (regCount (aMru s l 0x18) 1 s))) s
    | _ => s

/-- SEQ_TIMEOUT's effect (R320, R379): the entry of a line whose context is RUNNING is discarded; what waited on it ends with the
fault; one record is filed. -/
def seqTimeout (l : Nat) (s : State) : State :=
  match entryOf s l with
  | none => s
  | some e =>
    if (ctxOf s e.ctx).state ≠ .running then s
    else
      let s := linesClosed { s with entries := s.entries.filter (fun x => x.line ≠ l) }
      let v := faultLast 4 e.ctx e.gen l
      let s := if e.col then regCount (aGlob 0x1200028) 1 (regPut (aGlob 0x1200008) v s)
        else regCount (aMru s l 0x20) 1 (regPut (aMru s l 8) v s)
      let r := blankFault s 5 4 (if e.col then 0x24 else 0x11) (if e.col then 5 else homeDie s l)
      let s := raise (withDetail v (atAddr s l (namesCtx s e.ctx r))) s
      (s.accs.filter (fun a => a.stage == .waitEntry && gDev a.addr == ownDev s
        && decide (gAddr a.addr < l + 64 ∧ l < gAddr a.addr + accLen a))).foldl (fun s a => accDone a 5 4 [] s) s

/-! ### The collector (R379–R382) -/

/-- Device ids of the gather set of a window without this module (R381). -/
def gatherSet (s : State) (c g : Nat) : List Nat :=
  let me := ownDev s
  ((ctxOf s c).jobMap.map (·.1)).filter (fun d => decide (d ≠ me) &&
    (match g with
      | 1 => decide (d / 16 = me / 16)
      | 2 => decide (d % 16 = me % 16 ∧ d / 256 = me / 256)
      | 3 => decide (d % 256 = me % 256)
      | _ => true))

/-- Send a gather write of a line to a member at a device address, on the collective channel. -/
def gatherTo (c id l : Nat) (d : List Byte) (dev : Nat) (s : State) : State :=
  let addr := dev * 2 ^ 40 + l
  let (k, s) := addAcc (.gather id) c (ctxOf s c).gen addr (.write d) .remote s
  sendPacket (pWith (requestPacket s c 0 k (.write d) addr) 10 8 1) s

def gatherWrite (c id l : Nat) (d : List Byte) (s : State) (dev : Nat) : State := gatherTo c id l d dev s

/-- The header of CCRED for one line to a member; TAG 1 names a credit of the kept lines (DESIGN CHOICE: log entry 115). -/
def ccredHdr (kept : Bool) (x : Ctx) (dev : Nat) (e : JobEntry) : Hdr :=
  { opc := 0x11, vc := 1, dst := dev, ctx := e.ctx, gen := e.gen.toNat, rank := x.rank, cls := 2, tag := kept.toNat, op := 1 }

/-- A collector credit goes back to the source of a contribution. -/
def creditBack (kept : Bool) (c : Nat) (s : State) (dev : Nat) : State :=
  if dev = ownDev s then returnCredits kept c dev 1 s
  else match tget (ctxOf s c).jobMap dev with
    | some e => sendPacket (mkPacket s (ccredHdr kept (ctxOf s c) dev e) []) s
    | none => s

/-- A contribution is accepted: filed, applied as far as it goes, and the line closed and gathered when complete. -/
def colAccept (a : Acc) (q : RedReq) (d : List Byte) (gather : Nat) (s : State) : State :=
  let e0 := entryFor s a q true
  let e := entryTake s e0 a q d
  let s := regCount (aGlob 0x1200010) 1 (openEntry e s)
  let applied := (List.range (e.next - e0.next)).map (fun i => match tget e.parts (e0.next + i) with | some p => p.1 | none => ownDev s)
  let s := applied.foldl (creditBack false a.ctx) s
  if q.cntM1 < e.next then
    let s := regCount (aGlob 0x1200018) 1 (closeLine e s)
    let set := if gather = 0 then [] else gatherSet s a.ctx gather
    if set = [] then accDone a 0 0 [] s
    else
      let line := hbmRead s e.line 64
      set.foldl (gatherWrite a.ctx a.id e.line line) (regCount (aGlob 0x1200020) set.length (setStage a.id .closing s))
  else accDone a 0 0 [] s

/-- A line of the job's AMAX comes to context c. -/
def amaxTake (c j : Nat) (d : List Byte) (s : State) : State := modCtx c (fun x => { x with jobMax := tput x.jobMax j d }) s

/-- A contribution to kept line j of a context at rank 0 is accepted; the last one closes the line, which goes to every member (R384). -/
def amaxAccept (a : Acc) (q : RedReq) (d : List Byte) (j : Nat) (s : State) : State :=
  let e0 := entryFor s a q true
  let e := entryTake s e0 a q d
  let s := regCount (aGlob 0x1200010) 1 (openEntry e s)
  let s := ((List.range (e.next - e0.next)).map (fun i => match tget e.parts (e0.next + i) with | some p => p.1 | none => ownDev s)).foldl
    (creditBack true a.ctx) s
  if q.cntM1 < e.next then
    let line := seqClose e.req [] (e.parts.map (fun p => p.2.2))
    let s := amaxTake a.ctx j line (regCount (aGlob 0x1200018) 1 { s with entries := s.entries.filter (fun x => x.line ≠ e.line) })
    let others := (ctxOf s a.ctx).jobMap.filter (fun m => m.1 ≠ ownDev s)
    if others = [] then accDone a 0 0 [] s
    else others.foldl (fun s m => gatherTo a.ctx a.id (aAmax m.2.ctx j) line m.1 s)
      (regCount (aGlob 0x1200020) others.length (setStage a.id .closing s))
  else accDone a 0 0 [] s

/-- A contribution to kept line j: refused as others are (R379), else accepted. -/
def amaxContribution (a : Acc) (q : RedReq) (d : List Byte) (j : Nat) (s : State) : State :=
  if redBad q then colRefuse 7 a s
  else if earlierWrite s a then s
  else if !redAgrees (entryFor s a q true) q a.ctx a.gen then colRefuse 3 a s
  else if q.cntM1 < q.slot then colRefuse 1 a s
  else if (tget (entryFor s a q true).parts q.slot).isSome then colRefuse 2 a s
  else amaxAccept a q d j s

/-- CONTRIBUTION's effect (R378–R380, R384). -/
def contribution (id : Nat) (s : State) : State :=
  match accOf s id with
  | none => s
  | some a =>
    let l := gAddr a.addr
    match amaxLine a.ctx l, a.op with
    | some j, .reduce q d =>
      if a.stage ≠ .todo ∨ gDev a.addr ≠ ownDev s then s
      else if !current s a.ctx a.gen then accStale a s
      else amaxContribution a q d j s
    | _, _ =>
    match a.op, colWindow s a.ctx l with
    | .reduce q d, some g =>
      if !servable s a || !q.seq then s
      else if !current s a.ctx a.gen then accStale a s
      else if redBad q || decide (l % 64 ≠ 0) || decide (colSlice s a.ctx = 0) then colRefuse 7 a s
      else if !memAvailable s l 64 then colRefuse 6 a s
      else if earlierWrite s a then s
      else match entryOf s l with
        | some e =>
          if !e.col then setStage id .waitEntry s
          else if !redAgrees e q a.ctx a.gen then colRefuse 3 a s
          else if q.cntM1 < q.slot then colRefuse 1 a s
          else if (tget e.parts q.slot).isSome then colRefuse 2 a s
          else accWrite a (charged a (colAccept a q d g)) s
        | none => if q.cntM1 < q.slot then colRefuse 1 a s else accWrite a (charged a (colAccept a q d g)) s
    | _, _ => s

/-- COL_Cc_HELD: lines staged and not applied. -/
def colHeldView (s : State) (c : Nat) : Nat :=
  s.entries.foldl (fun n e => if e.col && e.ctx == c then n + (e.parts.filter (fun p => decide (e.next ≤ p.1))).length else n) 0

/-- MRU_STATUS of unit u of a die: open entries and the allocation queue. -/
def mruStatusView (s : State) (d u : Nat) : Nat :=
  (s.entries.filter (fun e => !e.col && homeDie s e.line == d && mruUnit s e.line == u)).length
    + (s.accs.filter (fun a => a.stage == .waitAlloc (d * 20 + u))).length <<< 16

/-! ### ECC of the stacks (R311–R314) -/

/-- A stack enters QUARANTINED with a cause, unless it already is (R329). -/
def quarantine (k cause : Nat) (s : State) : State :=
  if stackState s k = 3 then s
  else trace 2 2 k cause (atlCount 0x54 1 (regMod (aHbmc k 0) (fun v => setFld (setFld v 1 0 3) 7 4 cause) s))

/-- The context whose valid range holds an address (R477). -/
def rangeCtx (s : State) (a : Nat) : Option Nat :=
  (List.range 16).find? (fun c => decide ((ctxOf s c).state ≠ .free) && inPartition s c a 1)

/-- A record at an HBM line with no agent. -/
def lineFault (s : State) (cls code unit a : Nat) : FaultRec :=
  let r := atAddr s a (blankFault s cls code unit (homeDie s a))
  match rangeCtx s a with
  | some c => namesCtx s c r
  | none => r

/-- HBMC_ECC_LAST. -/
def eccLast (s : State) (a kind conn : Nat) : Nat :=
  let (_, ch, pc, off) := hbmMap s a
  kind <<< 62 + conn <<< 56 + (ch * 2 + pc) <<< 50 + fld off 29 6 <<< 6

/-- Connection conn of pseudo-channel p of stack k is marked erased. -/
def markErased (k p conn : Nat) (s : State) : State :=
  trace 2 1 (k + p <<< 8) conn (regFld (aHbmc k (0x40 + 8 * (p / 8))) (8 * (p % 8) + 7) (8 * (p % 8)) (128 + conn) s)

/-- Corrected errors of a connection: beyond the Legend threshold the memory manager marks it erased, when it runs (Table 16-13); a second
bad connection beside an erased one quarantines the stack (R314). -/
def connError (a conn : Nat) (s : State) : State :=
  let (k, ch, pc, _) := hbmMap s a
  let p := ch * 2 + pc
  let er := aHbmc k (0x40 + 8 * (p / 8))
  let b := fld (regRaw s er) (8 * (p % 8) + 7) (8 * (p % 8))
  let key := p * 64 + conn
  let n := (tget (stackOf s k).corrected key).getD 0 + 1
  let s := modStack k (fun x => { x with corrected := tput x.corrected key n }) s
  if bit b 7 then (if fld b 5 0 = conn then s else quarantine k 3 s)
  else if s.legend.erase < n ∧ coreRuns s 2 = true then markErased k p conn s
  else s

/-- How a line with an erased connection, or none, decodes (R312): nothing in error; corrected at a connection; uncorrectable; or, with four
symbols or more in error, either of what a code that cannot tell gives (DESIGN CHOICE: log entry 110). -/
inductive Decoded where
  | clean
  | corrected (conn : Nat)
  | bad
  | open
  deriving DecidableEq, Repr

def rsDecode (erased : Option Nat) (conns : List Nat) : Decoded :=
  let far := conns.filter (fun c => some c != erased)
  if 4 ≤ conns.length then .open
  else match erased, far, conns with
    | _, [], [] => .clean
    | _, [], c :: _ => .corrected c
    | some _, [c], _ => .corrected c
    | none, [c], _ => .corrected c
    | _, _, _ => .bad

/-- The connection of a line's pseudo-channel that is marked erased (R314). -/
def erasedOf (s : State) (a : Nat) : Option Nat :=
  let (k, ch, pc, _) := hbmMap s a
  let p := ch * 2 + pc
  let b := fld (regRaw s (aHbmc k (0x40 + 8 * (p / 8)))) (8 * (p % 8) + 7) (8 * (p % 8))
  if bit b 7 then some (fld b 5 0) else none

/-- A symbol error on another connection beside an erased one quarantines the stack, whatever the line decodes to (R314). -/
def secondConn (l : Nat) (conns : List Nat) (s : State) : State :=
  match erasedOf s l with
  | some e => if conns.any (fun c => c != e) then quarantine (homeStack s l) 3 s else s
  | none => s

/-- An error of the cache arrays in a line (R310): a clean one is read again from its stack; a dirty or a pinned one, which no stack holds, is
poisoned, with a record. -/
def cacheError (l : Nat) (s : State) : State :=
  let s := atlCacheUe (homeDie s l) (regCount (aDie (homeDie s l) 0x100048) 1 s)
  if pinned s l || s.dirty.contains l then raise (withDetail 0 (lineFault s 3 4 0x10 l)) (poisonLine l s) else s

/-- A line of a READY stack is read and decoded (R312, R313), or its cached copy shows an error (R310). -/
def lineDecode (a : Nat) (o : LineOutcome) (s : State) : State :=
  let l := lineOf a
  let k := homeStack s l
  let ue (kind : Nat) (s : State) : State :=
    let v := eccLast s l kind 0
    let s := atlHbmUe k (regCount (aHbmc k 0x208) 1 (regPut (aHbmc k 0x80) v { s with poison := sinsert l s.poison }))
    raise (withDetail (v + (k % 5) <<< 64) (lineFault s 3 5 0x12 l)) s
  match o with
  | .cacheCe => atlCacheCe (homeDie s l) (regCount (aDie (homeDie s l) 0x100040) 1 s)
  | .cacheUe => cacheError l s
  | .onDie n => if pinned s l || decide (stackState s k ≠ 1) then s else atlOnDie k n (regCount (aHbmc k 0x210) n s)
  | .symbols conns =>
    if pinned s l || decide (stackState s k ≠ 1) then s
    else if s.poison.contains l then ue 3 s
    else
      let (free, s1) := freeBits 1 s
      match rsDecode (erasedOf s l) conns with
      | .clean => s
      | .corrected c =>
        let s := regCount (aHbmc k 0x200) 1 (regPut (aHbmc k 0x80) (eccLast s l 1 c) { s with dirty := sinsert l s.dirty })
        connError l c (atlHbmCe k s)
      | .bad => secondConn l conns (ue 2 s)
      | .open => secondConn l conns (if free = 0 then ue 2 s1 else freeBytes l 64 s1)

/-! ### Cache commands and pinning (R309, R323, R324, R331) -/

def aSc (d off : Nat) : Nat := aDie d (0x100000 + off)

/-- A write of SCACHE_CMD: a result at once, or the command in progress. -/
def scacheCmdWrite (d v : Nat) (s : State) : State :=
  let op := fld v 3 0
  let res (r : Nat) (s : State) : State := regFld (aSc d 0) 11 8 r s
  let base := regRaw s (aSc d 8)
  let top := regRaw s (aSc d 0x10) + 0x200000
  if bit (regRaw s (aSc d 0)) 4 then res 3 s
  else if op = 1 then regFld (aSc d 0) 4 4 1 { s with scacheOp := tput s.scacheOp d (0, 0) }
  else if op = 2 then
    if top ≤ base ∨ hbmTop < top ∨ (List.range 16).any (fun c => decide ((ctxOf s c).state ≠ .free)
        && (ctxRanges s c).any (fun r => decide (r.1 < top ∧ base ≤ r.2))) then res 1 s
    else if (List.range 5).any (fun i => decide (stackState s (5 * d + i) ≠ 1)) then res 2 s
    else regFld (aSc d 0) 4 4 1 { s with scacheOp := tput s.scacheOp d (base, top) }
  else res 1 s

/-- The FLUSH or CLEAR in progress ends: CLEAR writes zero to every line of the range it began with, a pinned one in the cache (R323, R336). -/
def scacheCmdComplete (d : Nat) (s : State) : State :=
  match tget s.scacheOp d with
  | none => s
  | some (base, top) =>
    let hit (pin : Bool) (a : Nat) : Bool := decide (base ≤ a ∧ a < top) && homeDie s a == d && pinned s a == pin
    let s' := if top = 0 then { s with dirty := s.dirty.filter (fun l => homeDie s l ≠ d) }
      else { s with
        hbm := s.hbm.filter (fun p => !hit false p.1)
        dirty := s.dirty.filter (fun l => !hit false l)
        poison := s.poison.filter (fun l => !hit false l)
        pin := s.pin.filter (fun p => !hit true p.1)
        pinPoison := s.pinPoison.filter (fun l => !hit true l) }
    regMod (aSc d 0) (fun v => setFld (setFld v 4 4 0) 11 8 0) { s' with scacheOp := tdel s.scacheOp d }

/-- Dirty lines that a pinned range discards: their bytes in the stack, and whether they are poisoned there, are not known (DESIGN CHOICE: log
entry 23). A poisoned line that was not dirty is poisoned in its stack and stays so (R312). -/
def loseDirty (d b n : Nat) (s : State) : State :=
  let ls := s.dirty.filter (fun l => decide (b ≤ l ∧ l < b + n) && homeDie s l == d)
  let base := s.free
  let bytes := ls.flatMap (fun l => (List.range 64).map (fun i => l + i))
  let s := { s with
    free := base + bytes.length
    hbm := (bytes.zip (List.range bytes.length)).foldl (fun m p =>
      tset unwritten m p.1 (BitVec.ofNat 8 (Config.freeNat (base + p.2)))) s.hbm
    dirty := s.dirty.filter (fun l => !ls.contains l) }
  ls.foldl (fun s l =>
    let (f, s) := freeBits 1 s
    { s with poison := if f = 1 then sinsert l s.poison else sremove l s.poison }) s

/-- Nothing of die d is pinned: what the cache held for its range is discarded (R324). -/
def dropPins (d : Nat) (s : State) : State :=
  { s with pin := s.pin.filter (fun p => homeDie s p.1 ≠ d), pinPoison := s.pinPoison.filter (fun l => homeDie s l ≠ d)
           pinBase := tdel s.pinBase d }

/-- A write of SCACHE_PIN_CTL (R323, R324): none where it is refused. -/
def pinCtlWrite (d v : Nat) (s : State) : Option State :=
  let a := aSc d 0x20
  let v := Nat.land v 0x107
  let cur := regRaw s a
  let b := regRaw s (aSc d 0x18)
  let n := (fld v 2 0 + 1) * 0x200000
  if bit cur 8 then
    if fld v 2 0 ≠ fld cur 2 0 then none
    else if bit v 8 then some s
    else some (regPut a v (dropPins d s))
  else if bit v 8 then
    let ok := decide (b + n ≤ hbmTop) && (s.legend.uniform || decide (b / 0x3C00000000 = d ∧ (b + n - 1) / 0x3C00000000 = d))
      && (List.range 16).all (fun c => decide ((ctxOf s c).state = .free)
        || (ctxRanges s c).all (fun r => decide (b + n ≤ r.1 ∨ r.2 < b)))
      && s.accs.all (fun x => decide (gDev x.addr ≠ ownDev s ∨ gAddr x.addr + accLen x ≤ b ∨ b + n ≤ gAddr x.addr))
    if ok then some (regPut a v (let s := loseDirty d b n (dropPins d s); { s with pinBase := tput s.pinBase d b })) else none
  else some (regPut a v s)

/-! ### Temperature (R329, R330) -/

/-- Idle slots per 64 the Legend curve gives. -/
def curveIdle (curve : List (Nat × Nat)) (p : Nat) : Nat := curve.foldl (fun n x => if x.1 ≤ p then x.2 else n) 0

/-- TEMPERATURE_REPORT's effect, in any state of the stack; the projection uses reports since it last entered READY. One beyond the field's
width reads a free value (DESIGN CHOICE: log entry 20). -/
def temperatureReport (k temp : Nat) (s : State) : State :=
    let ts := if stackState s k = 1 then (stackOf s k).temps else []
    let p := match ts[3]? with | some t4 => temp + (temp - t4) | none => temp
    let s := if stackState s k = 1 then modStack k (fun x => { x with temps := (temp :: x.temps).take 4 }) s else s
    let hard := decide (s.legend.tHard ≤ temp)
    let idle := let i := curveIdle s.legend.curve p; if hard then max i s.legend.hardIdle else i
    let (proj, s) := if p < 256 then (p, s) else freeBits 8 s
    let old := fld (regRaw s (aHbmc k 8)) 22 16
    let s := if idle = old then s else trace 2 0 k idle s
    let s := regPut (aHbmc k 8) (temp % 256 + proj <<< 8 + idle <<< 16 + hard.toNat <<< 24) s
    if s.legend.tCrit ≤ temp then
      raise (withDetail (regRaw s (aHbmc k 0x80) + (k % 5) <<< 64) (blankFault s 10 1 0x12 (k / 5))) (quarantine k 2 s)
    else s

/-- A stack's interface reports a fault: quarantine, and the fatal error (R329, Table 15-4). -/
def stackInterfaceFault (k : Nat) (s : State) : State :=
  raise (withDetail (regRaw s (aHbmc k 0x80) + (k % 5) <<< 64) (blankFault s 10 2 0x12 (k / 5))) (quarantine k 4 s)

/-! ### The commands -/

/-- HBM_ACCESS. -/
def execHbmAccess (id : Nat) (s : State) : Host.Outcome State Fault Refusal := act true s (hbmAccess id)
/-- LINE_DECODE. -/
def execLineDecode (addr : Nat) (outcome : LineOutcome) (s : State) : Host.Outcome State Fault Refusal :=
  act (decide (addr < 0xF000000000)) s (lineDecode addr outcome)
/-- SEQUENCED_REDUCTION. -/
def execSequencedReduction (id : Nat) (s : State) : Host.Outcome State Fault Refusal := act true s (sequencedReduction id)
/-- UNSEQUENCED_REDUCTION. -/
def execUnsequencedReduction (id : Nat) (s : State) : Host.Outcome State Fault Refusal := act true s (unsequencedReduction id)
/-- ENTRY_ALLOCATION. -/
def execEntryAllocation (unit : Nat) (s : State) : Host.Outcome State Fault Refusal := act (decide (unit < 80)) s (entryAllocation unit)
/-- SEQ_TIMEOUT. -/
def execSeqTimeout (line : Nat) (s : State) : Host.Outcome State Fault Refusal := act (decide (line < 0xF000000000)) s (seqTimeout line)
/-- SCACHE_CMD_COMPLETE. -/
def execScacheCmdComplete (die : Nat) (s : State) : Host.Outcome State Fault Refusal := act (dieOk die) s (scacheCmdComplete die)
/-- SCRUB. -/
def execScrub (addr : Nat) (outcome : LineOutcome) (s : State) : Host.Outcome State Fault Refusal :=
  act (decide (addr < 0xF000000000)) s (lineDecode addr outcome)
/-- TEMPERATURE_REPORT. -/
def execTemperatureReport (stack temp : Nat) (s : State) : Host.Outcome State Fault Refusal :=
  act (stackOk stack && decide (temp < 256)) s (temperatureReport stack temp)
/-- STACK_INTERFACE_FAULT. -/
def execStackInterfaceFault (stack : Nat) (s : State) : Host.Outcome State Fault Refusal :=
  act (stackOk stack) s (stackInterfaceFault stack)
/-- CONTRIBUTION. -/
def execContribution (id : Nat) (s : State) : Host.Outcome State Fault Refusal := act true s (contribution id)

end Sys2Proof.Machine
end

