-- ==== Sys2Proof/Machine/Scratchpad.lean ====
section
/-!
DEFINITION. The scratchpad's ports in one cycle (chapter 9): what stands at each, which agent XFER serves, what is lost and what is granted;
the survey walk's place. Machine/Arbitration.lean performs the cycle.
-/

namespace Sys2Proof.Machine

/-- Offset and length of a request. -/
def reqSpan : PortReq → Nat × Nat
  | .write o d => (o, d.length)
  | .read o n => (o, n)

def reqWrites : PortReq → Bool
  | .write _ _ => true
  | .read _ _ => false

/-- An access of the scratchpad, and one that is a single request (R282): at most four lines. -/
def accessOk (r : PortReq) : Bool := let (o, n) := reqSpan r; decide (0 < n ∧ o + n ≤ spdSize)
def reqOk (r : PortReq) : Bool := accessOk r && decide ((linesOf (reqSpan r).1 (reqSpan r).2).length ≤ 4)

/-- The requests an access takes (R282): one for each four of its lines. -/
def cutReqs (r : PortReq) : List PortReq :=
  let (o, n) := reqSpan r
  (List.range (((linesOf o n).length + 3) / 4)).map (fun k =>
    let a := max o ((o / 64 + 4 * k) * 64)
    let b := min (o + n) ((o / 64 + 4 * k + 4) * 64)
    match r with
    | .write _ d => .write a ((d.drop (a - o)).take (b - a))
    | .read _ _ => .read a (b - a))

/-- Banks a request takes. -/
def reqBanks (r : PortReq) : List Nat := let (o, n) := reqSpan r; (linesOf o n).map bankOf

/-- Aligned 64-bit words of a request, by word number. -/
def reqWords (r : PortReq) : List Nat := let (o, n) := reqSpan r; (List.range ((o + n - 1) / 8 + 1 - o / 8)).map (fun i => o / 8 + i)

/-- Index of an XFER agent in the order of R283. -/
def agentNo : XferAgent → Nat
  | .dump => 0
  | .st n => if n = 0 then 1 else 2
  | .cpy => 3
  | .inbound => 4

/-- What stands at a port: the request it presents again, or the first of a new access (R282, R284). -/
def standing (tl : Tile) (key : Nat) (r : Option PortReq) : Option PortHeld :=
  match tget tl.ports.reqs key, r with
  | some h, _ => some h
  | none, some r => if accessOk r then (match cutReqs r with | q :: l => some ⟨q, l, [], false⟩ | [] => none) else none
  | none, none => none

/-- What stands at the agents of XFER, in the order of R283, as (agent, request). -/
def xferStanding (tl : Tile) (l : List (XferAgent × PortReq)) : List (Nat × PortHeld) :=
  (List.range 5).filterMap (fun k =>
    (standing tl (3 + k) ((l.find? (fun a => agentNo a.1 == k)).map (·.2))).map (fun h => (k, h)))

/-- The agent XFER serves (R283): the one whose request stalled; the dump engine; one passed over 15 times; the fixed order. -/
def xferPick (tl : Tile) (l : List (Nat × PortHeld)) : Option (Nat × PortHeld) :=
  match l.find? (fun a => some a.1 == tl.ports.lock) with
  | some a => some a
  | none => match l.find? (fun a => a.1 == 0) with
    | some a => some a
    | none => match l.find? (fun a => decide (15 ≤ (tget tl.passed a.1).getD 0)) with
      | some a => some a
      | none => l.head?

/-- Passed-over counts after a cycle. -/
def xferPassed (tl : Tile) (l : List (Nat × PortHeld)) (pick : Nat) : Tab Nat :=
  l.foldl (fun t a => if a.1 = pick then tset 0 t a.1 0 else tset 0 t a.1 ((tget tl.passed a.1).getD 0 + 1)) tl.passed

/-- Words a request still writes or reads: those it has not lost. -/
def heldWords (h : PortHeld) : List Nat := (reqWords h.req).filter (fun w => !h.lost.contains w)

/-- Words a port loses to a port of higher priority that writes them (R287). -/
def lostWords (rs : List (Nat × PortHeld)) (p : Nat) (h : PortHeld) : List Nat :=
  if reqWrites h.req then
    (heldWords h).filter (fun w => rs.any (fun q => decide (q.1 < p) && reqWrites q.2.req && (heldWords q.2).contains w))
  else []

/-- A request covers a word whole. -/
def coversWord (h : PortHeld) (w : Nat) : Bool :=
  let (o, n) := reqSpan h.req
  decide (o ≤ w * 8 ∧ w * 8 + 8 ≤ o + n)

/-- The ports granted (R284): the walk's banks and those in the second cycle of a partial write are taken; aged ports first, each whole
or not at all. -/
def grants (tl : Tile) (taken : List Nat) (rs : List (Nat × PortHeld)) : List Nat :=
  let aged (p : Nat × PortHeld) : Bool := decide (15 ≤ (tget tl.age p.1).getD 0)
  let order := rs.filter aged ++ rs.filter (fun p => !aged p)
  (order.foldl (fun (x : List Nat × List Nat) p =>
    if (reqBanks p.2.req).any x.1.contains then x else (x.1 ++ reqBanks p.2.req, x.2 ++ [p.1])) (taken, [])).2

/-- Banks that a granted write needs in the next cycle too (R282): those of the words it covers in part. -/
def partialBanks (h : PortHeld) : List Nat :=
  if reqWrites h.req then ((heldWords h).filter (fun w => !coversWord h w)).map (fun w => bankOf (w * 8)) else []

/-- A port write of a request without its lost words; whole words lose their error, a part leaves it (R291, R292); a pending write-back
of a written word is cancelled (R290). -/
def portWrite (t : Nat) (lost : List Nat) (o : Nat) (d : List Byte) (s : State) : State :=
  let bad := (tileOf s t).eccBad
  let s := (d.zip (List.range d.length)).foldl (fun s b =>
    if lost.contains ((o + b.2) / 8) then s else { s with spd := tset unwritten s.spd (t * spdSize + o + b.2) b.1 }) s
  let whole (w : Nat) : Bool := decide (o ≤ w * 8 ∧ w * 8 + 8 ≤ o + d.length) && !lost.contains w
  let hit (w : Nat) : Bool := (reqWords (.write o d)).contains w && !lost.contains w
  let s := if bad = [] then s else modTile t (fun x => { x with eccBad := bad.filter (fun w => !whole w) }) s
  modTile t (fun x => { x with wbPend := x.wbPend.filter (fun p => !hit (p.2 / 8)) }) s

/-- An access of another tile or module that this request of the inbound agent would serve. -/
def inboundFits (s : State) (t : Nat) (r : PortReq) (a : Acc) : Bool :=
  a.stage == .todo && gDev a.addr == ownDev s && (spdOf (accAt a)).map (·.1) == some t
    && (match r, a.op with
      | .write o d, .write e => decide (gAddr a.addr = spdAddr t o) && d.isPrefixOf e
      | .read o n, .read m g _ _ => decide (accAt a = spdAddr t o ∧ g.length + n ≤ m)
      | _, _ => false)

/-- The first access that waits for the request, and for no earlier write of its engine to the line (R344). -/
def inboundAcc (s : State) (t : Nat) (r : PortReq) : Option Acc := s.accs.find? (fun a => inboundFits s t r a && !earlierWrite s a)

/-- The request is of an access whose turn has not come (R344). -/
def inboundEarly (s : State) (t : Nat) (r : PortReq) : Bool := (inboundAcc s t r).isNone && s.accs.any (inboundFits s t r)

/-- The survey walk is running on the tile (R295). -/
def surveyActive (s : State) (t : Nat) : Bool :=
  bit (regRaw s (aSpd t 0x100)) 0 && (match tileCtx s t with | none => true | some c => (ctxOf s c).nondet)

/-- Region the walk tests next, and its banks (R296). -/
def surveyNext (s : State) (t : Nat) : Nat := fld (regRaw s (aSpd t 0x108)) 13 0
def surveyBanks (s : State) (t : Nat) : List Nat := (List.range 8).map (fun k => 8 * (surveyNext s t % 4) + k)

/-- A region step is in progress on some tile of a mask (R298). -/
def walkIn (s : State) (tiles : Nat) : Bool := (setBits tiles 128).any (fun t => decide ((tileOf s t).ports.walk ≠ 0))

/-- SPD_STATUS as it reads. -/
def spdStatusView (s : State) (t : Nat) : Nat := setBit (regRaw s (aSpd t 0)) 11 (surveyActive s t)

end Sys2Proof.Machine
end

