-- ==== Sys2Proof/Machine/Crc.lean ====
section
/-!
DEFINITION. CRC-32C (R74): Castagnoli polynomial 0x1EDC6F41, reflected, initial value and final XOR of all ones.
-/

namespace Sys2Proof.Machine

/-- The polynomial with its bits reflected. -/
def crcPoly : BitVec 32 := 0x82F63B78

/-- One bit of the reflected division. -/
def crcBit (c : BitVec 32) : BitVec 32 := if c.getLsbD 0 then (c >>> 1) ^^^ crcPoly else c >>> 1

/-- n bits. -/
def crcBits : Nat → BitVec 32 → BitVec 32
  | 0, c => c
  | n + 1, c => crcBits n (crcBit c)

/-- The remainder after further bytes. -/
def crcAcc : List Byte → BitVec 32 → BitVec 32
  | [], c => c
  | b :: r, c => crcAcc r (crcBits 8 (c ^^^ b.zeroExtend 32))

/-- CRC-32C of bytes. -/
def crc32c (d : List Byte) : BitVec 32 := crcAcc d 0xFFFFFFFF ^^^ 0xFFFFFFFF

end Sys2Proof.Machine
end

