-- ==== Sys2Proof/Machine/Image.lean ====
section
/-!
DEFINITION. Schedule images (R74–R76, R80, R238–R240) and the job map (R61, R62): the checks of LOAD and what a load does.
-/

namespace Sys2Proof.Machine

/-- How a check fails: its result code (Table 2-2), and the class, code and address of a record where a line could not be read. -/
structure LoadErr where
  code : Nat
  line : Option (Nat × Nat × Nat)
  deriving DecidableEq, Repr

/-- Fail with a result code. -/
def failWith {α : Type} (code : Nat) : Except LoadErr α := .error { code := code, line := none }

/-- A condition, or failure with a code. -/
def need (code : Nat) (b : Bool) : Except LoadErr Unit := if b then .ok () else failWith code

/-- Read n bytes of the partition as LOAD does: an unavailable stack or a poisoned line fails (R76). -/
def loadRead (s : State) (code a n : Nat) : Except LoadErr (List Byte) :=
  if !memAvailable s a n then .error { code := code, line := some (5, 6, a) }
  else match memPoisoned s a n with
    | some l => .error { code := code, line := some (3, 6, l) }
    | none => .ok (hbmRead s a n)

/-- Bits [hi:lo] of structure bytes. -/
def bfld (d : List Byte) (hi lo : Nat) : Nat := fld (ofBytes d) hi lo

/-- A section entry (Table 2-14). -/
structure Section where
  addr : Nat
  len  : Nat
  off  : Nat
  tile : Nat
  type : Nat
  deriving DecidableEq, Repr

/-- Entry i of the section table. -/
def sectionAt (img : List Byte) (i : Nat) : Section :=
  let e := ofBytes ((img.drop (256 + 32 * i)).take 32)
  { addr := fld e 199 160, len := fld e 159 96, off := fld e 95 32, tile := fld e 14 8, type := fld e 7 0 }

/-- Bytes of a section. -/
def sectionBytes (img : List Byte) (x : Section) : List Byte := (img.drop x.off).take x.len

/-- Bytes lie in a tile's scratchpad, as device addresses. -/
def inScratch (t a n : Nat) : Bool := decide (spdAddr t 0 ≤ a ∧ a + n ≤ spdAddr t 0 + spdSize)

/-- Placement of a section (Table 2-15, R75, R198). -/
def sectionPlaced (s : State) (c : Nat) (x : Section) : Bool :=
  let tile := bit (ctxTiles s c) x.tile
  match x.type with
  | 3 => tile && decide (x.addr = 0 ∧ x.len ≤ 65536 ∧ x.len % 8 = 0)
  | 8 => decide (x.addr + x.len ≤ hbmTop) && inPartition s c x.addr (max 1 x.len)
  | 9 => decide (x.addr = 0)
  | 10 => decide (x.addr + x.len ≤ hbmTop) && inPartition s c x.addr (max 1 x.len)
  | t =>
    decide (1 ≤ t ∧ t ≤ 7) && tile && inScratch x.tile x.addr x.len
      && (!decide (t = 4 ∨ t = 5) || decide (x.addr % 64 = 0)) && (!decide (t = 6) || decide (x.addr % 32 = 0))

/-- Two sections overlap at their load addresses; microcode of one tile always starts at index 0. -/
def sectionsMeet (x y : Section) : Bool :=
  if x.type = 9 ∨ y.type = 9 then false
  else if x.type = 3 ∨ y.type = 3 then x.type == y.type && x.tile == y.tile && decide (0 < x.len ∧ 0 < y.len)
  else overlap x.addr x.len y.addr y.len

/-- No two elements of a list are related. -/
def noPair {α : Type} (r : α → α → Bool) : List α → Bool
  | [] => true
  | x :: l => l.all (fun y => !r x y) && noPair r l

/-! ### The tensor table (R238, R239) -/

/-- A tensor table entry is well formed (Table 7-3); the live fields are LOAD's. -/
def tensorEntryOk (e : Nat) : Bool :=
  let k := fld e 3 0
  fld e 511 128 == 0 && fld e 63 53 == 0 && fld e 47 45 == 0 && fld e 15 14 == 0 && fld e 10 10 == 0 && decide (fld e 44 40 ≤ 16)
    && decide (k ≤ 2)
    && (if k = 1 then decide (fld e 7 4 ≤ 2) else fld e 7 4 == 0 && fld e 13 11 == 0)
    && (if k = 2 then decide (-126 ≤ sgn 8 (fld e 31 24) ∧ sgn 8 (fld e 31 24) ≤ 126) else fld e 31 24 == 0)

/-- Entry i of a table's bytes. -/
def tensorEntry (d : List Byte) (i : Nat) : Nat := ofBytes ((d.drop (64 + 128 * i)).take 128)

/-- A tensor table section as CTX keeps it, if it is valid. -/
def tensorTable (s : State) (c a : Nat) (d : List Byte) : Option TensorKept :=
  let h := ofBytes (d.take 64)
  let nt := fld h 60 48
  let st := fld h 103 64
  let ids := List.range nt
  let priv := ids.filter (fun i => bit (tensorEntry d i) 8)
  if decide (64 ≤ d.length) && fld h 31 0 == 0x534E544B && fld h 47 32 == 1 && fld h 63 61 == 0 && fld h 511 112 == 0
      && decide (1 ≤ nt ∧ nt ≤ 4096 ∧ d.length = 64 + 128 * nt ∧ st % 64 = 0)
      && ids.all (fun i => tensorEntryOk (tensorEntry d i)) && decide (priv.length ≤ 64)
      && decide (st + 2 * (64 + 192 * nt) ≤ hbmTop) && inPartition s c st (2 * (64 + 192 * nt)) then
    some { addr := a, nt := nt, stats := st, ut := sgn 8 (fld h 111 104), priv := priv }
  else none

/-! ### Waypoint tables (R79, R80) -/

/-- A kind's code (Table 2-18). -/
def wpKind (k : Nat) : Option WpKind :=
  match k with
  | 0 => some .loc | 1 => some .job | 2 => some .stepBegin | 3 => some .commit | 4 => some .mbOpen | 5 => some .mbClose | 6 => some .fin
  | _ => none

/-- A waypoint table entry (Table 2-17). -/
def wpEntry (d : List Byte) : Option WpEntry :=
  let e := ofBytes d
  (wpKind (fld e 3 0)).map (fun k => { kind := k, mbi := fld e 31 16, slack := fld e 63 32, offset := fld e 127 64 })

/-- Entries of a table; none when a kind is reserved. -/
def wpTable : Nat → List Byte → Option (List WpEntry)
  | 0, _ => some []
  | n + 1, d =>
    match wpEntry (d.take 32), wpTable n (d.drop 32) with
    | some e, some r => some (e :: r)
    | _, _ => none

/-- A waypoint table obeys R80. -/
def wpsOk (l : List WpEntry) : Bool :=
  let count (k : WpKind) : Nat := (l.filter (fun e => e.kind == k)).length
  let mb (e : WpEntry) : Bool := e.kind == .mbOpen || e.kind == .mbClose
  match wpFind l .stepBegin, wpFind l .commit with
  | some b, some c =>
    count .stepBegin == 1 && count .commit == 1 && decide (b < c) && count .fin == 1 && (l.getLast?.map (·.kind) == some .fin)
      && (List.range l.length).all (fun i => match l[i]? with
          | some e => if mb e then decide (b < i ∧ i < c) else e.mbi == 0
          | none => true)
      && ((l.filter (fun e => e.kind == .mbOpen)).map (·.mbi) == List.range (count .mbOpen))
      && count .mbClose == count .mbOpen
      && (List.range (count .mbOpen)).all (fun i =>
          match l.findIdx? (fun e => e.kind == .mbOpen && e.mbi == i), l.findIdx? (fun e => e.kind == .mbClose && e.mbi == i) with
          | some o, some k => decide (o < k)
          | _, _ => false)
  | _, _ => false

/-! ### The job map (R61, R62) -/

/-- Members of a job map of 4,096 entries. -/
def jobMembers (d : List Byte) : Tab JobEntry :=
  (List.range 4096).filterMap (fun i =>
    let e := ofBytes ((d.drop (8 * i)).take 8)
    if bit e 0 then some (i, { rank := fld e 35 24, gen := BitVec.ofNat 16 (fld e 23 8), ctx := fld e 7 4 }) else none)

/-- The job map of context c, checked (R62). -/
def readJobMap (s : State) (c members : Nat) : Except LoadErr (Tab JobEntry × Nat) := do
  let a := regRaw s (aCtx c 0x60)
  need 8 (decide (a % 64 = 0 ∧ a + 32768 ≤ hbmTop) && inPartition s c a 32768)
  let d ← loadRead s 8 a 32768
  let m := jobMembers d
  need 8 (m.length == members)
  need 8 ((List.range members).all (fun r => (m.filter (fun e => e.2.rank = r)).length == 1))
  match tget m (ownDev s) with
  | some e => do
    need 8 (e.ctx == c && e.gen == (ctxOf s c).gen)
    pure (m, e.rank)
  | none => failWith 8

/-! ### The load (Table 2-16) -/

/-- What a successful check has found. -/
structure Loaded where
  img      : List Byte
  sections : List Section
  members  : Nat
  mb       : Nat
  wps      : List WpEntry
  tensors  : Option TensorKept
  jobMap   : Tab JobEntry
  rank     : Nat
  deriving DecidableEq, Repr

/-- Reserved bits of the header are zero (Table 2-13). -/
def headerReserved (h : Nat) : Bool := fld h 2047 480 == 0 && fld h 383 376 == 0 && fld h 319 288 == 0 && fld h 127 48 == 0

/-- The seven checks in order; the first failure is the answer. -/
def loadChecks (s : State) (c : Nat) : Except LoadErr Loaded := do
  let a := regRaw s (aCtx c 0x68)
  need 5 (decide (a % 64 = 0 ∧ a + 256 ≤ hbmTop) && inPartition s c a 256)
  let hd ← loadRead s 5 a 256
  let h := ofBytes hd
  let bytes := fld h 447 384
  let members := fld h 367 352
  let nsec := fld h 287 256
  let nwp := fld h 351 320
  need 5 (decide (a + bytes ≤ hbmTop) && inPartition s c a (max 1 bytes))
  need 5 (fld h 31 0 == 0x4E4D4C4B && fld h 47 32 == 4 && headerReserved h
    && decide (1 ≤ fld h 375 368 ∧ fld h 375 368 ≤ 4 ∧ 1 ≤ members ∧ members ≤ 4096 ∧ 1 ≤ nwp ∧ nwp ≤ 65536 ∧ 1 ≤ nsec
      ∧ 256 + 32 * nsec ≤ bytes))
  let img ← loadRead s 5 a bytes
  need 5 ((crc32c (img.take 56 ++ List.replicate 4 0#8 ++ img.drop 60)).toNat == fld h 479 448)
  need 6 (fld h 255 128 == ctxTiles s c)
  let secs := (List.range nsec).map (sectionAt img)
  need 5 (secs.all (fun x => decide (x.off + x.len ≤ bytes)))
  need 5 (secs.all (sectionPlaced s c))
  need 5 (noPair sectionsMeet secs)
  let tens := secs.filter (fun x => x.type = 10)
  need 5 (decide (tens.length ≤ 1))
  let kept := tens.head?.map (fun x => tensorTable s c x.addr (sectionBytes img x))
  need 5 (kept != some none)
  match secs.filter (fun x => x.type = 9) with
  | [x] => do
    need 5 (x.len == 32 * nwp)
    match wpTable nwp (sectionBytes img x) with
    | none => failWith 5
    | some wps => do
      need 5 (wpsOk wps)
      let (m, r) ← readJobMap s c members
      match (secs.filter (fun x => decide (x.type = 8 ∨ x.type = 10))).find? (fun x => !memAvailable s x.addr x.len) with
      | some x => .error { code := 5, line := some (5, 6, x.addr) }
      | none => pure { img := img, sections := secs, members := members, mb := fld h 375 368, wps := wps, tensors := kept.bind id, jobMap := m, rank := r }
  | _ => failWith 5

/-- The 64-bit words of microcode bytes into a tile's store from index 0 (R198). -/
def loadMicrocode (t : Nat) (d : List Byte) (s : State) : State :=
  modVxe t (fun v => { v with mc := (List.range (d.length / 8)).foldl (fun m i =>
    tset 0 m i (BitVec.ofNat 64 (ofBytes ((d.drop (8 * i)).take 8)))) v.mc }) s

/-- Place a section (Table 2-15). -/
def placeSection (c : Nat) (img : List Byte) (s : State) (x : Section) : State :=
  let d := sectionBytes img x
  let o := x.addr - spdAddr x.tile 0
  match x.type with
  | 3 => loadMicrocode x.tile d s
  | 4 => regPut (aTile x.tile 2 0) o (spdWrite x.tile o d s)
  | 5 => regPut (aTile x.tile 3 0) o (spdWrite x.tile o d s)
  | 6 => regPut (aTile x.tile 6 0) o (spdWrite x.tile o d s)
  | 8 => hbmWrite x.addr d (chargeWork dieE0 c x.addr d.length s)
  | 9 => s
  | 10 => hbmWrite x.addr d (chargeWork dieE0 c x.addr d.length s)
  | _ => spdWrite x.tile o d s

/-- Live fields of entry i after LOAD, and both banks zeroed with STEP in the current one (R240). -/
def initTensors (tk : TensorKept) (step : Nat) (s : State) : State :=
  let one (s : State) (i : Nat) : State :=
    let e := ofBytes (hbmRead s (entryAddr tk i) 16)
    let k := fld e 3 0
    let scale := if k = 2 then fld e 31 24 else 0
    let w0 := setFld (setFld (setFld (setFld (e % 2 ^ 64) 39 32 scale) 44 40 0) 51 48 0) 52 52 (decide (k = 1)).toNat
    let s := hbmWrite (entryAddr tk i) (toBytes 8 w0 ++ toBytes 8 step) s
    hbmWrite (entryAddr tk i + 64) (List.replicate 64 0#8) s
  let s := (List.range tk.nt).foldl one s
  let s := hbmWrite tk.stats (List.replicate (2 * (64 + 192 * tk.nt)) 0#8) s
  hbmWrite (bankAddr tk (step % 2)) (toBytes 8 step) s

/-- Start addresses that the code sections set, by steward 2t + n (R75, Table 3-7): the short form. Of two sections
of one type and tile the later one in table order counts (DESIGN CHOICE: log entry 125). -/
def codeStarts (l : List Section) : Tab Nat :=
  l.foldl (fun m x => if x.type = 1 ∨ x.type = 2 then tput m (2 * x.tile + x.type - 1) (x.addr - spdAddr x.tile 0) else m) []

/-- What a successful LOAD does to the context's memory and to what CTX keeps. -/
def loadApply (c : Nat) (l : Loaded) (s : State) : State :=
  let s := l.sections.foldl (placeSection c l.img) s
  let s := match l.tensors with | some tk => initTensors tk (stepOf s c) s | none => s
  modCtx c (fun x => { x with
    members := l.members, mbInFlight := l.mb, rank := l.rank, jobMap := l.jobMap, wps := l.wps, starts := codeStarts l.sections,
    tensors := l.tensors, next := .none, chosenAt := none, arrived := [], aLocal := none, children := [], sent := false, relTick := none,
    beginRel := none, commitRel := none, holds := [], openMb := [], closedMb := [], nextMbi := 0, jobRels := 0, liveDone := true,
    raised := none, heldAt := none, holdCause := none, resumeAt := none, root := none, myVote := none, decided := none }) s

end Sys2Proof.Machine
end

