-- ==== Sys2Proof/Machine/Phase.lean ====
section
/-!
DEFINITION. The phase timer of a tile (R534, R535), and the registers of a range set back to their reset values.
-/

namespace Sys2Proof.Machine

/-- Every register of [lo, hi) reads its reset value again. -/
def regClear (lo hi : Nat) (s : State) : State := { s with regs := s.regs.filter (fun p => decide (p.1 < lo ∨ hi ≤ p.1)) }

/-- Registers of [lo, hi) of window w of tile t. -/
def winClear (t w lo hi : Nat) (s : State) : State := regClear (aTile t w lo) (aTile t w hi) s

/-- Register at offset off of the tile's DAT window. -/
def aPm (t off : Nat) : Nat := aTile t 8 off

/-- A bank entry with one more mark at tick τ (R534). -/
def pmEntry (first rest τ : Nat) : Nat × Nat :=
  let n := fld rest 63 40
  let f := if n = 0 then τ else first
  (f, min (τ - f) (2 ^ 40 - 1) + (satAdd 24 n 1) <<< 40)

/-- A mark of code c by steward n (R534). -/
def phaseMark (t n c : Nat) (s : State) : State :=
  let τ := now s
  let h := regRaw s (aPm t 0x800)
  let e := aPm t (0x900 + 16 * (h % 16))
  let s := regPut (e + 8) (c + n <<< 8) (regPut e τ s)
  let s := regPut (aPm t 0x800) ((h % 16 + 1) % 16 + (satAdd 24 (h >>> 8) 1) <<< 8) s
  if c < 32 then
    let a := aPm t (0xA00 + 16 * c)
    let v := pmEntry (regRaw s a) (regRaw s (a + 8)) τ
    regPut (a + 8) v.2 (regPut a v.1 s)
  else s

/-- COMMIT of step n is released: the current bank becomes the previous one and is zeroed (R535). -/
def phaseCommit (n t : Nat) (s : State) : State :=
  let s := (List.range 64).foldl (fun s i => regPut (aPm t (0xC00 + 8 * i)) (regRaw s (aPm t (0xA00 + 8 * i))) s) s
  regPut (aPm t 0x808) n (winClear t 8 0xA00 0xC00 s)

end Sys2Proof.Machine
end

