-- ==== Sys2Proof/Machine/Waypoint.lean ====
section
/-!
DEFINITION. Waypoints, the tree of a job, holds and the two-phase commit (R79–R85, R583, R392–R397, R457, R458).
-/

namespace Sys2Proof.Machine

/-! ### The tree (R392) -/

/-- The smallest depth whose tree of arity 64 reaches n ranks: d levels hold `have` ranks so far, `last` on the last. -/
def treeDepthFrom (n : Nat) : Nat → Nat → Nat → Nat → Nat
  | 0, d, _, _ => d
  | f + 1, d, got, last => if n ≤ got then d else treeDepthFrom n f (d + 1) (got + 64 * last) (64 * last)

def treeDepth (members : Nat) : Nat := treeDepthFrom members 4 0 1 1

/-- P, the propagation allowance. -/
def allowance (s : State) (members : Nat) : Nat := 2 * (treeDepth members * (diameter s * 300 + 100) + 2000)

/-- Parent of a rank, and its children below a member count. -/
def parentRank (r : Nat) : Nat := (r - 1) / 64
def childRanks (r members : Nat) : List Nat := ((List.range 64).map (fun i => 64 * r + 1 + i)).filter (· < members)

/-- Send a control packet to the member of a rank; `orig` is the rank it speaks of. -/
def sendControl (c rank opc op orig : Nat) (s : State) : State :=
  match memberOf (ctxOf s c) rank with
  | some m =>
    sendPacket (mkPacket s { opc := opc, vc := 2, dst := m.1, ctx := m.2.1, gen := m.2.2.toNat, rank := orig, op := op } []) s
  | none => s

/-- Send a control packet to every child. -/
def sendDown (c opc op : Nat) (s : State) : State :=
  let x := ctxOf s c
  (childRanks x.rank x.members).foldl (fun s r => sendControl c r opc op x.rank s) s

/-- OPHDR of ARRIVE, RELEASE, CLEAR, HOLD (Table 12-5) and of RESUME. -/
def opWp (idx step time : Nat) : Nat := (idx % 65536) + (step % 65536) <<< 16 + time <<< 32
def opResume (start tres : Nat) : Nat := start <<< 32 + tres <<< 96
/-- OPHDR of PREPARE and DECIDE (Table 14-7), TIME or TICK at [351:288]. -/
def opPrepare (v : Vote) (step time : Nat) : Nat :=
  1 + v.yes.toNat <<< 4 + (step % 65536) <<< 16 + time <<< 32 + v.noRank <<< 96 + v.cause <<< 108
def opDecide (commit : Bool) (step tick : Nat) : Nat := 2 + commit.toNat <<< 4 + (step % 65536) <<< 16 + tick <<< 32

/-! ### Deadlines (R82) -/

/-- Kinds whose scope is the job (Table 2-18). -/
def isJob (k : WpKind) : Bool :=
  match k with
  | .job => true | .stepBegin => true | .commit => true | .fin => true
  | _ => false

/-- The base of waypoint i. -/
def wpBase (s : State) (c i : Nat) : Nat :=
  let x := ctxOf s c
  let st := regRaw s (aCtx c 0x80)
  if i < wpB x then st
  else if i = wpB x then x.commitRel.getD st
  else if i ≤ wpC x then x.beginRel.getD st
  else x.commitRel.getD st

/-- H: lengths of the holds that began after the base; of a hold that is decided and not resumed, its coming length. -/
def holdSum (x : Ctx) (base : Nat) : Nat :=
  let past := x.holds.foldl (fun n h => if base < h.1 then n + h.2 else n) 0
  match x.resumeAt with
  | some (a, r) => if base < a then past + (r - a) else past
  | none => past

/-- D and SLACK of waypoint i. -/
def wpDeadline (s : State) (c i : Nat) : Nat × Nat :=
  let x := ctxOf s c
  match x.wps[i]? with
  | some e => (wpBase s c i + e.offset + holdSum x (wpBase s c i), e.slack)
  | none => (0, 0)

/-- The release tick of R83 for an arrival A, none when A is later than D + SLACK. -/
def wpDue (s : State) (c i a : Nat) : Option Nat :=
  let (d, sl) := wpDeadline s c i
  if a ≤ d then some d else if a ≤ d + sl then some a else none

/-! ### Holds (R395–R397) -/

/-- The hold notice reaches this member: it enters HELD and passes it on. -/
def holdNotice (c start idx step : Nat) (s : State) : State :=
  let x := ctxOf s c
  if x.heldAt.isSome then s
  else
    let s := modCtx c (fun x => { x with heldAt := some start, holdCause := some (idx, step) }) s
    let s := if x.state = .running then setCtxState c .held s else s
    sendDown c 0x22 (opWp idx step start) (postEvent x.func 3 c x.gen.toNat 1 s)

/-- A request reaches the root: it begins the hold, or, with a lesser RAISE, takes its place, so that the cause before counts for nothing and is
judged again after the resume (R396). A request whose RAISE lies in the last hold counts for nothing. -/
def rootRequest (c rank idx step raise : Nat) (s : State) : State :=
  let x := ctxOf s c
  let old : Bool := match x.holds.getLast? with | some (a, n) => decide (a ≤ raise ∧ raise < a + n) | none => false
  if old || x.resumeAt.isSome then s
  else match x.root with
    | none =>
      holdNotice c raise idx step
        (modCtx c (fun x => { x with root := some { s := raise, rank := rank, idx := idx, step := step, clear := none } }) s)
    | some r =>
      if raise < r.s then
        modCtx c (fun x => { x with
          root := some { s := raise, rank := rank, idx := idx, step := step, clear := none }
          raised := if r.rank = 0 ∧ rank ≠ 0 then none else x.raised }) s
      else s

/-- A CLEAR reaches the root: the cause it names has cleared. -/
def rootClear (c rank idx step tick : Nat) (s : State) : State :=
  modCtx c (fun x => { x with root := x.root.map (fun r =>
    if r.rank = rank ∧ r.idx = idx ∧ r.step = step ∧ r.clear = none then { r with clear := some tick } else r) }) s

/-- This member raises or clears a hold: at the root directly, else by a packet to the parent (R395, R396). -/
def raiseHold (c idx tick : Nat) (s : State) : State :=
  let x := ctxOf s c
  let m := stepOf s c % 65536
  let s := modCtx c (fun x => { x with raised := some idx }) s
  if x.rank = 0 then rootRequest c 0 idx m tick s else sendControl c (parentRank x.rank) 0x22 (opWp idx m tick) x.rank s
def clearHold (c idx tick : Nat) (s : State) : State :=
  let x := ctxOf s c
  let m := stepOf s c % 65536
  if x.rank = 0 then rootClear c 0 idx m tick s else sendControl c (parentRank x.rank) 0x24 (opWp idx m tick) x.rank s

/-! ### Votes (R457, R458) -/

/-- Combine two votes. -/
def voteAnd (a b : Vote) : Vote :=
  { yes := a.yes && b.yes
    noRank := min a.noRank b.noRank
    cause := if a.noRank ≤ b.noRank then a.cause else b.cause }
def voteYes : Vote := { yes := true, noRank := 0xFFF, cause := 0 }

/-- DETAIL of a CTX record of class 7 (Table 15-3). -/
def ctxDetail (idx noRank cause tick arrival : Nat) : Nat :=
  idx + noRank <<< 16 + cause <<< 28 + tick <<< 64 + arrival <<< 128

/-- A record of the CTX block that names context c. -/
def ctxFault (s : State) (c cls code detail : Nat) : FaultRec := withDetail detail (namesCtx s c (blankFault s cls code 0x20 4))

/-- The audit that the decision reports is the one of this member's own state: its book's plan has AUDIT, and the partner voted NO for it. -/
def auditedBy (s : State) (c : Nat) (v : Vote) : Bool :=
  match (runningBook s c).bind (fun b => (bookOf s b).plan) with
  | some p => p.audit && decide (v.cause = 2 ∧ v.noRank = p.partner)
  | none => false

/-- The decision ABORT at this member (R458): the entry's bit, the record, the phase. An audit mismatch counts at the audited rank too (R540). -/
def commitAbort (c : Nat) (v : Vote) (s : State) : State :=
  let x := ctxOf s c
  if x.decided = some false then s
  else
    let idx := wpC x
    let s := if auditedBy s c v then mismatchCount 1 c s else s
    let s := modCtx c (fun x => { x with decided := some false }) s
    let s := match runningBook s c with
      | some b => decideEntry b (stepOf s c) 134 (freshChecks b (modBook b (fun k => { k with phase := 5 }) s))
      | none => s
    raise (ctxFault s c 7 1 (ctxDetail idx v.noRank v.cause 0 0)) s

/-! ### Arrival and release -/

/-- FENCE.G issued on an ST1 before its ST0 reached a job waypoint has met its FENCE.F condition (R351). -/
def fenceGate (s : State) (c : Nat) : Bool := (tilesOf s c).all (fun t => !(stOf s t 1).fenceGate)

/-- What else a waypoint waits for before it counts as reached here (R85, R247, R351, R444). -/
def wpGate (s : State) (c i : Nat) (e : WpEntry) : Bool :=
  let x := ctxOf s c
  bookGate s c e.kind i (stepOf s c) && (!isJob e.kind || fenceGate s c) &&
    (match e.kind with
      | .mbOpen => (e.mbi < 4 || x.closedMb.contains (e.mbi - 4)) && (e.mbi < x.mbInFlight || x.closedMb.contains (e.mbi - x.mbInFlight))
      | .commit => x.openMb.isEmpty
      | .stepBegin => x.liveDone
      | _ => true)

/-- Reports of the children for waypoint i of this step, when all are in: the latest TIME and the combined vote. -/
def childReports (s : State) (c i : Nat) : Option (Nat × Vote) :=
  let x := ctxOf s c
  let m := stepOf s c % 65536
  (childRanks x.rank x.members).foldl (fun a r =>
    match a, x.children.find? (fun h => decide (h.idx = i ∧ h.step = m ∧ h.rank = r)) with
    | some (t, v), some h => some (max t h.time, match h.vote with | some w => voteAnd v w | none => v)
    | _, _ => none) (some (0, voteYes))

/-- The root judges a job waypoint that every member has reached at a_last (R83, R393, R457). -/
def rootJudge (c i aLast : Nat) (v : Vote) (e : WpEntry) (s : State) : State :=
  let x := ctxOf s c
  let m := stepOf s c % 65536
  if aborted s c then s
  else if e.kind = .commit && !v.yes then
    if x.decided = some false then s else sendDown c 0x28 (opDecide false m 0) (commitAbort c v s)
  else if x.raised.isSome then rootClear c 0 (x.raised.getD i) m aLast s
  else if x.relTick.isSome || (x.root.isSome && x.resumeAt.isNone) then s
  else match wpDue s c i (aLast + allowance s x.members) with
    | some r =>
      let s := modCtx c (fun x => { x with relTick := some r }) s
      if e.kind = .commit then sendDown c 0x28 (opDecide true m r) s else sendDown c 0x21 (opWp i m r) s
    | none => s

/-- After an event that may complete the next waypoint here: the arrival counts now if all participants have reached it and its gates
are open; then reports go up, or the root judges. -/
def wpTouch (c : Nat) (s : State) : State :=
  let x := ctxOf s c
  match x.next with
  | .at i =>
    match x.wps[i]? with
    | none => s
    | some e =>
      let all := (tilesOf s c).all (fun t => x.arrived.contains t)
      let s := if x.aLocal.isNone && all && wpGate s c i e then
          let s := modCtx c (fun x => { x with aLocal := some (now s) }) s
          if x.raised.isSome && !(isJob e.kind && x.rank == 0) then clearHold c (x.raised.getD i) (now s) s else s
        else s
      let x := ctxOf s c
      match x.aLocal, childReports s c i with
      | some a, some (t, v) =>
        if !isJob e.kind then s
        else
          let mine := x.myVote.getD voteYes
          let vote := voteAnd mine v
          if x.rank = 0 then rootJudge c i (max a t) vote e s
          else if x.sent then s
          else
            let s := modCtx c (fun x => { x with sent := true }) s
            let m := stepOf s c
            if e.kind = .commit then sendControl c (parentRank x.rank) 0x28 (opPrepare vote m (max a t)) x.rank s
            else sendControl c (parentRank x.rank) 0x20 (opWp i m (max a t)) x.rank s
      | _, _ => s
  | _ => s

/-- The indices a participant may reach now (R81, R583). -/
def wpAllowed (x : Ctx) (i : Nat) : Bool :=
  match x.next with
  | .at j => decide (i = j)
  | .choice => decide (i = wpB x ∨ i = wpC x + 1)
  | .none => false

/-- ST0 of tile t reaches waypoint i, which it may (R114). -/
def wpReach (c t i : Nat) (s : State) : State :=
  let x := ctxOf s c
  match x.wps[i]? with
  | none => s
  | some e =>
    let s := modCtx c (fun x => { x with
      next := .at i, arrived := sinsert t x.arrived
      chosenAt := (match x.next with | .choice => some (now s) | _ => x.chosenAt) }) s
    let all := (tilesOf s c).all (fun t => (ctxOf s c).arrived.contains t)
    wpTouch c (if all then bookReached c e.kind i s else s)

/-- A waiting instruction of a steward completes. -/
def stComplete (t n : Nat) (s : State) : State :=
  modSt t n (fun x => { x with pc := x.pc + 4, run := .running, waitKind := .none, instret := x.instret + 1 }) s

/-- Ids of a table's tensors with SCOPE 1, and their values in lines of sixteen. -/
def scopeOne (s : State) (tk : TensorKept) : List Nat := (List.range tk.nt).filter (fun i => bit (ofBytes (hbmRead s (entryAddr tk i + 1) 1)) 1)
def amaxLines (s : State) (tk : TensorKept) (m : Nat) : List (List (List Byte)) :=
  let v := (scopeOne s tk).map (fun i => hbmRead s (recAddr tk (m % 2) i + 40) 4)
  (List.range ((v.length + 15) / 16)).map (fun j => (v.drop (16 * j)).take 16)

/-- Action 3 of R247 begins: the member's AMAX values go as MAX contributions to the collector of rank 0 (R384). -/
def amaxSend (c m : Nat) (tk : TensorKept) (s : State) : State :=
  let x := ctxOf s c
  let ls := amaxLines s tk m
  match memberOf x 0 with
  | some (dev, d, _) =>
    (ls.zip (List.range ls.length)).foldl (fun s p =>
      let q : RedReq := { op := 1, ty := 0, seq := true, ovw := true, slot := x.rank, cntM1 := x.members - 1, emask := BitVec.ofNat 32 (2 ^ p.1.length - 1) }
      postAmax c (dev * 2 ^ 40 + aAmax d p.2) q (fitBytes 64 p.1.flatten) s) (modCtx c (fun x => { x with jobMax := [] }) s)
  | none => s

/-- Actions 1 and 2 of R247 and the beginning of action 3 at the release of COMMIT m, and CTX_STEP's increment (R84); phase timers change
banks (R535). -/
def commitRelease (c m : Nat) (s : State) : State :=
  let x := ctxOf s c
  let s := (tilesOf s c).foldl (fun s t => passesCross t m (phaseCommit m t s)) s
  let s := regPut (aCtx c 0x78) ((m + 1) % 2 ^ 64) s
  match x.tensors with
  | none => s
  | some tk =>
    let s := (tilesOf s c).foldl (fun s t => contourFlush c tk (m % 2) t s) s
    let b := bankAddr tk ((m + 1) % 2)
    let s := hbmWrite b (toBytes 8 (m + 1)) (hbmWrite b (List.replicate (64 + 192 * tk.nt) 0#8) (chargeWork dieE0 c b (64 + 192 * tk.nt) s))
    amaxSend c m tk s

/-- The waypoint after i. -/
def wpAfter (x : Ctx) (i : Nat) : WpNext :=
  if i = wpC x then .choice else if i + 1 < x.wps.length then .at (i + 1) else .none

/-- Waypoint i of context c is released at a tick: its instructions complete and its kind's effect takes place (Table 2-18, R84, R85). -/
def wpRelease (c i tick : Nat) (s : State) : State :=
  let x := ctxOf s c
  match x.wps[i]? with
  | none => s
  | some e =>
    let m := stepOf s c
    let s := x.arrived.foldl (fun s t =>
      if (stOf s t 0).run == .waiting && (stOf s t 0).waitKind == .waypoint then stComplete t 0 s else s) s
    let s := modCtx c (fun x => { x with
      next := wpAfter x i, chosenAt := none, arrived := [], aLocal := none, sent := false, relTick := none
      raised := none, children := x.children.filter (fun h => !decide (h.idx = i ∧ h.step = m % 65536))
      jobRels := if isJob e.kind then x.jobRels + 1 else x.jobRels }) s
    let s := match e.kind with
      | .stepBegin =>
        stepPowerStart c (modCtx c (fun x => { x with beginRel := some tick, nextMbi := 0, openMb := [], closedMb := [] }) s)
      | .commit => modCtx c (fun x => { x with commitRel := some tick, myVote := none, decided := none, liveDone := x.tensors.isNone })
          (commitRelease c m s)
      | .mbOpen => modCtx c (fun x => { x with openMb := sinsert e.mbi x.openMb, nextMbi := e.mbi + 1 }) s
      | .mbClose => modCtx c (fun x => { x with openMb := sremove e.mbi x.openMb, closedMb := sinsert e.mbi x.closedMb }) s
      | .fin => setCtxState c .done s
      | _ => s
    let s := bookReleased c e.kind i m s
    let s := if e.kind = .commit && x.tensors.isNone then bookLiveDone c s else s
    wpTouch c s

/-- The tick at which the next waypoint is to be released, once it is settled; of a local waypoint only while the job is not held. -/
def releaseTick (s : State) (c : Nat) : Option (Nat × Nat) :=
  let x := ctxOf s c
  match x.next with
  | .at i =>
    match x.wps[i]? with
    | none => none
    | some e =>
      if isJob e.kind then x.relTick.map (fun r => (i, r))
      else if x.state ≠ .running ∨ x.heldAt.isSome ∨ x.raised.isSome then none
      else match x.aLocal with
        | some a => (wpDue s c i a).map (fun r => (i, r))
        | none => none
  | _ => none

/-- WAYPOINT_RELEASE's effect. -/
def waypointRelease (c : Nat) (s : State) : State :=
  let x := ctxOf s c
  if aborted s c ∨ (x.state ≠ .running ∧ x.state ≠ .held) then s
  else match releaseTick s c with
    | some (i, r) => wpRelease c i r (advanceTo r s)
    | none => s

/-- The waypoint this member raises a hold for, with the tick D + SLACK (R83, R395, R583). In the choice after
COMMIT the hold carries index b (DESIGN CHOICE: log entry 127). -/
def holdDue (s : State) (c : Nat) : Option (Nat × Nat) :=
  let x := ctxOf s c
  let lim (i : Nat) : Nat := (wpDeadline s c i).1 + (wpDeadline s c i).2
  let mine (i : Nat) : Bool := match x.wps[i]? with | some e => !isJob e.kind || decide (x.rank = 0) | none => false
  let late (i : Nat) : Bool :=
    match x.wps[i]? with
    | none => false
    | some e => if isJob e.kind then x.relTick.isNone else (match x.aLocal with | some a => (wpDue s c i a).isNone | none => true)
  match x.next with
  | .at i => if mine i && late i then some (i, lim i) else none
  | .choice =>
    let b := wpB x
    let n := wpC x + 1
    if mine b || mine n then some (b, max (lim b) (lim n)) else none
  | .none => none

/-- HOLD_RAISE's effect: the tick passes and the hold is raised, no earlier than the arrival that chose the waypoint (R583). What has
been reached meanwhile clears the cause. -/
def holdRaise (c : Nat) (s : State) : State :=
  let x := ctxOf s c
  if aborted s c ∨ x.state ≠ .running ∨ x.raised.isSome ∨ x.heldAt.isSome then s
  else match holdDue s c with
    | some (i, t) =>
      let t := max t (x.chosenAt.getD 0)
      let s := raiseHold c i t (advanceTo t s)
      let job : Bool := match x.wps[i]? with | some e => isJob e.kind | none => false
      match x.aLocal with
      | some a => if job && x.rank == 0 then wpTouch c s else clearHold c i a s
      | none => s
    | none => s

/-- A hold's cause (index, STEP) is waypoint i of this step, or the choice that turned out to be i. -/
def isCause (s : State) (c i : Nat) (cause : Option (Nat × Nat)) : Bool :=
  let x := ctxOf s c
  match cause with
  | some (j, m) => decide (m = stepOf s c % 65536) && (decide (j = i) || (decide (j = wpB x ∧ i = wpC x + 1) && x.chosenAt.isSome))
  | none => false

/-- HOLD_DECISION's effect (R396): at the root, no earlier than s + P/2 and once the cause has cleared. -/
def holdDecision (c : Nat) (s : State) : State :=
  let x := ctxOf s c
  match x.root, x.resumeAt with
  | some r, none =>
    match r.clear with
    | some k =>
      if aborted s c then s
      else
        let p := allowance s x.members
        let s := advanceTo (r.s + p / 2) s
        let tres := max r.s k + p
        let s := modCtx c (fun x => { x with resumeAt := some (r.s, tres) }) s
        wpTouch c (sendDown c 0x23 (opResume r.s tres) s)
    | none => s
  | _, _ => s

/-- JOB_RESUME's effect (R397): at TRES the member runs again, H grows, and every waypoint whose participants have arrived is released: a local one
reached here, and the job waypoint whose hold this is, which is so only when the notice's RAISE is the hold's START. -/
def jobResume (c : Nat) (s : State) : State :=
  let x := ctxOf s c
  match x.resumeAt with
  | none => s
  | some (a, tres) =>
    if aborted s c then s
    else
      let s := advanceTo tres s
      let cause := if x.heldAt = some a then x.holdCause else none
      let s := modCtx c (fun x => { x with holds := x.holds ++ [(a, tres - a)], resumeAt := none, heldAt := none, holdCause := none, root := none,
                                           raised := none }) s
      let s := if x.state = .held then setCtxState c .running s else s
      let s := postEvent x.func 3 c x.gen.toNat 0 s
      match x.next with
      | .at i =>
        match x.wps[i]? with
        | none => s
        | some e =>
          if isJob e.kind then
            if isCause s c i cause && x.aLocal.isSome then wpRelease c i tres s else wpTouch c s
          else if x.aLocal.isSome then wpRelease c i tres s
          else s
      | _ => s

end Sys2Proof.Machine
end

