-- ==== Sys2Proof/Machine/Context.lean ====
section
/-!
DEFINITION. Contexts: their commands, start, abort and teardown (R49–R63, R73, R76–R78, R486–R494).
-/

namespace Sys2Proof.Machine

/-! ### CREATE (R58) -/

/-- Power domain i is on: PWRC_DOMAIN_LO and _HI (R548). -/
def aPwrc (off : Nat) : Nat := aGlob (0x400000 + off)
def domainOn (s : State) (i : Nat) : Bool :=
  if i < 64 then bit (regRaw s (aPwrc 0x08)) i else bit (regRaw s (aPwrc 0x10)) (i - 64)

/-- Domain of the pair that holds tile t. -/
def tileDomain (t : Nat) : Nat := 18 * tileDie t + tileLocal t / 2

/-- CTX_TILE_USABLE of tile t: not fused unusable, its domain on and not switching (R27, R549). -/
def tileUsable (s : State) (t : Nat) : Bool :=
  !s.fuses.unusable.getLsbD t && domainOn s (tileDomain t) && !s.power.switching.any (fun x => x.1 == tileDomain t)

/-- First byte of a function's queue range and the byte beyond it. -/
def qmemRange (s : State) (f : Nat) : Nat × Nat :=
  (fld (regRaw s (aFn f 0x20)) 39 21 <<< 21, (fld (regRaw s (aFn f 0x28)) 39 21 + 1) <<< 21)

/-- The queue range of a function, unless it is DISABLED with a range that was never set (DEDUCED: log entry 61). -/
def fnRange (s : State) (f : Nat) : Option (Nat × Nat) :=
  if fnState s f = 0 ∧ qmemRange s f = (0, 0x200000) then none else some (qmemRange s f)

/-- Byte ranges kept from every context: queue ranges, dump slots, book ranges (R419, R441, R497). -/
def reservedRanges (s : State) : List (Nat × Nat) :=
  (List.range 16).filterMap (fnRange s)
  ++ [0x28, 0x30].map (fun o => let b := fld (regRaw s (aGlob (0x100000 + o))) 39 21 <<< 21; (b, b + 0x4000000))
  ++ bookRanges s

/-- Two half-open ranges meet. -/
def rangesMeet (x y : Nat × Nat) : Bool := decide (x.1 < y.2 ∧ y.1 < x.2)

/-- Valid ranges of a context as half-open ranges. -/
def ctxHalfRanges (s : State) (c : Nat) : List (Nat × Nat) := (ctxRanges s c).map (fun r => (r.1, r.2 + 1))

/-- Contexts that are not FREE, other than c. -/
def otherContexts (s : State) (c : Nat) : List Nat := (List.range 16).filter (fun d => decide (d ≠ c ∧ (ctxOf s d).state ≠ .free))

/-- The checks of CREATE in their order (R53, R58). -/
def createCheck (s : State) (c func : Nat) : Nat :=
  let ts := tilesOf s c
  let rs := ctxHalfRanges s c
  let used := (otherContexts s c).flatMap (ctxHalfRanges s) ++ reservedRanges s
  if (ctxOf s c).state ≠ .free then 1
  else if func = 0 then 10
  else if ts = [] then 9
  else if !ts.all (tileUsable s) then 3
  else if !ts.all (fun t => (tileCtx s t).isNone) then 2
  else if !rs.all (fun r => decide (r.1 < r.2 ∧ r.2 ≤ hbmTop) && used.all (fun u => !rangesMeet r u)) then 4
  else 0

/-- What CREATE does to a tile: messaging registers and stores at zero, no message waiting, scratchpad zero with valid check bits
(R73, R293). -/
def createTile (t : Nat) (s : State) : State :=
  let s := winClear t 9 0 0x1000 s
  let s := { s with spd := memZero s.spd (t * spdSize) ((t + 1) * spdSize) }
  modTile t (fun x => { x with msgs := [], sendSeq := [], eccBad := [], wbPend := [], ports := {} }) s

/-- Write LAST_RESULT. -/
def setResult (c code : Nat) (s : State) : State := modCtx c (fun x => { x with lastResult := code }) s

/-- A CREATE that passed its checks; it fills the buckets of its partition (R328). -/
def createDo (c func : Nat) (nondet : Bool) (s : State) : State :=
  let s := (tilesOf s c).foldl (fun s t => createTile t s) s
  let s := modCtx c (fun x => { ({} : Ctx) with gen := x.gen, func := func, nondet := nondet }) s
  setCtxState c .created (fillBuckets c s)

/-! ### Start (R78) -/

/-- The units of a tile as they are when its context starts (R123, R134, R161–R163, R197, R231, R276, R278, R300, R354, R536, R41). -/
def startTile (c t : Nat) (s : State) : State :=
  let s := winClear t 0 0 0x18 (winClear t 1 0 0x18 s)
  let s := winClear t 2 0x10 0x1000 (winClear t 3 0x10 0x1000 s)
  let s := winClear t 4 0 0x10 (winClear t 4 0x18 0x1000 s)
  let s := winClear t 5 0 0x1000 (winClear t 6 0x8 0x1000 s)
  let s := regMod (aTile t 7 0) (fun v => Nat.land v 3) (winClear t 7 0x10 0x50 (winClear t 7 0x800 0x900 s))
  let s := routerClear t (winClear t 8 0 0x1000 (winClear t 10 0x8 0x1000 s))
  let s := modTile t (fun x => { x with
    ma0 := {}, ma1 := {}, vxe := { ({} : Vxe) with mc := x.vxe.mc }, cpy := {}, vbufs := [], contour := {} }) s
  [0, 1].foldl (fun s n =>
    let old := stOf s t n
    let dbg : Steward := { halt := old.halt, ebreakHalt := old.ebreakHalt, csrSel := old.csrSel }
    let g := tput (tput (tput [] 10 (BitVec.ofNat 64 t)) 11 (BitVec.ofNat 64 (ctxOf s c).rank)) 12 (BitVec.ofNat 64 (stepOf s c))
    setSt t n (match tget (ctxOf s c).starts (2 * t + n) with
      | some pc => { dbg with pc := BitVec.ofNat 64 pc, gpr := g.filter (fun p => p.2 ≠ 0), run := .running }
      | none => dbg) s) s

/-- CONTEXT_START's effect: the start time is reached by a context that is READY, started and not aborted (R78, R486). -/
def contextStart (c : Nat) (s : State) : State :=
  let x := ctxOf s c
  if x.state ≠ .ready ∨ !x.armed ∨ aborted s c then s
  else
    let s := advanceTo (regRaw s (aCtx c 0x80)) s
    let s := (tilesOf s c).foldl (fun s t => startTile c t s) s
    let s := modCtx c (fun x => { x with armed := false, next := if x.wps = [] then .none else .at 0 }) s
    bookStart c (setCtxState c .running s)

/-! ### Aborts (R486–R489) -/

/-- Context c is aborted: ABORTED is set and a RUNNING context enters HELD. -/
def abortCtx (c : Nat) (s : State) : State :=
  let s := regMod (aGlob 0x100010) (fun v => setBit v (16 + c) true) s
  if (ctxOf s c).state = .running then setCtxState c .held s else s

/-- OPHDR of ABORT (Table 15-5). -/
def opAbort (kind time dev ctx gen : Nat) (all : Bool) (flood : Nat) : Nat :=
  kind + time <<< 32 + dev <<< 103 + ctx <<< 115 + gen <<< 119 + all.toNat <<< 135 + (flood % 65536) <<< 136

/-- A pair (device, number) is added to the last 64 that were seen. -/
def seePair (l : List (Nat × Nat)) (p : Nat × Nat) : List (Nat × Nat) := (l ++ [p]).drop (l.length + 1 - 64)

/-- Send a flood from this module (R489). -/
def sendFlood (kind time ctx gen : Nat) (all : Bool) (s : State) : State :=
  let me := ownDev s
  let n := s.floodNo
  let pkt := mkPacket s { opc := 0x30, vc := 3, dst := 0, op := opAbort kind time me ctx gen all n } []
  sendOn (floodPorts s) pkt { s with floodNo := (n + 1) % 65536, floods := seePair s.floods (me, n) }

/-! ### Teardown (Table 15-6) -/

/-- The units of a tile stop (step 2): stewards in reset, streams and runs gone, queues, slots and held buffers empty, contour records
discarded, waiting messages dropped. -/
def stopTile (t : Nat) (s : State) : State :=
  let s := (tileOf s t).msgs.foldl (fun s m => match m.port with
    | some _ => sendPacket (answerPacket s { hdr := m.hdr, pay := [] } 9 1 []) s
    | none => s) s
  let s := modTile t (fun x => { x with
    ma0 := { ({} : MArray) with acc := x.ma0.acc }, ma1 := { ({} : MArray) with acc := x.ma1.acc }
    vxe := { x.vxe with runs := [], slots := [], begun := false, waiting := false, stopped := false }
    cpy := { x.cpy with queue := [], decoded := [], fault := none, past := [] }
    msgs := [], contour := {}, ports := { walk := x.ports.walk } }) s
  [0, 1].foldl (fun s n => modSt t n (fun x => { ({} : Steward) with halt := x.halt, ebreakHalt := x.ebreakHalt, csrSel := x.csrSel }) s) s

/-- Step 2 for a context: its units stop, its entries and credits are discarded. -/
def stopUnits (c : Nat) (s : State) : State :=
  let s := (tilesOf s c).foldl (fun s t => stopTile t s) s
  let s := { s with
    entries := s.entries.filter (fun e => e.ctx ≠ c)
    credits := s.credits.filter (fun k => k.1 / 4096 ≠ c ∧ k.1 / 4096 ≠ 16 + c) }
  -- what has not left the module is dropped where it is to be served; what waits for a credit, or for its gather writes, is no more
  let mine (a : Acc) : Bool := a.ctx == c && (match a.origin with | .cpy _ _ _ _ | .amax => decide (a.stage ≠ .remote) | _ => false)
  let s := { s with accs := s.accs.filter (fun a => !(mine a && decide (a.stage = AccStage.waitCredit ∨ a.stage = AccStage.closing))) }
  linesClosed ((s.accs.filter mine).foldl (fun s a => accStale a s) s)

/-- A load that a teardown stops: its result, and memory that is unpredictable from then on (R55). -/
def scrambleCtx (c : Nat) (s : State) : State :=
  let t := (tilesOf s c).map (fun t => (spdAddr t 0, spdSize))
  let h := (ctxRanges s c).map (fun r => (r.1, r.2 + 1 - r.1))
  scrambleBytes c (t ++ h) s
def stopLoad (c : Nat) (s : State) : State :=
  if (ctxOf s c).state ≠ .loading then s
  else
    let w := (ctxOf s c).loadWaiter
    let s := scrambleCtx c (setResult c 1 (modCtx c (fun x => { x with loadWaiter := none }) s))
    match w with
    | some w => qComplete w.f w.q w.cid 1 0 s
    | none => s

/-- A teardown in the middle of the actions of R247 leaves the banks and the live fields of the table unpredictable (R260). -/
def spoilLive (c : Nat) (s : State) : State :=
  let x := ctxOf s c
  match x.tensors with
  | some tk =>
    if x.liveDone then s
    else
      let live := mask 1023 512 + mask 127 64 + mask 52 48 + mask 44 32
      (List.range tk.nt).foldl (fun s i =>
        let (v, s) := freeBits 1024 s
        let e := ofBytes (hbmRead s (entryAddr tk i) 128)
        hbmWrite (entryAddr tk i) (toBytes 128 (Nat.lor (Nat.land e (2 ^ 1024 - 1 - live)) (Nat.land v live))) s)
        (freeBytes tk.stats (2 * (64 + 192 * tk.nt)) s)
  | none => s

/-- Steps 1 and 2: TEARDOWN of a context that is not FREE. -/
def teardownStart (c : Nat) (s : State) : State :=
  let x := ctxOf s c
  let notify := decide ((x.state = .running ∨ x.state = .held) ∧ 1 < x.members)
  let s := spoilLive c (stopLoad c (bookTeardown c s))
  let s := setCtxState c .teardown s
  let s := modCtx c (fun x => { x with td := .drain notify, armed := false, next := .none, arrived := [], aLocal := none }) s
  stopUnits c s

/-! ### The command queue of the CTX block (R53) -/

/-- CID of the entry at the front of submission queue F:q. -/
def srcCid (s : State) (f q : Nat) : Nat :=
  match qOf s (qKey f q) with
  | some k => fld (qFront s k) 31 16
  | none => 0

/-- A command ends with a result code. -/
def cmdEnd (src : Src) (c code : Nat) (s : State) : State :=
  let s := setResult c code s
  match src with
  | .queue f q => qComplete f q (srcCid s f q) code 0 s
  | .reg _ => s

/-- Who waits for a command. -/
def srcWaiter (s : State) (src : Src) : Option Waiter :=
  match src with
  | .queue f q => some { f := f, q := q, cid := srcCid s f q }
  | .reg _ => none

/-- LOAD begins (Table 2-1). -/
def loadDo (src : Src) (c : Nat) (s : State) : State :=
  let x := ctxOf s c
  if x.state = .created ∨ x.state = .done then
    setCtxState c .loading (modCtx c (fun x => { x with loadWaiter := srcWaiter s src }) s)
  else cmdEnd src c 1 s

/-- START (R77). -/
def startDo (src : Src) (c : Nat) (s : State) : State :=
  if (ctxOf s c).state ≠ .ready then cmdEnd src c 1 s
  else if regRaw s (aCtx c 0x80) < now s + 10000 then cmdEnd src c 7 s
  else cmdEnd src c 0 (modCtx c (fun x => { x with armed := true }) s)

/-- TEARDOWN (R54, R55, R492). -/
def teardownDo (src : Src) (c : Nat) (s : State) : State :=
  let st := (ctxOf s c).state
  if st = .free ∨ st = .teardown then cmdEnd src c 1 s
  else
    let w := srcWaiter s src
    let s := teardownStart c s
    match w with
    | some w => modCtx c (fun x => { x with tdWaiter := x.tdWaiter ++ [w] }) s
    | none => s

/-- REMAP (R63). A map that cannot be read, for poison or a stack that is not READY, ends it JOBMAP_BAD without a record (DEDUCED: log entry 63). -/
def remapDo (src : Src) (c : Nat) (s : State) : State :=
  let x := ctxOf s c
  if x.state ≠ .held then cmdEnd src c 1 s
  else match readJobMap s c x.members with
    | .ok (m, r) =>
      let s := modCtx c (fun x => { x with jobMap := m, rank := r }) s
      let s := match runningBook s c with | some b => pairBook b s | none => s
      cmdEnd src c 0 s
    | .error _ => cmdEnd src c 8 s

/-- The registers that an entry of CTX_CREATE gives context c (Table 13-7). -/
def createRegs (c e : Nat) (s : State) : State :=
  let range (i : Nat) (s : State) : State :=
    let o := 256 + 64 * i
    regPut (aCtx c (0x28 + 0x10 * i)) (fld e (o + 37) (o + 19) <<< 21)
      (regPut (aCtx c (0x20 + 0x10 * i)) (fld e (o + 18) o <<< 21 + fld e (o + 38) (o + 38)) s)
  let s := regPut (aCtx c 0x70) (fld e 127 64) (regPut (aCtx c 0x10) (fld e 191 128) (regPut (aCtx c 0x18) (fld e 255 192) s))
  (List.range 4).foldl (fun s i => range i s) s

/-- The context a CREATE is for and the state with its registers: an entry of CTX_CREATE takes the lowest FREE context (R428). -/
def createOf (x : CtxCmd) (s : State) : Option (Nat × State) :=
  match x.entry with
  | none => some (x.ctx, s)
  | some e => ((List.range 16).find? (fun c => decide ((ctxOf s c).state = .free))).map (fun c => (c, createRegs c e s))

/-- A CREATE ends: who issued it from a queue learns its code and the context. -/
def createEnd (x : CtxCmd) (code data : Nat) (s : State) : State :=
  match x.src with
  | .queue f q => qComplete f q (match x.entry with | some e => fld e 31 16 | none => srcCid s f q) code data s
  | .reg _ => s

/-- CREATE (R53, R58, R428): one that fails changes LAST_RESULT alone. -/
def createRun (x : CtxCmd) (s : State) : State :=
  match createOf x s with
  | none => createEnd x 0x42 0 s
  | some (c, s') =>
    let r := createCheck s' c (fld x.cmd 15 12)
    if r ≠ 0 then createEnd x r 0 (setResult c r s)
    else createEnd x 0 (c + (ctxOf s c).gen.toNat <<< 16) (createDo c (fld x.cmd 15 12) (bit x.cmd 8) s')

/-- A CREATE that passes its checks waits for a region step of the survey walk on one of its tiles (R298). -/
def createWaits (s : State) (x : CtxCmd) : Bool :=
  decide (fld x.cmd 3 0 = 1) && (match createOf x s with
    | some (c, s') => createCheck s' c (fld x.cmd 15 12) == 0 && walkIn s (ctxTiles s' c)
    | none => false)

/-- A command of Table 2-5 is carried out. -/
def ctxRun (x : CtxCmd) (s : State) : State :=
  match fld x.cmd 3 0 with
  | 1 => createRun x s
  | 2 => loadDo x.src x.ctx s
  | 3 => startDo x.src x.ctx s
  | 4 => teardownDo x.src x.ctx s
  | 5 => remapDo x.src x.ctx s
  | _ => cmdEnd x.src x.ctx 10 s

/-- A LOAD or a TEARDOWN is in progress: the TEARDOWN holds the block to FREE (R428; DEDUCED: log entry 111). -/
def ctxBusy (s : State) : Bool := (List.range 16).any (fun c => decide ((ctxOf s c).state = .loading ∨ (ctxOf s c).state = .teardown))

/-- Carry out waiting commands in order until one does not end at once. -/
def ctxDrain : Nat → State → State
  | 0, s => s
  | n + 1, s =>
    match s.ctxQueue with
    | [] => s
    | x :: r => if ctxBusy s || createWaits s x then s else ctxDrain n (ctxRun x { s with ctxQueue := r })

/-- What waits is carried out as far as it goes. -/
def ctxNext (s : State) : State := ctxDrain s.ctxQueue.length s

/-- A command must wait (R53): one is in progress, others wait, or it is a CREATE on a tile where the walk is in a step. -/
def ctxHeld (s : State) (x : CtxCmd) : Bool := ctxBusy s || !s.ctxQueue.isEmpty || createWaits s x

/-- A command reaches the CTX block (R53): only the TEARDOWN of a context whose LOAD is in progress passes what waits. -/
def ctxCommand (x : CtxCmd) (s : State) : State :=
  if (fld x.cmd 3 0 = 4 ∧ (ctxOf s x.ctx).state = .loading) ∨ ctxHeld s x = false then ctxRun x s
  else { s with ctxQueue := s.ctxQueue ++ [x] }

/-! ### The end of a teardown (Table 15-6) -/

/-- Step 6: the tiles go idle, the generation increments, the context enters FREE (R50). FUNC and NONDET read what they did
(DESIGN CHOICE: log entry 126). -/
def freeCtx (c : Nat) (s : State) : State :=
  let x := ctxOf s c
  let s := setCtxState c .free s
  let s := bookCtxFree c s
  let s := { s with
    ctxs := tset {} s.ctxs c { ({} : Ctx) with gen := x.gen + 1, func := x.func, nondet := x.nondet }
    queues := s.queues.map (fun p => if p.2.bound && p.2.ctx == c then (p.1, { p.2 with bound := false }) else p)
    accs := s.accs.filter (fun a => a.ctx != c || (match a.origin with | .packet _ _ _ _ => true | _ => false)) }
  let s := regMod (aGlob 0x100010) (fun v => setBit (setBit v c false) (16 + c) false) s
  x.tdWaiter.foldl (fun s w => qComplete w.f w.q w.cid 0 0 s) s

/-- OPHDR of TD_NOTICE and TD_ACK (R492). -/
def opTd (sub rank step : Nat) : Nat := sub + rank <<< 4 + (step % 65536) <<< 16

/-- Send TD_NOTICE to the member of a rank; TAG holds the context's id, which an answer echoes. -/
def sendNotice (c rank op : Nat) (s : State) : State :=
  match memberOf (ctxOf s c) rank with
  | some m =>
    sendPacket (mkPacket s { opc := 0x28, vc := 2, dst := m.1, ctx := m.2.1, gen := m.2.2.toNat, rank := (ctxOf s c).rank, tag := c, op := op } []) s
  | none => s

/-- The drain has ended: notices go out, or the context is FREE. -/
def drainEnded (c : Nat) (notify : Bool) (s : State) : State :=
  let x := ctxOf s c
  let others := (List.range x.members).filter (· ≠ x.rank)
  if notify && !others.isEmpty then
    others.foldl (fun s r => sendNotice c r (opTd 8 x.rank (stepOf s c)) s)
      (modCtx c (fun x => { x with td := .notice others }) s)
  else freeCtx c s

/-- Requests of the context's own units that have no answer yet. -/
def drained (s : State) (c : Nat) : Bool :=
  !s.accs.any (fun a => a.ctx == c && (match a.origin with | .cpy _ _ _ _ | .amax | .msg => true | _ => false))

/-- DRAIN_END's effect. -/
def drainEnd (c : Nat) (s : State) : State :=
  match (ctxOf s c).td with
  | .drain n => if (ctxOf s c).state = .teardown ∧ drained s c then ctxNext (drainEnded c n s) else s
  | _ => s

/-- TEARDOWN_TIMEOUT's effect: the drain ends, or the wait for answers does with an ABORT of KIND 3 and a record. -/
def teardownTimeout (c : Nat) (s : State) : State :=
  let x := ctxOf s c
  if x.state ≠ .teardown then s
  else match x.td with
    | .drain n => ctxNext (drainEnded c n s)
    | .notice _ =>
      let s := sendFlood 3 (now s) c x.gen.toNat false s
      ctxNext (freeCtx c (raise (ctxFault s c 7 6 (ctxDetail 0 0 0 0 0)) s))
    | .idle => s

/-- A notice of a rank is answered. -/
def noticeAnswered (c rank : Nat) (s : State) : State :=
  match (ctxOf s c).td with
  | .notice l =>
    let l' := sremove rank l
    let s := modCtx c (fun x => { x with td := .notice l' }) s
    if l'.isEmpty then ctxNext (freeCtx c s) else s
  | _ => s

/-- LOAD_COMPLETE's effect (R76). -/
def loadComplete (c : Nat) (s : State) : State :=
  if (ctxOf s c).state ≠ .loading then s
  else
    let w := (ctxOf s c).loadWaiter
    let s := modCtx c (fun x => { x with loadWaiter := none }) s
    let done (code : Nat) (s : State) : State :=
      let s := setResult c code s
      let s := match w with | some w => qComplete w.f w.q w.cid code 0 s | none => s
      ctxNext s
    match loadChecks s c with
    | .ok l => done 0 (setCtxState c .ready (loadApply c l s))
    | .error e =>
      let s := scrambleCtx c (setCtxState c .created s)
      let s := match e.line with
        | some (cls, code, a) => raise { atAddr s a (ctxFault s c cls code 0) with logOnly := true } s
        | none => s
      done e.code s

/-! ### Views (Tables 2-3, 2-4, 2-7) -/

/-- CTX_STATE of context c. -/
def ctxStateView (s : State) (c : Nat) : Nat :=
  let x := ctxOf s c
  let st := match x.state with
    | .free => 0 | .created => 1 | .loading => 2 | .ready => 3 | .running => 4 | .held => 5 | .teardown => 6 | .done => 7
  st + x.nondet.toNat <<< 8 + x.func <<< 12 + x.lastResult <<< 16

/-- CTX_FREE, CTX_TILE_USABLE of 64 tiles from t0, CTX_MB_STATUS. -/
def ctxFreeView (s : State) : Nat := (List.range 16).foldl (fun v c => v + (decide ((ctxOf s c).state = .free)).toNat <<< c) 0
def tileUsableView (s : State) (t0 : Nat) : Nat := (List.range 64).foldl (fun v i => v + (tileUsable s (t0 + i)).toNat <<< i) 0
def mbStatusView (s : State) (c : Nat) : Nat :=
  let x := ctxOf s c
  x.openMb.foldl (fun v i => setBit v (i % 4) true) 0 + x.nextMbi <<< 4

/-! ### Commands -/

def execLoadComplete (c : Nat) (s : State) : Host.Outcome State Fault Refusal := act (ctxOk c) s (loadComplete c)

def execContextStart (c : Nat) (s : State) : Host.Outcome State Fault Refusal := act (ctxOk c) s (contextStart c)

def execDrainEnd (c : Nat) (s : State) : Host.Outcome State Fault Refusal := act (ctxOk c) s (drainEnd c)

def execTeardownTimeout (c : Nat) (s : State) : Host.Outcome State Fault Refusal := act (ctxOk c) s (teardownTimeout c)

def execWaypointRelease (c : Nat) (s : State) : Host.Outcome State Fault Refusal := act (ctxOk c) s (waypointRelease c)

def execHoldRaise (c : Nat) (s : State) : Host.Outcome State Fault Refusal := act (ctxOk c) s (holdRaise c)

def execHoldDecision (c : Nat) (s : State) : Host.Outcome State Fault Refusal := act (ctxOk c) s (holdDecision c)

def execJobResume (c : Nat) (s : State) : Host.Outcome State Fault Refusal := act (ctxOk c) s (jobResume c)

/-- HOLD_WATCHDOG (R484): at rank 0, a hold that has not resumed FLT_WDOG_WAIT ticks after its start. -/
def holdWatchdog (c : Nat) (s : State) : State :=
  let x := ctxOf s c
  match x.heldAt with
  | some a =>
    if x.rank = 0 ∧ x.state = .held then
      let s := advanceTo (a + regRaw s (aGlob 0x100018)) s
      raise (ctxFault s c 6 5 1) s
    else s
  | none => s

def execHoldWatchdog (c : Nat) (s : State) : Host.Outcome State Fault Refusal := act (ctxOk c) s (holdWatchdog c)

end Sys2Proof.Machine
end

