-- ==== Sys2Proof/Machine/Link.lean ====
section
/-!
DEFINITION. Bluwen ports: link blocks, replay, credits, training (R355–R372, R400, R401, R582).
-/

namespace Sys2Proof.Machine

/-! ### Link blocks (R358, Table 12-3) -/

/-- Flits of a packet as bytes. -/
def packetBytes (p : Packet) : List Byte := toBytes 64 p.hdr.toNat ++ p.pay

/-- Key of a VC and class in the credit tables; receive buffer in flits (Table 12-7). -/
def vcKey (vc cls : Nat) : Nat := vc * 3 + cls
def vcBuffer (vc cls : Nat) : Nat :=
  if cls = 2 then (if vc = 0 ∨ vc = 1 ∨ vc = 5 ∨ vc = 6 then 64 else 0)
  else match vc with
    | 0 => 256 | 1 => 512 | 2 => 32 | 3 => 16 | 4 => 16 | 5 => 768 | 6 => 512 | _ => 32

/-- A credit return as CR0 or CR1. -/
def creditField (k : Option (Nat × Nat)) : Nat :=
  match k with
  | some (key, n) => key / 3 + (key % 3) <<< 3 + (min n 2047) <<< 5
  | none => 0

/-- The block that port p sends with some flits, as bytes: SEQ, ACK, NAK, up to two credit returns, CRC. -/
def makeBlock (l : Link) (flits : List Byte) : List Byte :=
  let body := flits ++ List.replicate (512 - flits.length) 0#8
  let tr := l.nextSeq + ((l.expect + 65535) % 65536) <<< 16 + (flits.length / 64) <<< 32 + l.nakOwed.toNat <<< 36
    + creditField l.owed[0]? <<< 64 + creditField l.owed[1]? <<< 80
  let low := body ++ toBytes 12 tr
  low ++ toBytes 4 (crc32c low).toNat

/-- The link after a block went out: what it carried is no longer owed; a block with flits takes a number and is kept for replay. -/
def blockSent (l : Link) (flits blk : List Byte) : Link :=
  let l := { l with
    nakOwed := false
    owed := ((l.owed.take 2).filterMap (fun k => if 2047 < k.2 then some (k.1, k.2 - 2047) else none)) ++ l.owed.drop 2 }
  if flits = [] then l
  else { l with nextSeq := (l.nextSeq + 1) % 65536, unacked := l.unacked ++ [(l.nextSeq, blk)] }

/-- Send one block on port p; the first one outstanding starts the time of R360. -/
def sendBlock (p : Nat) (flits : List Byte) (s : State) : State :=
  let l := linkOf s p
  let b := makeBlock l flits
  let s := modLink p (fun l => { blockSent l flits b with heard := if l.unacked = [] then now s else l.heard }) s
  { s with sentBlks := s.sentBlks ++ [(p, b)] }

/-- Send what remains of the packet on its way in blocks of eight flits, while fewer than 512 blocks are unacknowledged (R359); the second
argument bounds their number. -/
def pump (p : Nat) : Nat → State → State
  | 0, s => s
  | n + 1, s =>
    let l := linkOf s p
    if l.rest = [] ∨ 512 ≤ l.unacked.length ∨ portState s p ≠ 2 then s
    else
      let d := l.rest.take 512
      pump p n (sendBlock p d (regCount (aBlw p 0x140) (d.length / 64) (modLink p (fun l => { l with rest := l.rest.drop 512 }) s)))

/-- Send every unacknowledged block again, in order (R359). -/
def replay (p : Nat) (s : State) : State :=
  let l := linkOf s p
  let s := linkCount p 3 l.unacked.length (regCount (aBlw p 0x120) l.unacked.length s)
  modLink p (fun l => { l with replays := l.replays + 1 }) { s with sentBlks := s.sentBlks ++ l.unacked.map (fun b => (p, b.2)) }

/-- Drop the blocks that an ACK covers: those up to a number that is among them. -/
def ackBlocks (t a : Nat) (l : Link) : Link :=
  if l.unacked.any (fun b => b.1 = a) then
    { l with unacked := (l.unacked.dropWhile (fun b => b.1 ≠ a)).drop 1, replays := 0, heard := t }
  else l

/-- A credit return is applied (R367). -/
def creditApply (f : Nat) (l : Link) : Link :=
  let k := vcKey (fld f 2 0) (fld f 4 3)
  { l with used := tset 0 l.used k ((tget l.used k).getD 0 - fld f 15 5) }

/-- Packets complete in received flit bytes; the first argument bounds their number. -/
def takePackets : Nat → List Byte → List Packet × List Byte
  | 0, d => ([], d)
  | n + 1, d =>
    if d.length < 64 then ([], d)
    else
      let h := BitVec.ofNat 512 (ofBytes (d.take 64))
      let np := fld h.toNat 18 12
      if d.length < 64 + 64 * np then ([], d)
      else
        let r := takePackets n (d.drop (64 + 64 * np))
        ({ hdr := h, pay := (d.drop 64).take (64 * np) } :: r.1, r.2)

/-- The flits of an accepted block enter the receive buffers. -/
def receiveFlits (d : List Byte) (l : Link) : Link :=
  let r := takePackets 600 (l.rx ++ d)
  { l with inbox := l.inbox ++ r.1, rx := r.2 }

/-- The port goes to RETRAINING; SEQ, the replay buffer and the credits stay (R360). -/
def retrainStart (p : Nat) (s : State) : State :=
  let s := modLink p (fun l => { l with since := now s }) (linkCount p 4 1 (regCount (aBlw p 0x128) 1 (setPortState p 3 s)))
  trace 1 1 p 0 (trace 1 0 p 3 s)

/-- LINK_BLOCK's effect (R358–R360). A block replayed eight times that is not accepted makes the port retrain. `corrected` is none when a FEC codeword does not decode, else the symbols corrected. -/
def linkBlock (p : Nat) (flits : List Byte) (trailer : BitVec 128) (corrected : Option Nat) (s : State) : State :=
  if portState s p ≠ 2 ∨ flits.length ≠ 512 then s
  else
    let t := trailer.toNat
    let s := match corrected with
      | none => linkCount p 1 1 (regCount (aBlw p 0x110) 1 s)
      | some 0 => s
      | some n => linkCount p 0 1 (regCount (aBlw p 0x108) n (regCount (aBlw p 0x100) 1 s))
    let fec := match corrected with | some n => decide (n ≤ 15) | none => false
    let crc := (crc32c (flits ++ toBytes 12 (t % 2 ^ 96))).toNat == fld t 127 96
    let s := if fec && !crc then linkCount p 2 1 (regCount (aBlw p 0x118) 1 s) else s
    let l := linkOf s p
    if fec && crc && decide (fld t 15 0 = l.expect) then
      let n := min 8 (fld t 35 32)
      let at' := now s
      let s := modLink p (fun l =>
        let l := creditApply (fld t 95 80) (creditApply (fld t 79 64) (ackBlocks at' (fld t 31 16) l))
        if n = 0 then l else receiveFlits (flits.take (64 * n)) { l with expect := (l.expect + 1) % 65536 }) s
      let s := regCount (aBlw p 0x148) n s
      let s := if bit t 36 then (if 8 ≤ (linkOf s p).replays then retrainStart p s else replay p s) else s
      let s := pump p 9 s
      if n = 0 ∨ portState s p ≠ 2 then s else sendBlock p [] s
    else sendBlock p [] (modLink p (fun l => { l with nakOwed := true }) s)

/-! ### Sending packets (R367, R369) -/

/-- The peer has room for all flits of a packet. -/
def hasRoom (l : Link) (k : Packet) : Bool :=
  decide ((tget l.used (vcKey (pVc k) (pClass k))).getD 0 + pFlits k ≤ vcBuffer (pVc k) (pClass k))

/-- The packet of a VC that may leave next: the first of its class that waits (R375), with room at the peer (R367). -/
def sendable (s : State) (p vc : Nat) : Option Packet :=
  let l := linkOf s p
  l.queue.find? (fun k => decide (pVc k = vc) && hasRoom l k
    && decide (l.queue.find? (fun j => decide (pVc j = vc ∧ pClass j = pClass k)) = some k))

/-- The strict channels are served first: abort, Meridian, control. -/
def strictBlocks (s : State) (p vc : Nat) : Bool :=
  let before := if vc = 3 then [] else if vc = 4 then [3] else if vc = 2 then [3, 4] else [3, 4, 2]
  before.any (fun v => (sendable s p v).isSome)

/-- The weighted channels, and their output weights (Table 12-7). -/
def weighted : List Nat := [0, 1, 5, 6, 7]
def vcWeight (s : State) (v : Nat) : Nat := max 1 (s.legend.vcWeights.getD v 1)

/-- Among the weighted channels that could send, this one has had the least of its share of flits (R369; how the shares are counted is a
DESIGN CHOICE: log entry 118). -/
def vcTurn (s : State) (p vc : Nat) : Bool :=
  let had (v : Nat) : Nat := (tget (linkOf s p).shares v).getD 0
  !weighted.contains vc || weighted.all (fun u =>
    u == vc || (sendable s p u).isNone || decide (had vc * vcWeight s u < had u * vcWeight s vc)
      || decide (had vc * vcWeight s u = had u * vcWeight s vc ∧ vc < u))

/-- The shares after a packet of a channel left: the round ends when no other weighted channel has a packet to send. -/
def shareTaken (s : State) (p vc n : Nat) (l : Link) : Link :=
  if !weighted.contains vc then l
  else if weighted.all (fun u => u == vc || (sendable s p u).isNone) then { l with shares := [] }
  else { l with shares := tset 0 l.shares vc ((tget l.shares vc).getD 0 + n) }

/-- PACKET_SEND's effect: a packet of the VC leaves, when its turn has come and no other is under way. -/
def packetSend (p vc : Nat) (s : State) : State :=
  if portState s p ≠ 2 ∨ strictBlocks s p vc ∨ !vcTurn s p vc ∨ (linkOf s p).rest ≠ [] ∨ 512 ≤ (linkOf s p).unacked.length then s
  else match sendable s p vc with
    | none => s
    | some k =>
      let s := modLink p (fun l => shareTaken s p vc (pFlits k) { l with
        queue := l.queue.erase k
        used := tset 0 l.used (vcKey vc (pClass k)) ((tget l.used (vcKey vc (pClass k))).getD 0 + pFlits k)
        rest := packetBytes k }) s
      pump p 9 { s with sentPkts := s.sentPkts ++ [(p, k)] }

/-! ### Port states (R356, R360, R372, R401) -/

/-- A port has changed STATE: the link manager passes its trace point. -/
def stateTraced (p old : Nat) (s : State) : State := if portState s p = old then s else trace 1 0 p (portState s p) s

/-- Write BLWp_STATUS. -/
def setStatus (p st gen lanes cause : Nat) (s : State) : State :=
  let old := portState s p
  let s := if st = 4 then linkCount p 5 1 s else s
  stateTraced p old (regPut (aBlw p 4) (st + gen <<< 8 + lanes <<< 12 + cause <<< 16) s)

/-- A port's record (Table 15-3). -/
def portFault (s : State) (p cls code : Nat) : FaultRec :=
  withDetail (p + (regRaw s (aBlw p 4) % 2 ^ 24) <<< 8) (blankFault s cls code 0x23 (if p < 8 then 4 else 5))

/-- The link of a port that stops carrying: what waited there is discarded and counted (R582). -/
def linkDrop (p : Nat) (s : State) : State :=
  let n := (linkOf s p).queue.length
  { (if n = 0 then s else regCount (aBlw p 0x150) n s) with links := tdel s.links p }

/-- RETRAINING's effect (R360): no block has been accepted for 20 µs while blocks are outstanding. -/
def retraining (p : Nat) (s : State) : State :=
  if portState s p = 2 ∧ (linkOf s p).unacked ≠ [] then retrainStart p (advanceTo ((linkOf s p).heard + 20000) s) else s

/-- RETRAINING_END's effect: the port is UP and replay resumes. -/
def retrainingEnd (p : Nat) (s : State) : State :=
  if portState s p = 3 then
    let s := setPortState p 2 s
    let s := trace 1 2 p (now s - (linkOf s p).since) (trace 1 0 p 2 s)
    pump p 9 (replay p (raise (portFault s p 8 2) (modLink p (fun l => { l with replays := 0, heard := now s }) s)))
  else s

/-- RETRAIN_BUDGET's effect. -/
def retrainBudget (p : Nat) (s : State) : State :=
  if portState s p = 3 then
    let st := regRaw s (aBlw p 4)
    let s := trace 1 2 p (now s - (linkOf s p).since) s
    let s := linkDrop p (setStatus p 4 (fld st 8 8) (fld st 15 12) 5 s)
    raise (portFault s p 8 1) s
  else s

/-- A port may train: a torus or buddy port only with a valid position (R370). -/
def mayTrain (s : State) (p : Nat) : Bool := decide (7 < roleOf s p) || bit (regRaw s (aBlw 0 0x8000)) 31

/-- Start the training of a port. -/
def startTraining (p : Nat) (s : State) : State := { setStatus p 1 0 0 0 s with links := tdel s.links p }

/-- A write of BLWp_CFG (R401): none when it is not performed. -/
def blwCfgWrite (p v : Nat) (s : State) : Option State :=
  let old := regRaw s (aBlw p 0)
  let v := Nat.land v 0xF11
  let st := portState s p
  if (fld v 11 8 ≠ fld old 11 8 ∨ bit v 4 ≠ bit old 4) ∧ st ≠ 0 ∧ st ≠ 4 then none
  else if 9 < fld v 11 8 then none
  else
    let s := regPut (aBlw p 0) v s
    if !bit v 0 then some (linkDrop p (setStatus p 0 0 0 0 s))
    else if st = 0 ∧ !bit old 0 ∧ mayTrain s p then some (startTraining p s)
    else some s

/-- Device that the role of a port expects at its other end, and the port there (R371, R372). -/
def expectedPeer (s : State) (p : Nat) : Option (Nat × Nat) :=
  let me := ownDev s
  let x := me % 16
  let y := me / 16 % 16
  let z := me / 256
  let e := p / 8 * 8
  let dev (x y z : Nat) : Nat := z * 256 + y * 16 + x
  match roleOf s p with
  | 1 => some (dev ((x + 1) % dimX s) y z, e + 1)
  | 2 => some (dev ((x + dimX s - 1) % dimX s) y z, e)
  | 3 => some (dev x ((y + 1) % dimY s) z, e + 3)
  | 4 => some (dev x ((y + dimY s - 1) % dimY s) z, e + 2)
  | 5 => some (dev x y ((z + 1) % dimZ s), e + 5)
  | 6 => some (dev x y ((z + dimZ s - 1) % dimZ s), e + 4)
  | 7 => some (dev x y (Nat.xor z 1), e + 6)
  | _ => none

/-- PORT_TRAINING_END's effect. -/
def portTrainingEnd (p : Nat) (r : TrainEnd) (s : State) : State :=
  if portState s p ≠ 1 then s
  else
    let g := fld (regRaw s (aBlw p 0)) 4 4
    let s := regPut (aBlw p 8) (2 ^ 31 + (r.peerPort % 16) <<< 24 + r.peerDev % 4096) s
    let wrong : Bool := match expectedPeer s p with | some (d, k) => decide (r.peerDev ≠ d ∨ r.peerPort ≠ k) | none => false
    if r.lanes ≠ 15 then setStatus p 4 0 r.lanes.toNat 2 s
    else if !r.genMatch then setStatus p 4 0 15 4 s
    else if wrong then setStatus p 4 0 15 3 s
    else setStatus p 2 g 15 0 s

/-- TRAINING_TIMEOUT's effect. -/
def trainingTimeout (p : Nat) (s : State) : State := if portState s p = 1 then setStatus p 4 0 0 1 s else s

/-- TRAINING_RETRY's effect (R566). -/
def trainingRetry (s : State) : State :=
  if !coreRuns s 1 then s
  else (List.range 16).foldl (fun s p =>
    if portState s p = 4 ∧ bit (regRaw s (aBlw p 0)) 0 ∧ mayTrain s p then startTraining p s else s) s

/-! ### Commands -/

def execLinkBlock (p : Nat) (flits : List Byte) (trailer : BitVec 128) (corrected : Option Nat) (s : State) :
    Host.Outcome State Fault Refusal :=
  act (portOk p) s (linkBlock p flits trailer corrected)

def execRetraining (p : Nat) (s : State) : Host.Outcome State Fault Refusal := act (portOk p) s (retraining p)

def execRetrainingEnd (p : Nat) (s : State) : Host.Outcome State Fault Refusal := act (portOk p) s (retrainingEnd p)

def execRetrainBudget (p : Nat) (s : State) : Host.Outcome State Fault Refusal := act (portOk p) s (retrainBudget p)

def execPortTrainingEnd (p : Nat) (result : TrainEnd) (s : State) : Host.Outcome State Fault Refusal :=
  act (portOk p) s (portTrainingEnd p result)

def execTrainingTimeout (p : Nat) (s : State) : Host.Outcome State Fault Refusal := act (portOk p) s (trainingTimeout p)

def execTrainingRetry (s : State) : Host.Outcome State Fault Refusal := act true s trainingRetry

def execPacketSend (p vc : Nat) (s : State) : Host.Outcome State Fault Refusal := act (portOk p && decide (vc < 8)) s (packetSend p vc)

end Sys2Proof.Machine
end

