-- ==== Sys2Proof/Machine/Trap.lean ====
section
/-!
DEFINITION. Traps and stops of a steward, and the return from a trap (R120–R122, Table 3-6).
-/

namespace Sys2Proof.Machine

/-- DETAIL of a steward's record (Table 15-3). -/
def stDetail (pc tval stop cause : Nat) : Nat := pc + tval <<< 64 + stop <<< 128 + cause <<< 132

/-- Class and code of a steward's stop (Table 15-4). -/
def stopRecord (cause : Nat) : Nat × Nat :=
  match cause with
  | 3 => (2, 4)
  | 4 => (2, 3)
  | 5 => (6, 1)
  | _ => (3, 1)

/-- The short form of an address of tile t (Table 3-1), which the program counter holds. -/
def aliasForm (t v : Nat) : Nat :=
  if spdAddr t 0 ≤ v ∧ v < spdAddr t 0 + spdSize then v - spdAddr t 0
  else if aTile t 0 0 ≤ v ∧ v < aTile t 0 0 + 0xB000 then v - aTile t 0 0 + 0x1000000
  else v

/-- Steward n of tile t stops with a cause and a record at a device address: it ceases to execute and keeps its state. -/
def stStopAs (t n cause : Nat) (k : Nat × Nat) (addr : Option Nat) (s : State) : State :=
  let x := stOf s t n
  let s := setSt t n { x with run := .stopped, waitKind := .none, stopCause := cause } s
  let r := withDetail (stDetail x.pc.toNat x.mtval.toNat cause (x.mcause.toNat % 256)) (tileFault s k.1 k.2 (1 + n) t)
  raise (match addr with | some a => atAddr s a r | none => r) s

/-- A stop with the record of its cause, at an offset of the scratchpad. -/
def stStop (t n cause : Nat) (off : Option Nat) (s : State) : State :=
  stStopAs t n cause (stopRecord cause) (off.map (spdAddr t)) s

/-- A stop at an uncorrectable word at an offset, which SPD counts (R291). -/
def stUe (t n cause w : Nat) (s : State) : State := stStop t n cause (some w) (unitUe t (portSt n) w s)

/-- mstatus after a trap from a mode: MPP the mode, MPIE the old MIE, MIE clear. -/
def mstatusTrap (m : Word) (mode : Mode) : Word :=
  let v := m.toNat
  BitVec.ofNat 64 (setFld (setBit (setBit v 7 (bit v 3)) 3 false) 12 11 (match mode with | .machine => 3 | .user => 0))

/-- mstatus after MRET: MIE from MPIE, MPIE set, MPP user, MPRV clear unless the mode returned to is machine. -/
def mstatusRet (m : Word) : Word :=
  let v := m.toNat
  let v1 := setFld (setBit (setBit v 3 (bit v 7)) 7 true) 12 11 0
  BitVec.ofNat 64 (if fld v 12 11 = 3 then v1 else setBit v1 17 false)

/-- The steward with a trap taken: mepc, mcause, mtval, INTRAP; machine mode at mtvec; no reservation. -/
def trapInto (t : Nat) (x : Steward) (cause : Nat) (tval : Nat) : Steward :=
  { x with
    mepc := x.pc
    mcause := BitVec.ofNat 64 cause
    mtval := BitVec.ofNat 64 tval
    intrap := true
    mstatus := mstatusTrap x.mstatus x.mode
    mode := .machine
    pc := BitVec.ofNat 64 (aliasForm t x.mtvec.toNat)
    resv := none
    run := .running
    waitKind := .none
    send := .none }

/-- The device address that an address of tile t means (Table 3-1, Table 15-1). -/
def stDevAddr (t a : Nat) : Nat :=
  let v := aliasForm t a
  if v < spdSize then spdAddr t v
  else if 0x1000000 ≤ v ∧ v < 0x100B000 then aTile t 0 (v - 0x1000000)
  else v % 2 ^ 40

/-- A trap of steward n of tile t (Table 3-6), with the record of an access fault at a device address, if it concerns one; while INTRAP is 1
or mtvec is 0 the steward stops instead. -/
def stTrapAs (t n cause tval : Nat) (rec : Option (Nat × Nat)) (addr : Option Nat) (s : State) : State :=
  let x := stOf s t n
  if x.intrap || x.mtvec == 0 then stStop t n 3 none s
  else
    let s := match rec with
      | some (cls, cd) =>
        raise (withDetail (stDetail x.pc.toNat tval 0 cause)
          { tileFault s cls cd (1 + n) t with addr := addr.map (fun a => (ownDev s, a)) }) s
      | none => s
    setSt t n (trapInto t x cause tval) s

/-- A trap whose mtval is an address, the illegal instruction's bits, or zero. -/
def stTrap (t n cause tval : Nat) (rec : Option (Nat × Nat)) (s : State) : State := stTrapAs t n cause tval rec (some (stDevAddr t tval)) s

/-- An access fault over an operand that is no address (Table 3-6): its record names none. -/
def stTrapOp (t n cause tval : Nat) (rec : Nat × Nat) (s : State) : State := stTrapAs t n cause tval (some rec) none s

/-- The return from a trap (MRET): the mode of MPP at mepc, INTRAP clear. -/
def trapReturn (t : Nat) (x : Steward) : Steward :=
  { x with
    pc := BitVec.ofNat 64 (aliasForm t x.mepc.toNat)
    mode := if fld x.mstatus.toNat 12 11 = 3 then .machine else .user
    mstatus := mstatusRet x.mstatus
    intrap := false }

end Sys2Proof.Machine
end

