-- ==== Sys2Proof/Machine/Fabric.lean ====
section
/-!
DEFINITION. Packets that arrive (R363–R368, R374): their checks, transit, requests and answers, collector credits, messages (R66–R72).
-/

namespace Sys2Proof.Machine

/-! ### Arrival -/

/-- Packets of one channel and class are taken in the order they came (R375): the oldest in the receive buffer, or, with none there, one that
no LINK_BLOCK delivered. -/
def mayTake (s : State) (p : Nat) (k : Packet) : Bool :=
  match (linkOf s p).inbox.find? (fun j => decide (pVc j = pVc k ∧ pClass j = pClass k)) with
  | some j => decide (j = k)
  | none => true

/-- The packet leaves the receive buffer of its port, where the link layer had put it; its credits go back with a block (R367). A packet that
no LINK_BLOCK delivered is only counted. -/
def takeIn (p : Nat) (k : Packet) (s : State) : State :=
  let l := linkOf s p
  if l.inbox.contains k then
    let key := vcKey (pVc k) (pClass k)
    sendBlock p []
      (modLink p (fun l => { l with inbox := l.inbox.erase k, owed := tput l.owed key ((tget l.owed key).getD 0 + pFlits k) }) s)
  else regCount (aBlw p 0x148) (pFlits k) s

/-- OPHDR bits that an opcode lists (Table 12-5, Tables 14-6, 14-7, 15-5, R492, R526). -/
def opMask (opc sub : Nat) : Nat :=
  match opc with
  | 0x01 => mask 11 0
  | 0x02 => mask 3 0 + mask 15 8
  | 0x03 => mask 11 0
  | 0x04 => mask 3 0
  | 0x05 => mask 6 0 + mask 31 16 + mask 47 32 + mask 79 48
  | 0x06 => mask 3 0 + mask 15 8
  | 0x08 => mask 4 0 + mask 15 8 + mask 22 16 + mask 47 32
  | 0x09 => mask 3 0
  | 0x11 => mask 18 0
  | 0x20 => mask 31 0 + mask 95 32
  | 0x21 => mask 31 0 + mask 95 32
  | 0x22 => mask 31 0 + mask 95 32
  | 0x23 => mask 159 32
  | 0x24 => mask 31 0 + mask 95 32
  | 0x28 =>
    match sub with
    | 1 => mask 4 0 + mask 31 16 + mask 111 32
    | 2 => mask 4 0 + mask 31 16 + mask 95 32
    | 8 => mask 31 0
    | 9 => mask 31 0
    | _ => mask 3 0 + mask 31 16 + mask 255 128
  | 0x30 => mask 7 0 + mask 95 32 + mask 151 103
  | 0x38 => mask 63 0
  | 0x39 => mask 191 0
  | 0x40 => mask 4 0 + mask 147 8
  | _ => mask 1 0 + mask 15 8 + mask 31 16 + mask 95 32

/-- Channels of an opcode (Table 12-5). -/
def opVcs (opc : Nat) : List Nat :=
  match opc with
  | 0x01 => [5, 1] | 0x02 => [5, 1, 6] | 0x03 => [5] | 0x04 => [5] | 0x05 => [5, 1] | 0x06 => [5, 1]
  | 0x08 => [0] | 0x09 => [0] | 0x11 => [1]
  | 0x20 => [2] | 0x21 => [2] | 0x22 => [2] | 0x23 => [2] | 0x24 => [2] | 0x28 => [2]
  | 0x30 => [3] | 0x38 => [4] | 0x39 => [4] | 0x40 => [6] | 0x48 => [7]
  | _ => []

/-- Least and greatest payload in flits (Table 12-5). -/
def opPay (opc : Nat) : Nat × Nat :=
  match opc with
  | 0x01 => (1, 64) | 0x04 => (0, 64) | 0x05 => (1, 64) | 0x08 => (1, 1) | 0x28 => (0, 1) | 0x40 => (0, 64) | 0x48 => (0, 64)
  | _ => (0, 0)

/-- Values that a field's definition reserves (R365). -/
def opReserved (k : Packet) : Bool :=
  match pOpc k with
  | 0x01 => decide (pNpay k ≠ (pOp k 267 256 + 64) / 64)
  | 0x08 => decide (20 ≤ pOp k 260 256 ∨ 56 < pOp k 271 264)
  | 0x28 => decide (pOp k 259 256 = 0 ∨ (5 ≤ pOp k 259 256 ∧ pOp k 259 256 ≤ 7) ∨ 10 ≤ pOp k 259 256)
  | 0x30 => decide (pOp k 263 256 = 0 ∨ 4 < pOp k 263 256)
  | 0x40 => decide (8 ≤ pOp k 259 256)
  | 0x48 => decide (pOp k 271 264 = 0 ∨ 3 < pOp k 271 264)
  | _ => false

/-- The packet breaks R365. -/
def packetBad (k : Packet) : Bool :=
  let h := k.hdr.toNat
  let o := pOpc k
  let lim := opPay o
  !(opVcs o).contains (pVc k) || decide (pClass k = 3)
    || decide (fld h 255 168 ≠ 0 ∨ fld h 127 112 ≠ 0 ∨ fld h 87 86 ≠ 0 ∨ bit h 19 ∨ bit h 11)
    || decide (Nat.land (h >>> 256) (2 ^ 256 - 1 - opMask o (fld h 259 256)) ≠ 0)
    || decide (pNpay k < lim.1 ∨ lim.2 < pNpay k ∨ k.pay.length ≠ 64 * pNpay k) || opReserved k

/-- A port of the fabric takes packets: UP and not a pool or spare port (R373). -/
def fabricPort (s : State) (p : Nat) : Bool := portState s p == 2 && decide (1 ≤ roleOf s p ∧ roleOf s p ≤ 7)

/-- A packet that breaks R365 is dropped and counted. -/
def dropBad (p : Nat) (k : Packet) (s : State) : State := regCount (aBlw p 0x138) 1 (takeIn p k s)

/-- A packet with an opcode, of a kind that fits the command, arrives for this module on a fabric port and is well formed: f acts on it. A bad
one is dropped and counted, one with a reserved opcode or kind too (R365). -/
def arrivingAs (p opc : Nat) (fits : Bool) (k : Packet) (f : State → State) (s : State) : State :=
  if !fabricPort s p || !mayTake s p k then s
  else if opVcs (pOpc k) = [] then dropBad p k s
  else if pOpc k ≠ opc ∨ (pDst k ≠ ownDev s ∧ opc ≠ 0x30 ∧ opc ≠ 0x48) ∨ !(fits || opReserved k) then s
  else if packetBad k then dropBad p k s
  else f (takeIn p k s)
def arriving (p opc : Nat) (k : Packet) (f : State → State) (s : State) : State := arrivingAs p opc true k f s

/-- The packet names a context that is current; TEARDOWN counts where `td` says so (R364, R492). -/
def pktCurrent (s : State) (k : Packet) (td : Bool) : Bool :=
  let x := ctxOf s (pCtx k)
  x.gen.toNat == pGen k && decide (x.state ≠ .free) && (td || decide (x.state ≠ .teardown))

/-- The source is a member of the named context's job. -/
def pktMember (s : State) (k : Packet) : Bool := (tget (ctxOf s (pCtx k)).jobMap (pSrc k)).isSome

/-- R364 for a packet that is answered when it is refused: `no` builds the refusal with a STATUS. -/
def checked (p : Nat) (k : Packet) (no : Nat → State → State) (f : State → State) (s : State) : State :=
  if !pktCurrent s k false then no 1 (regCount (aBlw p 0x130) 1 s)
  else if !pktMember s k then no 2 s
  else f s

/-- The refusal of a request with an answer of an opcode. -/
def refuse (k : Packet) (opc : Nat) (status : Nat) (s : State) : State := sendPacket (answerPacket s k opc status []) s

/-! ### Transit (R368, R374) -/

/-- Dimension of a torus role, and whether the packet travels toward + when it comes in by a port of that role. -/
def roleDim (r : Nat) : Nat := (r - 1) / 2

/-- Class of a request on the next link (R368): 1 once the wrap link of the dimension was crossed, 0 in a new dimension. -/
def nextClass (s : State) (p out : Nat) (k : Packet) : Nat :=
  let r := roleOf s p
  if pClass k = 2 then 2
  else if r = 0 ∨ 6 < r ∨ roleDim r ≠ roleDim (roleOf s out) then 0
  else
    let me := ownDev s
    let here := if roleDim r = 0 then me % 16 else if roleDim r = 1 then me / 16 % 16 else me / 256
    let n := if roleDim r = 0 then dimX s else if roleDim r = 1 then dimY s else dimZ s
    -- in by a − port (even role) the packet travels toward +
    let wrapped : Bool := if r % 2 = 0 then decide (here = 0) else decide (here = n - 1)
    if wrapped then 1 else pClass k

/-- TRANSIT's effect: a packet for another module goes on. -/
def transit (p : Nat) (k : Packet) (s : State) : State :=
  if !fabricPort s p || !mayTake s p k || decide (pDst k = ownDev s) || decide (pOpc k = 0x30 ∨ pOpc k = 0x48) then s
  else if packetBad k then dropBad p k s
  else
    let s := takeIn p k s
    match routePort s (pSrc k) (pDst k) with
    | some o => diesPass (64 * pFlits k) (dieRoute (portDie p) (portDie o)) <| queueAt o (pWith (pWith k 95 88 (min 255 (pHops k + 1))) 85 84 (nextClass s p o k)) s
    | none => s

/-! ### Requests (R364) -/

/-- Bytes [a, a + n) are memory of this module that the named context may reach. -/
def pktReach (s : State) (k : Packet) (a n : Nat) : Bool := mayReach s (pCtx k) a n

/-- The reduction fields of a REDUCE packet. -/
def pktRed (k : Packet) : RedReq :=
  { op := pOp k 257 256, ty := pOp k 260 258, seq := decide (pOp k 261 261 = 1), ovw := decide (pOp k 262 262 = 1), slot := pOp k 287 272,
    cntM1 := pOp k 303 288, emask := BitVec.ofNat 32 (pOp k 335 304) }

/-- REDUCE's effect: one request for each line. -/
def reducePacket (p : Nat) (k : Packet) (s : State) : State :=
  arriving p 0x05 k (checked p k (refuse k 6) (fun s =>
    let n := pNpay k
    if !(decide (pAddr k + 64 * n ≤ hbmTop) && pktReach s k (pAddr k) (64 * n)) then refuse k 6 2 s
    else (List.range n).foldl (fun s i =>
      (addAcc (.packet p k.hdr 0 0) (pCtx k) (BitVec.ofNat 16 (pGen k)) (gAt (ownDev s) (pAddr k + 64 * i))
        (.reduce (pktRed k) ((k.pay.drop (64 * i)).take 64)) .todo s).2) s)) s

/-! ### Answers -/

/-- The access of this module that an answer is for. -/
def answered (s : State) (k : Packet) : Option Acc :=
  s.accs.find? (fun a => decide (a.stage = .remote ∧ a.origin ≠ .msg ∧ a.id % 65536 = pTag k ∧ gDev a.addr = pSrc k))

/-- An answer passes R364: it names a context that is current here, and its source is a member. A refusal of STATUS 1 or 2 comes from a module
that may know no context of this one to name, so it is taken by its TAG (DEDUCED: log entry 119). -/
def answerOk (s : State) (k : Packet) (status : Nat) : Bool :=
  status == 1 || status == 2 || (pktCurrent s k false && pktMember s k)

/-- An answer that fails R364 is dropped; for a stale generation it counts. -/
def answerDrop (p : Nat) (k : Packet) (s : State) : State := if pktCurrent s k false then s else regCount (aBlw p 0x130) 1 s

/-- An answer's effect on its access; one whose requester is gone is dropped and counted, and with it the request is over (R492, R493). -/
def answerAcc (p : Nat) (k : Packet) (status sub : Nat) (data : List Byte) (s : State) : State :=
  match answered s k with
  | none => answerDrop p k s
  | some a =>
    if !current s a.ctx a.gen then accDone a status sub data (regCount (aBlw p 0x130) 1 s)
    else if answerOk s k status then accDone a status sub data s
    else answerDrop p k s

/-- The answer to a MIRROR data packet: the book whose packet it was learns the STATUS (R453, R456). -/
def mirrorAnswer (tag status : Nat) (s : State) : State :=
  match (List.range 16).findSome? (fun b => ((bookOf s b).flight.find? (fun f => f.1 = tag)).map (fun f => (b, f.2))) with
  | none => s
  | some (b, op) =>
    let s := modBook b (fun k => { k with flight := k.flight.filter (fun f => f.1 ≠ tag) }) s
    match op with
    | .slot q g =>
      if status ≠ 0 then modBook b (fun k => { k with unprot := true, refused := true }) s
      else
        let s := modBook b (fun k => setSlotMap q (sinsert g (slotMap k q)) k) s
        let m := stepOf s (bookCtx s b)
        if prevStep m % 2 = q % 2 then mirrorCheck b (prevStep m) s else s
    | .entry part m =>
      if status ≠ 0 then pagesRefused b part m (modBook b (fun k => { k with unprot := true, refused := true }) s) else s
    | .pool _ => s
    | .adoptBlock _ => s
    | .restore _ =>
      if status = 0 then s
      else modBook b (fun k => { k with cmd := k.cmd.map (fun c => { c with result := if status = 1 then 9 else 8 }) }) s
    | _ => if status = 0 then s else modBook b (fun k => { k with cmd := k.cmd.map (fun c => { c with result := if status = 1 then 6 else 5 }) }) s

/-- The packet with a TAG belongs to the command of a HALTED book, whose context is gone: R463 lets FETCH run then, so its answers are taken by
TAG (DEDUCED: log entry 119). -/
def haltedCmd (s : State) (tag : Nat) : Bool :=
  (List.range 16).any (fun b =>
    (bookOf s b).cmd.map (·.back) == some .halted && (bookOf s b).flight.any (fun f => f.1 == tag))

/-- WACK's effect. -/
def wackPacket (p : Nat) (k : Packet) (s : State) : State :=
  let st := pOp k 259 256
  if portState s p = 2 ∧ roleOf s p = 8 ∧ pOpc k = 2 ∧ mayTake s p k then mirrorAnswer (pTag k) st (takeIn p k s)
  else arriving p 0x02 k (fun s =>
    if pVc k = 6 then (if answerOk s k st || haltedCmd s (pTag k) then mirrorAnswer (pTag k) st s else answerDrop p k s)
    else answerAcc p k st (pOp k 271 264) [] s) s

/-- RDATA's effect. -/
def rdataPacket (p : Nat) (k : Packet) (s : State) : State :=
  arriving p 0x04 k (fun s =>
    let n := match answered s k with | some a => accLen a | none => 0
    answerAcc p k (pOp k 259 256) 0 (k.pay.take n) s) s

/-- RACK's effect. -/
def rackPacket (p : Nat) (k : Packet) (s : State) : State :=
  arriving p 0x06 k (answerAcc p k (pOp k 259 256) (pOp k 271 264) []) s

/-- CCRED's effect: credits come back (R382). -/
def ccredPacket (p : Nat) (k : Packet) (s : State) : State :=
  arriving p 0x11 k (checked p k (fun _ s => s) (fun s => returnCredits (pTag k == 1) (pCtx k) (pSrc k) (pOp k 274 256) s)) s

/-! ### Messages (R66–R72) -/

/-- Registers of mailbox m and message queue q of tile t (Table 2-10). -/
def aMbox (t m : Nat) : Nat := aTile t 9 (0x400 + 8 * m)
def aMq (t q off : Nat) : Nat := aTile t 9 (0x480 + 0x20 * q + off)

/-- The sender of a local message learns its outcome; a drop raises MSG_DROPPED there (R67, R105). -/
def sendDone (t n id status : Nat) (s : State) : State :=
  let x := stOf s t n
  if x.send = .pending id then
    let s := setSt t n { x with send := .answered status } s
    if status = 6 then raise (withDetail (stDetail x.pc.toNat 0 0 0) (tileFault s 1 6 (1 + n) t)) s else s
  else s

/-- A message has its outcome: its sender is told, here or by MACK. -/
def msgDone (m : Message) (status : Nat) (s : State) : State :=
  match m.port with
  | none => sendDone m.srcTile m.srcSt m.id status s
  | some _ => sendPacket (answerPacket s { hdr := m.hdr, pay := [] } 9 status []) s

/-- Remove a message from its tile. -/
def msgOut (t : Nat) (m : Message) (s : State) : State := modTile t (fun x => { x with msgs := x.msgs.erase m }) s

/-- MAILBOX_DELIVERY's effect: the first message waiting for the mailbox, once FULL is clear (R66, R67). -/
def mailboxDelivery (t m : Nat) (s : State) : State :=
  let ctl := regRaw s (aMbox t m)
  match (tileOf s t).msgs.find? (fun x => x.target = m) with
  | none => s
  | some x =>
    if bit ctl 0 then s
    else if !bit ctl 1 || decide (fld ctl 43 32 ≠ x.srcDev ∨ fld ctl 22 16 ≠ x.srcTile) then msgDone x 6 (msgOut t x s)
    else
      let s := regPutWords (aTile t 9 (0x40 * m)) (words64 (ofBytes x.data) 8) (msgOut t x s)
      msgDone x 0 (regPut (aMbox t m) (setBit ctl 0 true) s)

/-- Entry of a message queue (Table 2-12). -/
def mqEntry (x : Message) : List Byte :=
  toBytes 8 (x.srcRank + x.srcTile <<< 12 + x.srcSt <<< 19 + x.seq <<< 24 + x.len <<< 40)
    ++ fitBytes 56 (x.data.take x.len)

/-- MESSAGE_QUEUE_ENTRY's effect (R68, R70, R71): the entry is written and TAIL advances; bytes that lie in a closed version buffer stay (R274), and the
message counts as entered (DESIGN CHOICE: log entry 122). -/
def messageQueueEntry (t q : Nat) (s : State) : State :=
  let cfg := regRaw s (aMq t q 8)
  let depth := 2 ^ fld cfg 3 0
  let head := regRaw s (aMq t q 0x10)
  let tail := regRaw s (aMq t q 0x18)
  match (tileOf s t).msgs.find? (fun x => x.target = 16 + q) with
  | none => s
  | some x =>
    if !bit cfg 8 then msgDone x 6 (msgOut t x s)
    else if depth ≤ (tail + 2 * depth - head) % (2 * depth) then s
    else
      let s := portStoreOpen t portIn (fld (regRaw s (aMq t q 0)) 22 6 <<< 6 + 64 * (tail % depth)) (mqEntry x) (msgOut t x s)
      msgDone x 0 (regPut (aMq t q 0x18) ((tail + 1) % (2 * depth)) s)

/-- MSG's effect: a checked message waits at its tile. -/
def msgPacket (p : Nat) (k : Packet) (s : State) : State :=
  arriving p 0x08 k (checked p k (refuse k 9) (fun s =>
    let t := pOp k 278 272
    if !bit (ctxTiles s (pCtx k)) t then refuse k 9 2 s
    else
      let (id, s) := freshId s
      let m : Message := { id := id, target := pOp k 260 256, srcDev := pSrc k, srcTile := pTile k, srcSt := pSt k, srcRank := pRank k,
                           len := pOp k 271 264, seq := pOp k 303 288, data := k.pay, port := some p, hdr := k.hdr }
      flitCount 0 (aRtr t 0x08) 64 (diesPass 64 (dieRoute (portDie p) (tileDie t)) (modTile t (fun x => { x with msgs := x.msgs ++ [m] }) s)))) s

/-- MACK's effect. -/
def mackPacket (p : Nat) (k : Packet) (s : State) : State :=
  arriving p 0x09 k (fun s =>
    let s := { s with accs := s.accs.filter (fun a => !(a.origin == .msg && a.id % 65536 == pTag k && gDev a.addr == pSrc k)) }
    match (stOf s (pTile k) (pSt k)).send with
      | .pending id =>
        if id % 65536 ≠ pTag k then s
        else if answerOk s k (pOp k 259 256) then sendDone (pTile k) (pSt k) id (pOp k 259 256) s
        else answerDrop p k s
      | _ => answerDrop p k s) s

/-! ### Commands -/

def execMailboxDelivery (t m : Nat) (s : State) : Host.Outcome State Fault Refusal := act (tileOk t && decide (m < 16)) s (mailboxDelivery t m)

def execMessageQueueEntry (t q : Nat) (s : State) : Host.Outcome State Fault Refusal := act (tileOk t && decide (q < 4)) s (messageQueueEntry t q)

def execTransit (p : Nat) (pkt : Packet) (s : State) : Host.Outcome State Fault Refusal := act (portOk p) s (transit p pkt)

def execWack (p : Nat) (pkt : Packet) (s : State) : Host.Outcome State Fault Refusal := act (portOk p) s (wackPacket p pkt)

def execRdata (p : Nat) (pkt : Packet) (s : State) : Host.Outcome State Fault Refusal := act (portOk p) s (rdataPacket p pkt)

def execReduce (p : Nat) (pkt : Packet) (s : State) : Host.Outcome State Fault Refusal := act (portOk p) s (reducePacket p pkt)

def execRack (p : Nat) (pkt : Packet) (s : State) : Host.Outcome State Fault Refusal := act (portOk p) s (rackPacket p pkt)

def execMsg (p : Nat) (pkt : Packet) (s : State) : Host.Outcome State Fault Refusal := act (portOk p) s (msgPacket p pkt)

def execMack (p : Nat) (pkt : Packet) (s : State) : Host.Outcome State Fault Refusal := act (portOk p) s (mackPacket p pkt)

def execCcred (p : Nat) (pkt : Packet) (s : State) : Host.Outcome State Fault Refusal := act (portOk p) s (ccredPacket p pkt)

end Sys2Proof.Machine
end

