-- ==== Sys2Proof/Machine/Control.lean ====
section
/-!
DEFINITION. Control packets (R393–R397, R457–R459, R486–R492), Meridian synchronisation (R386–R391) and the management channel (R526, R527).
-/

namespace Sys2Proof.Machine

/-! ### The waypoint tree -/

/-- A control packet that names a context of this module. -/
def ctlArrive (p opc : Nat) (k : Packet) (f : Nat → State → State) (s : State) : State :=
  arriving p opc k (checked p k (fun _ s => s) (f (pCtx k))) s

/-- INDEX, STEP, and the tick of ARRIVE, RELEASE, HOLD, CLEAR. -/
def kIdx (k : Packet) : Nat := pOp k 271 256
def kStep (k : Packet) : Nat := pOp k 287 272
def kTime (k : Packet) : Nat := pOp k 351 288

/-- A child's report takes the place of an earlier one of the same waypoint. -/
def childReport (c : Nat) (h : ChildArr) (s : State) : State :=
  let x := ctxOf s c
  if !(childRanks x.rank x.members).contains h.rank then s
  else
    wpTouch c (modCtx c (fun x => { x with
      children := x.children.filter (fun o => !decide (o.idx = h.idx ∧ o.step = h.step ∧ o.rank = h.rank)) ++ [h] }) s)

/-- ARRIVE's effect (R393). -/
def arrivePacket (p : Nat) (k : Packet) (s : State) : State :=
  ctlArrive p 0x20 k (fun c s => childReport c { idx := kIdx k, step := kStep k, rank := pRank k, time := kTime k, vote := none } s) s

/-- The record of a tick that comes too late (R394). -/
def lateRelease (c idx tick : Nat) (s : State) : State := raise (ctxFault s c 7 2 (ctxDetail idx 0 0 tick (now s))) s

/-- A release tick for waypoint idx of a step reaches this member: it goes on to the children, and holds here unless it is past. -/
def releaseAt (c idx step tick : Nat) (s : State) : State :=
  let x := ctxOf s c
  if x.next ≠ .at idx ∨ step ≠ stepOf s c % 65536 then s
  else if tick < now s then lateRelease c idx tick s
  else modCtx c (fun x => { x with relTick := some tick }) s

/-- RELEASE's effect (R393, R394). -/
def releasePacket (p : Nat) (k : Packet) (s : State) : State :=
  ctlArrive p 0x21 k (fun c s =>
    releaseAt c (kIdx k) (kStep k) (kTime k) (sendDown c 0x21 (opWp (kIdx k) (kStep k) (kTime k)) s)) s

/-- HOLD's effect (R395–R397): from the root, the notice; from below, a request on its way to the root. -/
def holdPacket (p : Nat) (k : Packet) (s : State) : State :=
  ctlArrive p 0x22 k (fun c s =>
    let x := ctxOf s c
    if x.rank = 0 then rootRequest c (pRank k) (kIdx k) (kStep k) (kTime k) s
    else if (pRank k = parentRank x.rank) then holdNotice c (kTime k) (kIdx k) (kStep k) s
    else sendControl c (parentRank x.rank) 0x22 (opWp (kIdx k) (kStep k) (kTime k)) (pRank k) s) s

/-- CLEAR's effect (R396). -/
def clearPacket (p : Nat) (k : Packet) (s : State) : State :=
  ctlArrive p 0x24 k (fun c s =>
    let x := ctxOf s c
    if x.rank = 0 then rootClear c (pRank k) (kIdx k) (kStep k) (kTime k) s
    else sendControl c (parentRank x.rank) 0x24 (opWp (kIdx k) (kStep k) (kTime k)) (pRank k) s) s

/-- RESUME's effect (R397, R486): ignored by an aborted context; late, it leaves a record. -/
def resumePacket (p : Nat) (k : Packet) (s : State) : State :=
  ctlArrive p 0x23 k (fun c s =>
    let start := pOp k 351 288
    let tres := pOp k 415 352
    if aborted s c then s
    else
      let s := sendDown c 0x23 (opResume start tres) s
      if tres < now s then lateRelease c 0 tres s
      else modCtx c (fun x => { x with resumeAt := some (start, tres) }) s) s

/-! ### CTLX (R459, R492) -/

/-- A CTLX packet of a SUB. -/
def ctlxArrive (p sub : Nat) (k : Packet) (f : Nat → State → State) (s : State) : State :=
  arrivingAs p 0x28 (pOp k 259 256 == sub) k (checked p k (fun _ s => s) (f (pCtx k))) s

/-- PREPARE's effect (R457): a child's vote and latest arrival. -/
def preparePacket (p : Nat) (k : Packet) (s : State) : State :=
  ctlxArrive p 1 k (fun c s =>
    let v : Vote := { yes := decide (pOp k 260 260 = 1), noRank := pOp k 363 352, cause := pOp k 367 364 }
    childReport c { idx := wpC (ctxOf s c), step := kStep k, rank := pRank k, time := kTime k, vote := some v } s) s

/-- DECIDE's effect (R458). The packet carries no NO_RANK and no CAUSE (Table 14-7), so an ABORT's record names a free rank of the job and one
of the two causes (DESIGN CHOICE: log entry 67). -/
def decidePacket (p : Nat) (k : Packet) (s : State) : State :=
  ctlxArrive p 2 k (fun c s =>
    let commit := decide (pOp k 260 260 = 1)
    let s := sendDown c 0x28 (opDecide commit (kStep k) (kTime k)) s
    if commit then releaseAt c (wpC (ctxOf s c)) (kStep k) (kTime k) s
    else if kStep k = stepOf s c % 65536 then
      let (r, s) := freeBits 12 s
      let (b, s) := freeBits 1 s
      commitAbort c { yes := false, noRank := r % (ctxOf s c).members, cause := 1 + b } s
    else s) s

/-- DIGEST's effect (R449): the digest of PRED is kept for the vote. -/
def digestPacket (p : Nat) (k : Packet) (s : State) : State :=
  ctlxArrive p 3 k (fun c s =>
    match runningBook s c with
    | none => s
    | some b => modBook b (fun x => match x.plan with
      | some pl => if pRank k = pl.pred then { x with predDig := some (kStep k, BitVec.ofNat 128 (pOp k 511 384)) } else x
      | none => x) s) s

/-- AUDIT's effect (R451): the owner's audit digest is kept for the vote. -/
def auditPacket (p : Nat) (k : Packet) (s : State) : State :=
  ctlxArrive p 4 k (fun c s =>
    match runningBook s c with
    | none => s
    | some b => modBook b (fun x => match x.plan with
      | some pl => if pRank k = pl.partner then { x with peerAud := some (kStep k, BitVec.ofNat 128 (pOp k 511 384)) } else x
      | none => x) s) s

/-- TD_ACK to the sender of a notice: departing rank, STEP and TAG echoed. -/
def sendTdAck (k : Packet) (s : State) : State :=
  let x := ctxOf s (pCtx k)
  let e := if x.gen.toNat = pGen k then tget x.jobMap (pSrc k) else none
  sendPacket (mkPacket s { opc := 0x28, vc := 2, dst := pSrc k, ctx := (e.map (·.ctx)).getD 0, gen := (e.map (·.gen.toNat)).getD 0,
                           rank := x.rank, tag := pTag k, op := opTd 9 (pOp k 271 260) (kStep k) } []) s

/-- TD_NOTICE's effect (R364, R486, R492): the member aborts its context, unless that is in TEARDOWN itself, and answers. A notice refused
under R364 counts as answered: its answer says so. -/
def tdNoticePacket (p : Nat) (k : Packet) (s : State) : State :=
  arrivingAs p 0x28 (pOp k 259 256 == 8) k (fun s =>
    if !pktCurrent s k true then sendTdAck k (regCount (aBlw p 0x130) 1 s)
    else if !pktMember s k ∨ (ctxOf s (pCtx k)).state = .teardown then sendTdAck k s
    else
      let c := pCtx k
      sendTdAck k (raise (ctxFault s c 7 5 0) (abortCtx c s))) s

/-- TD_ACK's effect (R492): it names the waiting context by its header, or, from a module that holds no such member any more, by TAG. -/
def tdAckPacket (p : Nat) (k : Packet) (s : State) : State :=
  arrivingAs p 0x28 (pOp k 259 256 == 9) k (fun s =>
      let c := if pktCurrent s k true then pCtx k else pTag k % 16
      let x := ctxOf s c
      match tget x.jobMap (pSrc k) with
      | some e =>
        if x.state = .teardown ∧ pOp k 271 260 = x.rank ∧ kStep k = stepOf s c % 65536 then noticeAnswered c e.rank s else s
      | none => s) s

/-! ### Aborts (R486–R489) -/

/-- Contexts that an ABORT from a device aborts (R488). -/
def abortMeets (s : State) (dev octx ogen : Nat) (all : Bool) (c : Nat) : Bool :=
  let x := ctxOf s c
  decide (x.state ≠ .free ∧ x.state ≠ .teardown) &&
    (match tget x.jobMap dev with
      | some e => all || (decide (e.ctx = octx) && e.gen.toNat == ogen)
      | none => false)

/-- A context aborts because an ABORT names its job: with the record of R486. -/
def abortReceived (dev c : Nat) (s : State) : State :=
  let s := abortCtx c s
  raise { ctxFault s c 7 4 0 with addr := some (dev, 0) } s

/-- ABORT's effect: a flood that was not seen before is acted on and goes on by every other port (R488, R489). -/
def abortPacket (p : Nat) (k : Packet) (s : State) : State :=
  arriving p 0x30 k (fun s =>
    let dev := pOp k 370 359
    let pair := (dev, pOp k 407 392)
    if s.floods.contains pair then s
    else
      let s := { s with floods := seePair s.floods pair }
      let s := (List.range 16).foldl (fun s c =>
        if abortMeets s dev (pOp k 374 371) (pOp k 390 375) (decide (pOp k 391 391 = 1)) c then abortReceived dev c s else s) s
      sendOn ((floodPorts s).filter (· ≠ p)) k s) s

/-! ### Meridian time (R386–R391) -/

def aMer (off : Nat) : Nat := aGlob (0x200000 + off)
def merLocked (s : State) : Bool := bit (regRaw s (aMer 8)) 0
def merRoot (s : State) : Bool := bit (regRaw s (aMer 8)) 1
def parentPort (s : State) : Nat := fld (regRaw s (aMer 8)) 15 12
/-- A change of MER_STATUS; the link manager passes its trace point when the lock or the root changes. -/
def merStatus (f : Nat → Nat) (s : State) : State :=
  let old := regRaw s (aMer 8)
  let s := regMod (aMer 8) f s
  let v := regRaw s (aMer 8)
  if bit v 0 = bit old 0 ∧ bit v 1 = bit old 1 ∧ fld v 27 16 = fld old 27 16 then s else trace 1 3 v (fld v 27 16) s
def modMer (f : Meridian → Meridian) (s : State) : State := { s with mer := f s.mer }

/-- A context is READY, RUNNING or HELD. -/
def anyActive (s : State) : Bool :=
  (List.range 16).any (fun c => decide ((ctxOf s c).state = .ready ∨ (ctxOf s c).state = .running ∨ (ctxOf s c).state = .held))

/-- A timestamp in units of 1/16 ns by the module's own clock, no earlier than now nor than a bound, and the state at its tick
(DESIGN CHOICE: log entry 120). -/
def stamped (t least : Nat) (s : State) : Nat × State :=
  let v := max t (max (16 * now s) least)
  (v % 2 ^ 64, advanceTo (v / 16) s)

/-- MERIDIAN_EXCHANGE's effect: MSYNC leaves for the parent at t1, 2^INTERVAL_LOG2 ticks after the last exchange at the earliest (R388). -/
def meridianExchange (t1 : Nat) (s : State) : State :=
  if merRoot s then s
  else
    let p := parentPort s
    let dst := fld (regRaw s (aBlw p 8)) 11 0
    if portState s p ≠ 2 then s
    else
      let least := match s.mer.lastEx with | some e => 16 * (e + 2 ^ fld (regRaw s (aMer 0x20)) 4 0) | none => 0
      let (v, s) := stamped t1 least s
      queueAt p (mkPacket s { opc := 0x38, vc := 4, dst := dst, op := v } []) (modMer (fun m => { m with t1 := some v, lastEx := some (now s) }) s)

/-- MSYNC's effect: received at t2, answered at t3, by this module's clock. -/
def msyncPacket (p : Nat) (k : Packet) (t2 t3 : Nat) (s : State) : State :=
  arriving p 0x38 k (fun s =>
    let (v2, s) := stamped t2 0 s
    let (v3, s) := stamped t3 v2 s
    let op := pOp k 319 256 + v2 <<< 64 + v3 <<< 128
    queueAt p (mkPacket s { opc := 0x39, vc := 4, dst := pSrc k, op := op } []) s) s

/-- The lock is lost (R391). -/
def lockLost (s : State) : State :=
  if !merLocked s then s
  else
    let s := regCount (aMer 0x28) 1 (merStatus (fun v => setBit v 0 false) (modMer (fun m => { m with good := 0 }) s))
    raise (blankFault s 7 3 0x21 4) s

/-- Correct an offset by the rate (R389): the rate is left open but for its bound of 0.1 %. -/
def rateAdjust (s : State) : State :=
  let (v, s) := freeBits 32 s
  let r : Int := (v % 8589935 : Nat) - 4294967
  regPut (aMer 0x18) (wrap 32 r) s

/-- Correct an offset at once (R389), in units of 1/16 ns: forward, or by a stop until the parent's time is there. -/
def stepAtOnce (off : Int) (s : State) : State :=
  if 0 < off then setNow (now s + (off / 16).toNat) s
  else if off < 0 then modMer (fun m => { m with stopTo := some (now s) }) s
  else s

/-- An exchange gives an offset: LOCKED is judged, then the correction is made (R389, R391). -/
def offsetFound (off : Int) (s : State) : State :=
  let s := regFld (aMer 8) 2 2 0 (regPut (aMer 0x10) (wrap 32 off) s)
  let s := if 16000 < off.natAbs then lockLost s else s
  let tol := fld (regRaw s (aMer 0x20)) 15 8 * 16
  let was := merLocked s
  let s := modMer (fun m => { m with good := if off.natAbs ≤ tol then min 8 (m.good + 1) else 0 }) s
  let s := if s.mer.good = 8 then merStatus (fun v => setBit v 0 true) s else s
  if !was && !anyActive s then stepAtOnce off s else rateAdjust s

/-- MRESP's effect, received at t4 by this module's clock (R388). -/
def mrespPacket (p : Nat) (k : Packet) (t4 : Nat) (s : State) : State :=
  arriving p 0x39 k (fun s =>
    if s.mer.t1 ≠ some (pOp k 319 256) ∨ p ≠ parentPort s then s
    else
      let t1 : Int := pOp k 319 256
      let t2 : Int := pOp k 383 320
      let t3 : Int := pOp k 447 384
      let (v4, s) := stamped t4 0 s
      let t4 : Int := v4
      let delay := ((t4 - t1) - (t3 - t2)) / 2
      let off := ((t2 - t1) + (t3 - t4)) / 2
      offsetFound off (regPut (aBlw p 0x10) (wrap 24 delay) (modMer (fun m => { m with t1 := none, lastAns := now s }) s))) s

/-- COUNTER_RESUME's effect. -/
def counterResume (s : State) : State := modMer (fun m => { m with stopTo := none }) s

/-- PARENT_TIMEOUT's effect, 100 ms after the last answer: the rate is kept, HOLDOVER is set. -/
def parentTimeout (s : State) : State :=
  if merRoot s then s
  else regFld (aMer 8) 2 2 1 (lockLost (modMer (fun m => { m with t1 := none }) (advanceTo (s.mer.lastAns + 100000000) s)))

/-! ### The time root (R387, R527) -/

/-- The least device id learned within the last 100 ms, the own one included. -/
def leastLearned (s : State) : Nat :=
  s.mer.least.foldl (fun m e => if now s ≤ e.2 + 100000000 then min m e.1 else m) (ownDev s)

/-- The E0 port toward a device, stepping in Z first, then Y, then X. -/
def parentOf (s : State) (dst : Nat) : Option Nat :=
  let me := ownDev s
  match direction (dimZ s) (me / 256) (dst / 256) with
  | some d => some (4 + d)
  | none =>
    match direction (dimY s) (me / 16 % 16) (dst / 16 % 16) with
    | some d => some (2 + d)
    | none => direction (dimX s) (me % 16) (dst % 16)

/-- The time root is the least id known; MER_STATUS names it and the parent's port. An election waits for the link manager to run. -/
def electRoot (s : State) : State :=
  if !coreRuns s 1 then s else
  let r := leastLearned s
  let p := (parentOf s r).getD 0
  merStatus (fun v => setFld (setFld (setBit v 1 (decide (r = ownDev s))) 15 12 p) 27 16 r) s

/-- A MGMT packet of a kind, for a device (R526). -/
def mgmtPacket (s : State) (svc kind tag time dst : Nat) : Packet :=
  mkPacket s { opc := 0x48, vc := 7, dst := dst, op := svc + kind <<< 8 + (tag % 65536) <<< 16 + (time % 2 ^ 64) <<< 32 } []

/-- ROOT_CLAIM_SEND's effect: the claim goes to the link manager beyond every UP torus and buddy port. -/
def rootClaimSend (s : State) : State :=
  if !coreRuns s 1 then s else
  let s := electRoot s
  (floodPorts s).foldl (fun s p => queueAt p (mgmtPacket s 1 1 (leastLearned s) 0 (fld (regRaw s (aBlw p 8)) 11 0)) s) s

/-- A device id lies inside the machine. -/
def validDev (s : State) (d : Nat) : Bool := decide (d % 16 < dimX s ∧ d / 16 % 16 < dimY s ∧ d / 256 < dimZ s)

/-- A MGMT packet of a kind, on a port of torus or buddy role, from a valid position (R526). -/
def mgmtArrive (p kind : Nat) (k : Packet) (f : State → State) (s : State) : State :=
  arrivingAs p 0x48 (pOp k 271 264 == kind) k (fun s => if validDev s (pSrc k) then f s else s) s

/-- ROOT_CLAIM's effect. -/
def rootClaimPacket (p : Nat) (k : Packet) (s : State) : State :=
  mgmtArrive p 1 k (fun s => electRoot (modMer (fun m => { m with least := tput m.least (pOp k 287 272 % 4096) (now s) }) s)) s

/-- FW_DATA's effect: it reaches the core that SVC names. -/
def fwDataPacket (p : Nat) (k : Packet) (s : State) : State :=
  mgmtArrive p 2 k (fun s =>
    { s with compass := { s.compass with mgmtIn := s.compass.mgmtIn ++ [(pOp k 257 256, k)] } }) s

/-! ### Commands -/

/-- The outcome of a command that also acts while a chip reset runs. -/
def actPowered (ok : Bool) (s : State) (f : State → State) : Host.Outcome State Fault Refusal :=
  actAny ok s (fun s => if s.pins.pwrEn then f s else s)

def execArrive (p : Nat) (pkt : Packet) (s : State) : Host.Outcome State Fault Refusal := act (portOk p) s (arrivePacket p pkt)

def execRelease (p : Nat) (pkt : Packet) (s : State) : Host.Outcome State Fault Refusal := act (portOk p) s (releasePacket p pkt)

def execHold (p : Nat) (pkt : Packet) (s : State) : Host.Outcome State Fault Refusal := act (portOk p) s (holdPacket p pkt)

def execClear (p : Nat) (pkt : Packet) (s : State) : Host.Outcome State Fault Refusal := act (portOk p) s (clearPacket p pkt)

def execResume (p : Nat) (pkt : Packet) (s : State) : Host.Outcome State Fault Refusal := act (portOk p) s (resumePacket p pkt)

def execPrepare (p : Nat) (pkt : Packet) (s : State) : Host.Outcome State Fault Refusal := act (portOk p) s (preparePacket p pkt)

def execDecide (p : Nat) (pkt : Packet) (s : State) : Host.Outcome State Fault Refusal := act (portOk p) s (decidePacket p pkt)

def execDigest (p : Nat) (pkt : Packet) (s : State) : Host.Outcome State Fault Refusal := act (portOk p) s (digestPacket p pkt)

def execAudit (p : Nat) (pkt : Packet) (s : State) : Host.Outcome State Fault Refusal := act (portOk p) s (auditPacket p pkt)

def execTdNotice (p : Nat) (pkt : Packet) (s : State) : Host.Outcome State Fault Refusal := act (portOk p) s (tdNoticePacket p pkt)

def execTdAck (p : Nat) (pkt : Packet) (s : State) : Host.Outcome State Fault Refusal := act (portOk p) s (tdAckPacket p pkt)

def execAbort (p : Nat) (pkt : Packet) (s : State) : Host.Outcome State Fault Refusal := actPowered (portOk p) s (abortPacket p pkt)

def execMeridianExchange (t1 : Nat) (s : State) : Host.Outcome State Fault Refusal := act true s (meridianExchange t1)

def execMsync (p : Nat) (pkt : Packet) (t2 t3 : Nat) (s : State) : Host.Outcome State Fault Refusal :=
  actPowered (portOk p) s (msyncPacket p pkt t2 t3)

def execMresp (p : Nat) (pkt : Packet) (t4 : Nat) (s : State) : Host.Outcome State Fault Refusal :=
  act (portOk p) s (mrespPacket p pkt t4)

def execCounterResume (s : State) : Host.Outcome State Fault Refusal := actPowered true s counterResume

def execParentTimeout (s : State) : Host.Outcome State Fault Refusal := act true s parentTimeout

def execRootClaimSend (s : State) : Host.Outcome State Fault Refusal := act true s rootClaimSend

def execRootClaim (p : Nat) (pkt : Packet) (s : State) : Host.Outcome State Fault Refusal := act (portOk p) s (rootClaimPacket p pkt)

def execFwData (p : Nat) (pkt : Packet) (s : State) : Host.Outcome State Fault Refusal := act (portOk p) s (fwDataPacket p pkt)

end Sys2Proof.Machine
end

