-- ==== Sys2Proof/Machine/Recover.lean ====
section
/-!
DEFINITION. Step plans, book commands, mirror traffic at its receivers, and the vote (R438–R475).
-/

namespace Sys2Proof.Machine

/-! ### The step plan (R438, R439) -/

/-- Region entry i of the plan at an address, with its raw bits. -/
def planEntry (s : State) (a i : Nat) : Nat := ofBytes (hbmRead s (a + 64 + 16 * i) 16)
def planRegion (e : Nat) : Region :=
  { kind := fld e 3 0, base0 := fld e 87 48, base1 := fld e 127 88, len := (fld e 31 16 + 1) * 0x200000 }

/-- Byte ranges that a region takes. -/
def regionSpans (r : Region) : List (Nat × Nat) :=
  if r.kind = 3 then [(r.base0, r.base0 + r.len), (r.base1, r.base1 + r.len)] else [(r.base0, r.base0 + r.len)]

/-- No two ranges of a list overlap. -/
def spansApart : List (Nat × Nat) → Bool
  | [] => true
  | x :: r => r.all (fun y => !rangesMeet x y) && spansApart r

/-- Lengths of the regions of a kind. -/
def planLen (l : List Region) (k : Nat) : Nat := (l.filter (fun r => r.kind = k)).foldl (fun n r => n + r.len) 0

/-- The plan at FBK_Bb_PLAN for the bound context, if it is valid. -/
def readPlan (s : State) (b : Nat) : Option Plan :=
  let c := bookCtx s b
  let x := ctxOf s c
  let a := fld (regRaw s (aFbk b 0x10)) 39 6 <<< 6
  let h := ofBytes (hbmRead s a 64)
  let n := fld h 52 48
  let es := (List.range n).map (planEntry s a)
  let rs := es.map planRegion
  let spans := rs.flatMap regionSpans
  let p : Plan := {
    replay := fld h 271 232, resume := fld h 231 192, every := fld h 175 160, jobTag := fld h 159 128, ckptRepl := bit h 117,
    audit := bit h 116, succ := fld h 115 104, pred := fld h 103 92, partner := fld h 91 80, uwp := fld h 79 64, regions := rs }
  let nt := (x.tensors.map (·.nt)).getD 0
  let rep := 2 * (planLen rs 2 + 128 * nt)
  let lastClose := (List.range x.wps.length).foldl (fun m i =>
    match x.wps[i]? with | some e => if e.kind = .mbClose then i + 1 else m | none => m) 0
  let uwpOk : Bool := match x.wps[p.uwp]? with
    | some e => decide (e.kind = .job ∧ lastClose ≤ p.uwp ∧ p.uwp < wpC x)
    | none => false
  let header := decide (fld h 31 0 = 0x5054534B ∧ fld h 47 32 = 1 ∧ 1 ≤ n ∧ n ≤ 24 ∧ fld h 63 53 = 0 ∧ fld h 127 118 = 0
    ∧ fld h 191 176 = 0 ∧ fld h 511 272 = 0 ∧ p.replay % 64 = 0 ∧ p.resume % 64 = 0)
  let entry (e : Nat) : Bool := decide (fld e 15 4 = 0 ∧ fld e 47 32 = 0 ∧ 1 ≤ fld e 3 0 ∧ fld e 3 0 ≤ 5
    ∧ (fld e 3 0 = 3 ∨ fld e 127 88 = 0) ∧ fld e 87 48 % 0x200000 = 0 ∧ fld e 127 88 % 0x200000 = 0)
  let aside (lo len : Nat) : Bool := inPartition s c lo len && spans.all (fun y => !rangesMeet (lo, lo + len) y)
  if inPartition s c a (64 + 16 * n) && header && es.all entry && spans.all (fun y => inPartition s c y.1 (y.2 - y.1)) && spansApart spans
      && uwpOk && decide (p.partner < x.members ∧ p.pred < x.members ∧ p.succ < x.members ∧ p.partner ≠ x.rank)
      && (!p.audit || rs.any (fun r => r.kind = 5)) && aside p.resume 64 && (decide (rep = 0) || aside p.replay rep)
  then some p else none

/-! ### Binding and running (R441, R474) -/

/-- Ranges of the other books. -/
def otherBookRanges (s : State) (b : Nat) : List (Nat × Nat) :=
  ((List.range 16).filter (· ≠ b)).flatMap (fun d => (List.range 4).filterMap (bookRange s d))

/-- The ranges of a book overlap no context, queue range or other book, and are large enough for a plan (Table 14-10). -/
def bookRangesOk (s : State) (b : Nat) (p : Plan) : Bool :=
  let used := (List.range 16).flatMap (fun c => if (ctxOf s c).state = .free then [] else ctxHalfRanges s c)
    ++ (List.range 16).filterMap (fnRange s) ++ otherBookRanges s b
  let need (i : Nat) : Nat := if i < 2 then 2 * entrySize (bookNt s b) p else 4096 * exBlocks p
  (List.range 4).all (fun i => match bookRange s b i with
    | some r => decide (r.1 + need i ≤ r.2 ∧ r.2 ≤ hbmTop) && used.all (fun u => !rangesMeet r u)
    | none => decide (need i = 0))

/-- STATUS.RESULT. -/
def setBookResult (b code : Nat) (s : State) : State := modBook b (fun k => { k with result := code }) s

/-- EN is set on a BOUND book: the plan is read and checked, and the book runs. -/
def enableBook (b : Nat) (s : State) : State :=
  match readPlan s b with
  | none => setBookResult b 2 s
  | some p =>
    if !bookRangesOk s b p then setBookResult b 3 s
    else pairBook b (regFld (aFbk b 0) 0 0 1 (modBook b (fun k => { k with
      state := .running, plan := some p, rank := (ctxOf s (bookCtx s b)).rank, refused := false, result := 0 }) s))

/-- A write of FBK_Bb_CTL: none when it is not performed. -/
def bookCtlWrite (b v : Nat) (s : State) : Option State :=
  let c := fld v 19 16
  match (bookOf s b).state with
  | .bound => if bit v 0 && bit v 8 && decide (c = bookCtx s b) then some (enableBook b s) else none
  | .running => none
  | .busy => none
  | _ =>
    if bit v 8 then
      if (ctxOf s c).state = .ready then
        let s := modBook b (fun k => { k with state := .bound }) (regPut (aFbk b 0) (2 ^ 8 + c <<< 16) s)
        some (if bit v 0 then enableBook b s else s)
      else none
    else if bit v 0 then none
    else some (regPut (aFbk b 0) (c <<< 16) s)

/-- A write of another configuration register: only while the book is UNBOUND or HALTED. -/
def bookCfgFree (s : State) (b : Nat) : Bool :=
  match (bookOf s b).state with
  | .unbound => true
  | .halted => true
  | _ => false

/-! ### Commands (R463, Table 14-9) -/

/-- RESUME n: the kind of the resume, or a refusal. -/
def resumeCheck (s : State) (b n : Nat) (p : Plan) : Except Nat Nat :=
  let k := bookOf s b
  let nt := bookNt s b
  let key := entryKey s b 0 p n
  let mine := decide (key % 2 ^ 64 = n)
  let kind := if decide (n ≤ regRaw s (aFbk b 0x60)) && mine && bit key 130 && !bit key 134 then 2 else 1
  let (first, target) := resumeSpan k n kind
  let steps := if first ≤ target then (List.range (target + 1 - first)).map (first + ·) else []
  let replayed (m : Nat) : Bool :=
    let e := entryKey s b 0 p m
    decide (e % 2 ^ 64 = m) && bit e 128 && bit e 130
  if !mine || !bit key 128 || (nt != 0 && !bit key 131 && kind == 2) then .error 4
  else if kind = 2 ∧ !bit key 132 ∧ !steps.contains n then .error 4
  else if !steps.all replayed then .error 4
  else .ok kind

/-- A command of the book begins: the book is BUSY. -/
def beginCmd (b op arg : Nat) (p : Plan) (s : State) : State :=
  modBook b (fun k => { k with
    state := .busy, plan := some p
    cmd := some { op := op, arg := arg, back := k.state, slotOf := none, labels := [], result := 0 } }) s

/-- The command's result so far. -/
def cmdResult (b code : Nat) (s : State) : State :=
  modBook b (fun k => { k with cmd := k.cmd.map (fun c => { c with result := code }) }) s

/-- Ask a device for something kept there for this book. -/
def askPeer (b : Nat) (peer : Nat × Nat × BitVec 16) (mop : MirrorOp) (slot index step : Nat) (s : State) : State :=
  sendMirror b peer mop (mirrorOp 2 slot index step 0 (bookRank s b)) [] s

/-- The member of the bound context's job at device dev. -/
def peerAt (s : State) (b dev : Nat) : Option (Nat × Nat × BitVec 16) :=
  (tget (ctxOf s (bookCtx s b)).jobMap dev).map (fun e => (dev, e.ctx, e.gen))

/-- FETCH: every block with its written bit set is asked for. -/
def startFetch (b arg : Nat) (p : Plan) (s : State) : State :=
  let k := bookOf s b
  let peer := if k.cmd.map (·.back) = some .halted then k.peer else memberOf (ctxOf s (bookCtx s b)) p.partner
  match peer with
  | none => cmdResult b 5 s
  | some m => k.written.foldl (fun s g => askPeer b m (.fetch g) (prevStep arg % 2) g (prevStep arg) s) s

/-- ADOPT: both mirror-book entries are asked for, page by page; INDEX bit 31 says that a page is meant. -/
def startAdopt (b : Nat) (p : Plan) (s : State) : State :=
  match peerAt s b (regRaw s (aFbk b 0x88)) with
  | none => cmdResult b 6 s
  | some m =>
    (List.range (entrySize (bookNt s b) p / 4096)).foldl (fun s i =>
      askPeer b m (.adoptPage 1 i) 1 (2 ^ 31 + i) 0 (askPeer b m (.adoptPage 0 i) 0 (2 ^ 31 + i) 0 s)) s

/-- REPLICA: the parity buffers are read from the same addresses of the member's context. -/
def startReplica (b arg : Nat) (p : Plan) (s : State) : State :=
  match peerAt s b (regRaw s (aFbk b 0x88)) with
  | none => cmdResult b 6 s
  | some m =>
    let c := bookCtx s b
    let l := parityPieces p arg
    (List.range (piecesLen l / 4096)).foldl (fun s i =>
      let a := (pieceAt l (4096 * i)).getD 0
      let op : AccOp := .read 4096 [] a none
      let g := m.1 <<< 40 + a
      let (id, s) := addAcc (.book b) c (ctxOf s c).gen g op .remote s
      sendPacket (requestPacket s c 0 id op g) s) s

/-- CKPT_RESTORE: page 0 of the record is asked for. -/
def startRestore (b arg : Nat) (p : Plan) (s : State) : State :=
  match poolPort s with
  | none => cmdResult b 6 s
  | some _ => sendPool b (.restore 0) (mirrorOp 5 0 0 arg p.jobTag (ctxOf s (bookCtx s b)).rank) [] s

/-- States that a command is allowed in. -/
def cmdAllowed (op : Nat) (st : BookState) : Bool :=
  match st with
  | .bound => decide (1 ≤ op ∧ op ≤ 5)
  | .halted => decide (op = 3 ∨ op = 6)
  | _ => false

/-- RELEASE: the book is discarded. -/
def discardBook (b : Nat) (s : State) : State :=
  let s := regClear (aFbk b 0x58) (aFbk b 0x70) (regClear (aFbk b 0x78) (aFbk b 0x88) s)
  { regPut (aFbk b 0) 0 s with books := tdel s.books b }

/-- A write of FBK_Bb_CMD. -/
def bookCommand (b op : Nat) (s : State) : State :=
  let k := bookOf s b
  let arg := regRaw s (aFbk b 0x70)
  if op = 0 ∨ 6 < op then setBookResult b 10 s
  else if !cmdAllowed op k.state then setBookResult b 1 s
  else if op = 6 then discardBook b s
  else
    let plan := if k.state = .halted then k.plan else readPlan s b
    match plan with
    | none => setBookResult b 2 s
    | some p =>
      let s := beginCmd b op arg p s
      match op with
      | 1 =>
        match resumeCheck s b arg p with
        | .ok kind => modBook b (fun k => { k with resume := some (arg, kind) }) s
        | .error e => cmdResult b e s
      | 2 => startAdopt b p s
      | 3 => startFetch b arg p s
      | 4 => startReplica b arg p s
      | _ => startRestore b arg p s

/-- A packet of the command is still in flight. -/
def cmdWaiting (s : State) (b : Nat) : Bool :=
  (bookOf s b).flight.any (fun f => match f.2 with
    | .fetch _ => true | .adoptPage _ _ => true | .adoptBlock _ => true | .restore _ => true | _ => false)
  || s.accs.any (fun a => a.origin == .book b)

/-- Ask for every block of the slot that holds the mirror of a step. -/
def askSlot (b step : Nat) (p : Plan) (s : State) : State :=
  match peerAt s b (regRaw s (aFbk b 0x88)) with
  | none => cmdResult b 6 s
  | some m =>
    let s := modBook b (fun k => { k with cmd := k.cmd.map (fun c => { c with slotOf := some step, labels := [] }) }) s
    (List.range (exBlocks p)).foldl (fun s g => askPeer b m (.adoptBlock g) (step % 2) g step s) s

/-- The newest entry that a book holds with its LIVE part: its step and KEY. -/
def newestEntry (s : State) (b : Nat) (p : Plan) : Option (Nat × Nat) :=
  let k0 := entryKey s b 0 p 0
  let k1 := entryKey s b 0 p 1
  let ok (q key : Nat) : Bool := bit key 128 && decide (key % 2 = q)
  match ok 0 k0, ok 1 k1 with
  | true, true => if k0 % 2 ^ 64 < k1 % 2 ^ 64 then some (k1 % 2 ^ 64, k1) else some (k0 % 2 ^ 64, k0)
  | true, false => some (k0 % 2 ^ 64, k0)
  | false, true => some (k1 % 2 ^ 64, k1)
  | false, false => none

/-- ADOPT goes on once what it asked for has come (R465): the mirror of n − 1 when it is complete, else that of n − 2. -/
def adoptNext (b : Nat) (s : State) : State :=
  let k := bookOf s b
  match k.cmd, k.plan with
  | some c, some p =>
    if c.op ≠ 2 ∨ c.result ≠ 0 ∨ cmdWaiting s b then s
    else match newestEntry s b p, c.slotOf with
      | none, _ => cmdResult b 4 s
      | some (n, _), none => askSlot b (prevStep n) p s
      | some (n, key), some q =>
        let n1 := prevStep n
        let all := (List.range (exBlocks p)).all (fun g => (tget c.labels g).isSome)
        let whole := all && (bit key 133 || c.labels.all (fun l => decide (l.2 = n1)))
        if q ≠ n1 then (if all then s else cmdResult b 5 s)
        else if whole then s
        else askSlot b (prevStep n1) p s
  | _, _ => s

/-- The pages of a pool record that CKPT_RESTORE still needs, once page 0 has come. -/
def restoreRest (b arg : Nat) (p : Plan) (s : State) : State :=
  let rank := (ctxOf s (bookCtx s b)).rank
  let n := exBlocks p
  let rn := if p.ckptRepl then piecesLen (parityPieces p arg) / 4096 else 0
  (List.range (n + rn)).foldl (fun s i => sendPool b (.restore (1 + i)) (mirrorOp 5 0 (1 + i) arg p.jobTag rank) [] s) s

/-- A page of a pool record has come for CKPT_RESTORE (R469). -/
def restorePage (b page : Nat) (d : List Byte) (s : State) : State :=
  let k := bookOf s b
  match k.cmd, k.plan with
  | some cmd, some p =>
    let c := bookCtx s b
    let x := ctxOf s c
    let n := exBlocks p
    if page = 0 then
      let v := ofBytes (d.take 96)
      let want := x.members <<< 576 + x.mbInFlight <<< 592 + ctxTiles s c <<< 640
      let got := fld v 591 576 <<< 576 + fld v 607 592 <<< 592 + fld v 767 640 <<< 640
      if got ≠ want then cmdResult b 7 s
      else restoreRest b cmd.arg p (markEntry b 0 cmd.arg (ownWrite dieE1 16 (entryAt s b 0 p cmd.arg) (d.take 64) s))
    else if page ≤ n then ownWrite dieE1 16 (exAddr p (page - 1)) d s
    else ownWrite dieE1 16 ((pieceAt (parityPieces p cmd.arg) (4096 * (page - 1 - n))).getD 0) d s
  | _, _ => s

/-- BOOK_COMMAND_COMPLETE's effect: the command ends with its result; an unanswered one ends with PEER_FAIL. -/
def bookCommandComplete (b : Nat) (answered : Bool) (s : State) : State :=
  match (bookOf s b).cmd with
  | none => s
  | some c0 =>
    let s := if answered then adoptNext b s else cmdResult b 6 s
    if answered && cmdWaiting s b then s
    else
      let c := ((bookOf s b).cmd).getD c0
      let at' : Option Nat := match c.op with
        | 2 => c.slotOf
        | 3 => some (prevStep c.arg)
        | 5 => some c.arg
        | _ => none
      let s := { s with accs := s.accs.filter (fun a => a.origin != .book b) }
      modBook b (fun k => { k with
        state := c.back, cmd := none, result := c.result
        flight := k.flight.filter (fun f => match f.2 with
          | .fetch _ => false | .adoptPage _ _ => false | .adoptBlock _ => false | .restore _ => false | _ => true)
        resume := if c.op = 1 ∧ c.result ≠ 0 then none else k.resume
        stateAt := if c.result = 0 ∧ at'.isSome then at' else k.stateAt }) s

/-! ### Mirror traffic (R452, R456) -/

/-- A MIRROR packet of a SUB on a fabric port, checked; `no` answers a refusal. -/
def mirrorArrive (p sub : Nat) (k : Packet) (f : State → State) (s : State) : State :=
  arrivingAs p 0x40 (mSub k == sub) k (checked p k (refuse k 2) f) s

/-- The book of the named context whose partner the source is, with its plan. -/
def mirrorBook (s : State) (k : Packet) : Option (Nat × Plan) :=
  match boundBook s (pCtx k) with
  | none => none
  | some b =>
    match (bookOf s b).plan, tget (ctxOf s (pCtx k)).jobMap (pSrc k) with
    | some p, some e => if e.rank = p.partner then some (b, p) else none
    | _, _ => none

/-- A book that waits for its partner's SHARD and LIVE looks whether they are there. -/
def afterMirror (b : Nat) (s : State) : State :=
  let c := bookCtx s b
  wpTouch c (auditPrepare b (stepOf s c) s)

/-- SLOT_BLOCK's effect (R453): the block is written into the slot and answered. -/
def slotBlockPacket (p : Nat) (k : Packet) (s : State) : State :=
  mirrorArrive p 0 k (fun s =>
    match mirrorBook s k with
    | none => refuse k 2 2 s
    | some (b, _) =>
      let q := mSlot k
      let fits : Bool := match bookRange s b (2 + q) with | some r => decide (r.1 + 4096 * (mIndex k + 1) ≤ r.2) | none => false
      if !fits || decide (pNpay k ≠ 64) then refuse k 2 2 s
      else
        let s := ownWrite dieE1 16 (bookArea s b (2 + q) + 4096 * mIndex k) k.pay (regCount (aFce 0x108) 1 s)
        let s := modBook b (fun x => if q = 0 then { x with held0 := tput x.held0 (mIndex k) (mStep k) }
          else { x with held1 := tput x.held1 (mIndex k) (mStep k) }) s
        afterMirror b (refuse k 2 0 s)) s

/-- BOOK_DATA's effect (R444): a page of an entry is written into the mirror book and answered. -/
def bookDataPacket (p : Nat) (k : Packet) (s : State) : State :=
  mirrorArrive p 1 k (fun s =>
    match mirrorBook s k with
    | none => refuse k 2 2 s
    | some (b, pl) =>
      let a := entryAt s b 1 pl (mStep k) + 4096 * mIndex k
      let fits : Bool := match bookRange s b 1 with
        | some r => decide (a + 4096 ≤ r.2 ∧ 4096 * (mIndex k + 1) ≤ entrySize (bookNt s b) pl)
        | none => false
      if !fits || decide (pNpay k ≠ 64) then refuse k 2 2 s
      else
        let s := ownWrite dieE1 16 a k.pay s
        afterMirror b (refuse k 2 0 (if mIndex k = 0 then markEntry b 1 (mStep k) s else s))) s

/-- FETCH_REQ's effect (R463, R465): a block of a slot, or with INDEX bit 31 a page of the mirror book, goes back with the step it
stands for; page 0 goes back with UREL. -/
def fetchReqPacket (p : Nat) (k : Packet) (s : State) : State :=
  mirrorArrive p 2 k (fun s =>
    match mirrorBook s k with
    | none => refuse k 2 2 s
    | some (b, pl) =>
      let q := mSlot k
      let reply (step : Nat) (d : List Byte) (s : State) : State :=
        sendPacket (answerPacket s k 0x40 (mirrorOp 3 q (mIndex k) step 0 (mRank k)) d) s
      let send (step : Nat) (a : Nat) (s : State) : State := reply step (hbmRead s a 4096) (chargeWork dieE1 16 a 4096 s)
      if bit (mIndex k) 31 then
        let i := mIndex k - 2 ^ 31
        if i = 0 ∧ !entryPresent s b 1 q then reply (regRaw s (aFbk b 0x60)) (List.replicate 4096 0#8) s
        else if 4096 * (i + 1) ≤ entrySize (bookNt s b) pl then send (regRaw s (aFbk b 0x60)) (entryAt s b 1 pl q + 4096 * i) s
        else refuse k 2 2 s
      else
        let x := bookOf s b
        match tget (if q = 0 then x.held0 else x.held1) (mIndex k) with
        | some step => send step (bookArea s b (2 + q) + 4096 * mIndex k) s
        | none => refuse k 2 2 s) s

/-- The book and the operation that an answer with a tag belongs to. -/
def flightOf (s : State) (tag : Nat) : Option (Nat × MirrorOp) :=
  (List.range 16).findSome? (fun b => ((bookOf s b).flight.find? (fun f => f.1 = tag)).map (fun f => (b, f.2)))

/-- The flight with a tag has its answer. -/
def flightDone (b tag : Nat) (s : State) : State := modBook b (fun k => { k with flight := k.flight.filter (fun f => f.1 ≠ tag) }) s

/-- FETCH_DATA's effect (R463, R465). -/
def fetchDataPacket (p : Nat) (k : Packet) (s : State) : State :=
  arrivingAs p 0x40 (mSub k == 3) k (fun s =>
    if !(answerOk s k 0 || haltedCmd s (pTag k)) then answerDrop p k s
    else if pNpay k ≠ 64 then s
    else match flightOf s (pTag k) with
      | none => s
      | some (b, op) =>
        match (bookOf s b).plan with
        | none => s
        | some pl =>
          let s := regCount (aFce 0x108) 1 (flightDone b (pTag k) s)
          match op with
          | .fetch g => ownWrite dieE1 16 (exAddr pl g) k.pay s
          | .adoptPage q i =>
            let s := ownWrite dieE1 16 (entryAt s b 0 pl q + 4096 * i) k.pay s
            adoptNext b (if i = 0 then markEntry b 0 q (regPut (aFbk b 0x60) (mStep k) s) else s)
          | .adoptBlock g =>
            let s := ownWrite dieE1 16 (exAddr pl g) k.pay s
            adoptNext b (modBook b (fun x => { x with cmd := x.cmd.map (fun c => { c with labels := tput c.labels g (mStep k) }) }) s)
          | _ => s) s

/-! ### The pool (R468) -/

/-- A MIRROR packet of a SUB on a pool port. -/
def poolArrive (p sub : Nat) (k : Packet) (f : State → State) (s : State) : State :=
  if portState s p ≠ 2 ∨ roleOf s p ≠ 8 ∨ !mayTake s p k then s
  else if opVcs (pOpc k) = [] then dropBad p k s
  else if pOpc k ≠ 0x40 ∨ !(mSub k == sub || opReserved k) then s
  else if packetBad k then dropBad p k s
  else f (takeIn p k s)

/-- The page of a record that a packet speaks of. -/
def samePage (k : Packet) (g : PoolPage) : Bool :=
  g.job == mJob k && g.rank == mRank k && g.step == mStep k && g.page == mIndex k
def sameRecord (k : Packet) (g : PoolPage) : Bool := g.job == mJob k && g.rank == mRank k && g.step == mStep k

/-- A record is complete: page 0 says how many blocks and replicated pages belong to it. -/
def recordComplete (s : State) (k : Packet) : Bool :=
  let l := s.pool.filter (sameRecord k)
  match l.find? (fun g => g.page == 0) with
  | none => false
  | some g =>
    let v := ofBytes (g.data.take 96)
    (List.range (fld v 543 512 + fld v 575 544)).all (fun i => l.any (fun h => h.page == i + 1))

/-- An answer on a pool port. -/
def poolAnswer (p : Nat) (k : Packet) (opc op : Nat) (pay : List Byte) (s : State) : State :=
  queueAt p (mkPacket s { opc := opc, vc := 6, dst := pSrc k, cls := 2, tag := pTag k, op := op } pay) s

/-- POOL_WRITE's effect at a module in pool mode: the page is filed and answered, and a record now complete is reported. -/
def poolWritePacket (p : Nat) (k : Packet) (s : State) : State :=
  poolArrive p 4 k (fun s =>
    let g : PoolPage := { job := mJob k, rank := mRank k, step := mStep k, page := mIndex k, data := k.pay }
    let was := recordComplete s k
    let s := poolAnswer p k 2 0 [] { s with pool := s.pool.filter (fun h => !samePage k h) ++ [g] }
    if recordComplete s k && !was then
      queueAt p (mkPacket s { opc := 0x40, vc := 6, dst := pSrc k, op := mirrorOp 7 0 0 (mStep k) (mJob k) (mRank k) } []) s
    else s) s

/-- POOL_READ's effect at a module in pool mode. -/
def poolReadPacket (p : Nat) (k : Packet) (s : State) : State :=
  poolArrive p 5 k (fun s =>
    match s.pool.find? (samePage k) with
    | some g =>
      if recordComplete s k then
        poolAnswer p k 0x40 (mirrorOp 6 0 (mIndex k) (mStep k) (mJob k) (mRank k)) g.data s
      else poolAnswer p k 2 1 [] s
    | none => poolAnswer p k 2 1 [] s) s

/-- POOL_DATA's effect: a page that CKPT_RESTORE asked for. -/
def poolDataPacket (p : Nat) (k : Packet) (s : State) : State :=
  poolArrive p 6 k (fun s =>
    match flightOf s (pTag k) with
    | some (b, .restore page) => restorePage b page (fitBytes 4096 k.pay) (regCount (aFce 0x118) (pNpay k) (flightDone b (pTag k) s))
    | _ => s) s

/-- POOL_DONE's effect: the record of a step is complete at the pool. -/
def poolDonePacket (p : Nat) (k : Packet) (s : State) : State :=
  poolArrive p 7 k (fun s =>
    (List.range 16).foldl (fun s b =>
      let x := bookOf s b
      match x.plan with
      | some pl =>
        if pl.jobTag = mJob k ∧ bookRank s b = mRank k then
          modBook b (fun y => { y with ckpt := y.ckpt.filter (· ≠ mStep k) }) s
        else s
      | none => s) s) s

/-! ### Captures, digests, the vote (R444, R448–R451, R457) -/

/-- CAPTURE_COMPLETE's effect: the oldest capture whose pages are all answered is complete. -/
def captureComplete (b : Nat) (s : State) : State :=
  let k := bookOf s b
  match k.captures.find? (fun x => !k.flight.any (fun f => f.2 == .entry x.1 x.2)) with
  | none => s
  | some x =>
    wpTouch (bookCtx s b) (haveCapture b x.1 x.2 (modBook b (fun k => { k with captures := k.captures.filter (· ≠ x) }) s))

/-- Every local participant has reached COMMIT. -/
def atCommit (s : State) (c : Nat) : Bool :=
  let x := ctxOf s c
  decide (x.next = .at (wpC x)) && x.wps != [] && (tilesOf s c).all (fun t => x.arrived.contains t)

/-- Lines of pieces with their indices. -/
def pieceLines (s : State) (l : List (Nat × Nat)) : List (Nat × List Byte) :=
  (List.range (piecesLen l / 64)).map (fun i => (i, hbmRead s ((pieceAt l (64 * i)).getD 0) 64))

/-- Lines of sampled blocks with their indices in the exclusive state, the j-th block read at an address. -/
def blockLines (s : State) (gs : List Nat) (at' : Nat → Nat → Nat) : List (Nat × List Byte) :=
  (List.range gs.length).flatMap (fun j =>
    let g := gs.getD j 0
    (List.range 64).map (fun i => (64 * g + i, hbmRead s (at' j g + 64 * i) 64)))

/-- Send a digest to the member of a rank. -/
def sendDigest (c rank sub m : Nat) (d : BitVec 128) (s : State) : State :=
  sendControl c rank 0x28 (sub + (m % 65536) <<< 16 + d.toNat <<< 128) (ctxOf s c).rank s

/-- REPLICATED_DIGEST's effect (R448, R449, R451): the digests of the step are formed and sent; the reads are charged to partition 16, and wait
while a line is open. -/
def replicatedDigest (b : Nat) (s : State) : State :=
  let k := bookOf s b
  let c := bookCtx s b
  let m := stepOf s c
  match k.plan with
  | none => s
  | some p =>
    let gs := sampled p m
    let o := auditArea p + 4096 * gs.length + piecesLen (kindPieces p 2) + 128 * bookNt s b
    let reads := parityPieces p m ++ (if p.audit then gs.map (fun g => (exAddr p g, 4096)) else []) ++ (if audits p then [(o, 4096 * gs.length)] else [])
    if k.state ≠ .running ∨ !atCommit s c ∨ k.mineDig.map (·.1) = some m ∨ piecesOpen s reads then s
    else
      let d := sd128 m (pieceLines s (parityPieces p m))
      let s := reads.foldl (fun s r => chargeWork dieE1 16 r.1 r.2 s) s
      let s := regPut (aFbk b 0x80) (d.toNat >>> 64) (regPut (aFbk b 0x78) (d.toNat % 2 ^ 64) s)
      let s := modBook b (fun k => { k with mineDig := some (m, d) }) s
      let s := if p.succ = (ctxOf s c).rank then s else sendDigest c p.succ 3 m d s
      let s := if p.audit then sendDigest c p.partner 4 m (sd128 m (blockLines s gs (fun _ g => exAddr p g))) s else s
      if audits p then modBook b (fun k => { k with mineAud := some (m, sd128 m (blockLines s gs (fun j _ => o + 4096 * j))) }) s else s

/-- The digest and audit checks of step m, when they have results: whether each passed. -/
def stepChecks (s : State) (b m : Nat) (p : Plan) : Option (Bool × Bool) :=
  let k := bookOf s b
  let self := decide (p.pred = (ctxOf s (bookCtx s b)).rank)
  let dig : Option Bool := match k.mineDig, k.predDig with
    | some (n, d), some (q, e) => if n = m ∧ q = m % 65536 then some (d == e) else if n = m ∧ self then some true else none
    | some (n, _), none => if n = m ∧ self then some true else none
    | none, _ => none
  let aud : Option Bool :=
    if !audits p then some true
    else match k.mineAud, k.peerAud with
      | some (n, d), some (q, e) => if n = m ∧ q = m % 65536 then some (d == e) else none
      | _, _ => none
  match dig, aud with
  | some x, some y => some (x, y)
  | _, _ => none

/-- VOTE's effect: every condition of R457 holds, and the member votes and counts as arrived. -/
def voteNow (b : Nat) (s : State) : State :=
  let k := bookOf s b
  let c := bookCtx s b
  let m := stepOf s c
  match k.plan with
  | none => s
  | some p =>
    if k.state ≠ .running ∨ !atCommit s c ∨ k.voted = some m ∨ k.complete ≠ some (prevStep m) then s
    else match stepChecks s b m p with
      | none => s
      | some (d, a) =>
        let yes := d && a
        let v : Vote := { yes := yes, noRank := if yes then 0xFFF else (ctxOf s c).rank, cause := if !d then 1 else if !a then 2 else 0 }
        let s := if d then s else mismatchCount 0 c s
        let s := if a then s else mismatchCount 1 c s
        let s := modBook b (fun k => { k with voted := some m, phase := 3 }) s
        wpTouch c (modCtx c (fun x => { x with myVote := some v }) s)

/-! ### Commands -/

def execBookCommandComplete (b : Nat) (answered : Bool) (s : State) : Host.Outcome State Fault Refusal :=
  act (bookOk b) s (bookCommandComplete b answered)

def execCaptureComplete (b : Nat) (s : State) : Host.Outcome State Fault Refusal := act (bookOk b) s (captureComplete b)

def execReplicatedDigest (b : Nat) (s : State) : Host.Outcome State Fault Refusal := act (bookOk b) s (replicatedDigest b)

def execVote (b : Nat) (s : State) : Host.Outcome State Fault Refusal := act (bookOk b) s (voteNow b)

def execSlotBlock (p : Nat) (pkt : Packet) (s : State) : Host.Outcome State Fault Refusal := act (portOk p) s (slotBlockPacket p pkt)

def execBookData (p : Nat) (pkt : Packet) (s : State) : Host.Outcome State Fault Refusal := act (portOk p) s (bookDataPacket p pkt)

def execFetchReq (p : Nat) (pkt : Packet) (s : State) : Host.Outcome State Fault Refusal := act (portOk p) s (fetchReqPacket p pkt)

def execFetchData (p : Nat) (pkt : Packet) (s : State) : Host.Outcome State Fault Refusal := act (portOk p) s (fetchDataPacket p pkt)

def execPoolWrite (p : Nat) (pkt : Packet) (s : State) : Host.Outcome State Fault Refusal := act (portOk p) s (poolWritePacket p pkt)

def execPoolRead (p : Nat) (pkt : Packet) (s : State) : Host.Outcome State Fault Refusal := act (portOk p) s (poolReadPacket p pkt)

def execPoolData (p : Nat) (pkt : Packet) (s : State) : Host.Outcome State Fault Refusal := act (portOk p) s (poolDataPacket p pkt)

def execPoolDone (p : Nat) (pkt : Packet) (s : State) : Host.Outcome State Fault Refusal := act (portOk p) s (poolDonePacket p pkt)

end Sys2Proof.Machine
end

