-- ==== Sys2Proof/Machine/Session.lean ====
section
/-!
DEFINITION. The command transport of the host port: steering, sessions, doorbells, SUBMIT and NOTIFY (R405–R425).
-/

namespace Sys2Proof.Machine

/-! ### Steering (R409) -/

/-- Fields of HOSTP_FNn_CFG. -/
def fnCfg (s : State) (n : Nat) : Nat := regRaw s (aFn n 0)

/-- IPv6 address of a function. -/
def fnV6 (s : State) (n : Nat) : Nat := regRaw s (aFn n 0x10) + regRaw s (aFn n 0x18) <<< 64

/-- MAC address of sub-port sp (R407). -/
def subMac (s : State) (sp : Nat) : BitVec 48 := s.fuses.baseMac + BitVec.ofNat 48 sp

/-- The port takes a frame (R406, R407): its sub-port is up, it is for that sub-port or broadcast, at most 9,216 bytes, no fragment, and without
options or extension headers. -/
def frameOk (s : State) (fr : Frame) : Bool :=
  bit (regRaw s (aHost 0)) 8 && decide (fr.sub < 8) && bit (regRaw s (aHost 4)) fr.sub && (fr.mac == subMac s fr.sub || fr.mac == 0xFFFFFFFFFFFF#48)
    && decide (fr.len ≤ 9216) && !fr.cut && !fr.extra

/-- The frame's addresses and VLAN match function n. -/
def steerMatch (s : State) (v6 : Bool) (dst : BitVec 128) (vlan : Option (BitVec 12)) (n : Nat) : Bool :=
  let c := fnCfg s n
  let ip : Bool := if v6 then bit c 30 && dst.toNat == fnV6 s n else bit c 29 && dst.toNat == regRaw s (aFn n 8)
  let tag : Bool := !bit c 16 || (match vlan with | some v => v.toNat == fld c 11 0 | none => false)
  ip && tag

/-- The function an arriving packet goes to; none when no function qualifies or it is not ENABLED. -/
def steer (s : State) (v6 : Bool) (dst : BitVec 128) (vlan : Option (BitVec 12)) : Option Nat :=
  match (List.range 16).find? (steerMatch s v6 dst vlan) with
  | some n => if fnState s n = 1 then some n else none
  | none => none

/-- The port runs and a sub-port's link is up. -/
def hostUp (s : State) : Bool := bit (regRaw s (aHost 0)) 8 && decide (fld (regRaw s (aHost 4)) 7 0 ≠ 0)

/-! ### The command header (Table 13-3) -/

def dMagic (d : Datagram) : Nat := fld d.hdr.toNat 15 0
def dVers (d : Datagram) : Nat := fld d.hdr.toNat 31 16
def dOpc (d : Datagram) : Nat := fld d.hdr.toNat 63 56
def dAv (d : Datagram) : Bool := bit d.hdr.toNat 64
def dFunc (d : Datagram) : Nat := fld d.hdr.toNat 71 68
def dSession (d : Datagram) : Nat := fld d.hdr.toNat 95 80
def dLen (d : Datagram) : Nat := fld d.hdr.toNat 111 96
def dSeq (d : Datagram) : Nat := fld d.hdr.toNat 159 128
def dAck (d : Datagram) : Nat := fld d.hdr.toNat 191 160
def dCookie (d : Datagram) : BitVec 64 := BitVec.ofNat 64 (fld d.hdr.toNat 255 192)

/-- Opcodes that a host sends. -/
def hostOpcodes : List Nat := [1, 3, 4, 0x10, 0x11, 0x30, 0x31]

/-- LEN and the reserved bits of the body are those of the opcode (Table 13-4). -/
def dBodyOk (d : Datagram) : Bool :=
  let n := d.body.length
  let w := ofBytes (d.body.take 64)
  match dOpc d with
  | 0x10 => decide (4 ≤ n ∧ n ≤ 256 ∧ n % 4 = 0)
      && (List.range (n / 4)).all (fun i => decide (fld (ofBytes ((d.body.drop (4 * i)).take 4)) 15 12 = 0))
  | 0x11 => decide (64 ≤ n ∧ 1 ≤ fld w 23 16 ∧ fld w 23 16 ≤ 63 ∧ n = 64 + 64 * fld w 23 16 ∧ fld w 15 12 = 0 ∧ fld w 511 24 = 0)
  | 0x30 => decide (n = 8 ∧ fld w 63 48 = 0)
  | 0x31 => decide (n = 16 ∧ fld w 63 48 = 0)
  | _ => decide (n = 0)

/-- The datagram has an error of R411. -/
def dBad (d : Datagram) (fn : Nat) : Bool :=
  let h := d.hdr.toNat
  decide (dMagic d ≠ 0x4357 ∨ dVers d ≠ 1 ∨ dFunc d ≠ fn ∨ dLen d ≠ d.body.length ∨ 4096 < dLen d)
    || decide (fld h 127 112 ≠ 0 ∨ fld h 79 72 ≠ 0 ∨ fld h 67 65 ≠ 0 ∨ fld h 55 32 ≠ 0)
    || !hostOpcodes.contains (dOpc d) || !dBodyOk d
    || (decide (dOpc d = 1 ∨ dOpc d = 4) && decide (dSeq d ≠ 0)) || (decide (dOpc d = 1) && decide (dCookie d ≠ 0))

/-- Count an event of counter k of Table 13-12. -/
def hostCount (k : Nat) (s : State) : State := regCount (aHost (0x100 + 8 * k)) 1 s

/-- A datagram leaves for a host, or is held while its priority is paused (R406). -/
def sendHost (f : Nat) (o : HostOut) (s : State) : State :=
  let prio := fld (fnCfg s f) 26 24
  if s.paused.contains prio then { s with heldHost := s.heldHost ++ [(prio, o)] } else { s with sentHost := s.sentHost ++ [o] }

/-- HOSTP_CT_PORT (R410). -/
def ctPort (s : State) : BitVec 16 := BitVec.ofNat 16 (regRaw s (aHost 8))

/-- ERROR that refuses an OPEN (R412). -/
def openRefused (f status : Nat) (d : Datagram) (s : State) : State :=
  let h := 0x4357 + 1 <<< 16 + 5 <<< 56 + f <<< 68 + 8 <<< 96
  sendHost f { ip := d.srcIp, port := d.port, hdr := BitVec.ofNat 256 h, body := toBytes 8 (status + 1 <<< 16), sport := ctPort s } s

/-- A datagram that no ENABLED function takes: it is counted, and an OPEN for a DISABLED function is refused by ERROR (R409, R412; DEDUCED:
DEDUCED: log entry 112). -/
def noFunction (d : Datagram) (s : State) : State :=
  let s := hostCount 0 s
  match (List.range 16).find? (steerMatch s d.v6 d.dstIp d.vlan) with
  | some n => if dOpc d = 1 ∧ dBad d n = false ∧ fnState s n = 0 ∧ d.dport = ctPort s then openRefused n 0x43 d s else s
  | none => s

/-- A datagram of an opcode arrives: it is steered and checked, then f acts on it for its function. -/
def datagram (opc : Nat) (d : Datagram) (f : Nat → State → State) (s : State) : State :=
  if !frameOk s d.frame then s
  else match steer s d.v6 d.dstIp d.vlan with
    | none => noFunction d s
    | some n =>
      if d.dport ≠ ctPort s then s
      else if dBad d n then hostCount 1 s
      else if dOpc d ≠ opc then s
      else f n s

/-! ### Sending (R410, R413) -/

/-- Sessions by id. -/
def sessionOf (s : State) (id : Nat) : Option Session := s.sessions.find? (fun x => x.id = id)
def setSession (x : Session) (s : State) : State := { s with sessions := s.sessions.map (fun y => if y.id = x.id then x else y) }

/-- Emit one datagram of a session. -/
def emit (x : Session) (seq opc : Nat) (body : List Byte) (s : State) : State :=
  let h := 0x4357 + 1 <<< 16 + opc <<< 56 + 1 <<< 64 + x.func <<< 68 + x.id <<< 80 + body.length <<< 96 + seq <<< 128 + x.accepted <<< 160
    + x.cookie.toNat <<< 192
  sendHost x.func { ip := x.ip, port := x.port, hdr := BitVec.ofNat 256 h, body := body, sport := ctPort s } s

/-- Send an unsequenced datagram on a session. -/
def sendPlain (id opc : Nat) (body : List Byte) (s : State) : State :=
  match sessionOf s id with
  | some x => emit x 0 opc body s
  | none => s

/-- Send a sequenced datagram: beyond 64 unacknowledged ones it waits. -/
def sendSeq (id opc : Nat) (body : List Byte) (s : State) : State :=
  match sessionOf s id with
  | some x =>
    let y := { x with nextSeq := (x.nextSeq + 1) % 2 ^ 32, unacked := x.unacked ++ [(x.nextSeq, opc, body)] }
    let s := setSession y s
    if x.unacked.length < 64 then emit x x.nextSeq opc body s else s
  | none => s

/-- ERROR for a datagram refused (Table 13-4). -/
def sendError (id status opc seq : Nat) (s : State) : State := sendPlain id 5 (toBytes 8 (status + opc <<< 16 + seq <<< 32)) s

/-- An ACK of a session's datagrams up to a number: they are done, RTO returns to 1 ms, and datagrams that waited leave. -/
def applyAck (id a : Nat) (s : State) : State :=
  match sessionOf s id with
  | none => s
  | some x =>
    let sent := x.unacked.take 64
    let done := (sent.takeWhile (fun u => decide ((a + 2 ^ 32 - u.1) % 2 ^ 32 < 2 ^ 31))).length
    if done = 0 then s
    else
      let y := { x with unacked := x.unacked.drop done, rtoUs := 1000, timeouts := 0 }
      ((y.unacked.take 64).drop (64 - done)).foldl (fun s u => emit y u.1 u.2.1 u.2.2 s) (setSession y s)

/-! ### Sessions (R412–R414) -/

/-- A session closes: what it had unacknowledged is discarded. -/
def closeSession (id : Nat) (s : State) : State := { s with sessions := s.sessions.filter (fun x => x.id ≠ id) }

/-- The module closes a session (R414), with its event. -/
def dropSession (id : Nat) (s : State) : State :=
  match sessionOf s id with
  | some x => postEvent x.func 6 0 0 id (closeSession id s)
  | none => s

/-- The first session id from v on that no session uses. -/
def freeSessionId (s : State) (v : Nat) : Nat :=
  ((List.range 257).map (fun i => (v + i) % 65536)).find? (fun i => !s.sessions.any (fun x => x.id = i)) |>.getD 0

/-- OPEN's effect for function n. The cookie is the module's choice, one that no open session uses. -/
def openSession (n : Nat) (d : Datagram) (cookie : BitVec 64) (s : State) : State :=
  match s.sessions.find? (fun x => x.func == n && x.ip == d.srcIp && x.port == d.port && x.v6 == d.v6) with
  | some x => emit x 0 2 [] s
  | none =>
    let mine := (s.sessions.filter (fun x => x.func = n)).length
    if fld (regRaw s (aFn n 0x34)) 21 16 ≤ mine ∨ 256 ≤ s.sessions.length then openRefused n 0x42 d s
    else if s.sessions.any (fun x => x.cookie = cookie) then s
    else
      let (v, s) := freeBits 16 s
      let ord := s.sessions.foldl (fun m x => max m (x.opened + 1)) 0
      let x : Session := { id := freeSessionId s v, cookie := cookie, func := n, ip := d.srcIp, v6 := d.v6, port := d.port, accepted := 0,
                           nextSeq := 1, unacked := [], rtoUs := 1000, timeouts := 0, opened := ord }
      emit x 0 2 [] { s with sessions := s.sessions ++ [x] }

/-- The open session that a datagram names. -/
def namedSession (s : State) (n : Nat) (d : Datagram) : Option Session :=
  s.sessions.find? (fun x => x.id == dSession d && x.cookie == dCookie d && x.func == n && x.ip == d.srcIp && x.port == d.port && x.v6 == d.v6)

/-- The acknowledgement that a datagram carries. -/
def takeAck (x : Session) (d : Datagram) (s : State) : State := if dAv d then applyAck x.id (dAck d) s else s

/-- A sequenced datagram of an open session: the next in order is accepted, acted on and acknowledged (R413). -/
def sequenced (n : Nat) (d : Datagram) (f : Session → State → State) (s : State) : State :=
  match namedSession s n d with
  | none => hostCount 1 s
  | some x =>
    let s := takeAck x d s
    let x := (sessionOf s x.id).getD x
    if dSeq d = (x.accepted + 1) % 2 ^ 32 then
      let y := { x with accepted := dSeq d }
      sendPlain x.id 4 [] (f y (setSession y s))
    else
      let s := if (x.accepted + 2 ^ 32 - dSeq d) % 2 ^ 32 < 2 ^ 31 then hostCount 2 s else s
      sendPlain x.id 4 [] s

/-- CLOSE's effect. -/
def closeDatagram (d : Datagram) (s : State) : State :=
  datagram 3 d (fun n s => sequenced n d (fun x s => closeSession x.id (sendPlain x.id 4 [] s)) s) s

/-- ACK's effect. -/
def ackDatagram (d : Datagram) (s : State) : State :=
  datagram 4 d (fun n s => match namedSession s n d with
    | some x => takeAck x d s
    | none => hostCount 1 s) s

/-- RTO's effect (R414). -/
def rtoExpires (id : Nat) (s : State) : State :=
  match sessionOf s id with
  | none => s
  | some x =>
    if x.unacked = [] then s
    else if 7 ≤ x.timeouts then dropSession id s
    else
      let y := { x with timeouts := x.timeouts + 1, rtoUs := min 64000 (2 * x.rtoUs) }
      (y.unacked.take 64).foldl (fun s u => hostCount 3 (emit y u.1 u.2.1 u.2.2 s)) (setSession y s)

/-! ### Doorbells and SUBMIT (R420) -/

/-- Host-memory submission entries newly covered by a doorbell are read by RDMA. -/
def fetchHost (k : Nat) (q : Queue) (oldPi n : Nat) (s : State) : State :=
  if q.host then
    (List.range n).foldl (fun s i => let j := qAdd q oldPi i; roceRequest q.qpn (qAddr q j) q.rkey [] 64 k j s) s
  else s

/-- One doorbell: the status of its refusal, or none. -/
def doorbell (f idx v : Nat) (s : State) : Option Nat × State :=
  let k := qKey f idx
  match qOf s k with
  | none => (some 0x51, s)
  | some q =>
    if q.error then (some 0x51, s)
    else if 2 * qDepth q ≤ v then (some 0x50, s)
    else
      let d2 := 2 * qDepth q
      if q.kind = .submission then
        let c := (v + d2 - q.ci) % d2
        if c < qCount q ∨ qDepth q < c then (some 0x50, s)
        else (none, fetchHost k q q.pi (c - qCount q) (setQ k { q with pi := v } s))
      else if qCount q < (q.pi + d2 - v) % d2 then (some 0x50, s)
      else (none, setQ k { q with ci := v } s)

/-- DOORBELL's effect: the doorbells act in order. -/
def doorbellDatagram (d : Datagram) (s : State) : State :=
  datagram 0x10 d (fun n s => sequenced n d (fun x s =>
    (List.range (d.body.length / 4)).foldl (fun s i =>
      let w := ofBytes ((d.body.drop (4 * i)).take 4)
      match doorbell n (fld w 11 0) (fld w 31 16) s with
      | (some st, s) => sendError x.id st 0x10 (dSeq d) s
      | (none, s) => s) s) s) s

/-- Append entries of 64 bytes to an HBM submission ring, as one act: none when the stack is not there. -/
def appendEntries (k : Nat) (q : Queue) (es : List (List Byte)) (s : State) : Option State :=
  let at' (i : Nat) : Nat := qAddr q (qAdd q q.pi i)
  match (List.range es.length).find? (fun i => !memAvailable s (at' i) 64) with
  | some _ => none
  | none =>
    let s := (List.range es.length).foldl (fun s i => ownWrite dieE0 16 (at' i) (fitBytes 64 (es.getD i [])) s) s
    some (setQ k { q with pi := qAdd q q.pi es.length } s)

/-- SUBMIT: the status of its refusal, or none. -/
def submit (f idx : Nat) (es : List (List Byte)) (s : State) : Option Nat × State :=
  let k := qKey f idx
  match qOf s k with
  | none => (some 0x51, s)
  | some q =>
    if q.error then (some 0x51, s)
    else if q.kind ≠ .submission ∨ q.host ∨ qDepth q < qCount q + es.length then (some 0x50, s)
    else match appendEntries k q es s with
      | some s => (none, s)
      | none => (some 0x51, qFail k q (qAddr q q.pi) s)

/-- SUBMIT's effect. -/
def submitDatagram (d : Datagram) (s : State) : State :=
  datagram 0x11 d (fun n s => sequenced n d (fun x s =>
    let w := ofBytes (d.body.take 64)
    let es := (List.range (fld w 23 16)).map (fun i => (d.body.drop (64 + 64 * i)).take 64)
    match submit n (fld w 11 0) es s with
    | (some st, s) => sendError x.id st 0x11 (dSeq d) s
    | (none, s) => s) s) s

/-! ### NOTIFY (R425) -/

/-- The most recently opened session of a function. -/
def latestSession (s : State) (f : Nat) : Option Session :=
  s.sessions.foldl (fun m x => if x.func = f then (match m with | some y => if y.opened < x.opened then some x else m | none => some x) else m) none

/-- The bytes of the entry at an index, of a ring the module writes. -/
def qBytes (s : State) (q : Queue) (i : Nat) : List Byte :=
  if q.host then fitBytes (qSize q) (((q.hostCopy.find? (fun p => p.1 = i)).map (·.2)).getD [])
  else hbmRead s (qAddr q i) (qSize q)

/-- NOTIFY's effect: the function's latest session learns of entries written since the last one. -/
def notifyQueue (f i : Nat) (s : State) : State :=
  let k := qKey f i
  match qOf s k with
  | none => s
  | some q =>
    let d2 := 2 * qDepth q
    let fresh := (q.pi + d2 - q.notedPi) % d2
    if q.kind = .submission ∨ q.notify = 0 ∨ fresh = 0 then s
    else
      let most := if q.notify = 2 then (if q.big then 15 else 63) else fresh
      let n := min fresh most
      let upto := qAdd q q.notedPi n
      let es := if q.notify = 2 then (List.range n).map (fun j => qBytes s q (qAdd q q.notedPi j)) else []
      let told (j : Nat) : Bool := (List.range n).any (fun i => qAdd q q.notedPi i == j)
      let s := setQ k { q with notedPi := upto, hostCopy := q.hostCopy.filter (fun p => !told p.1) } s
      match latestSession s f with
      | none => s
      | some x => sendSeq x.id 0x20 (toBytes 64 (i + es.length <<< 16 + upto <<< 32) ++ es.flatten) s

/-! ### Links and the network (R405–R407, R435) -/

/-- Sub-ports of a mode (Table 13-1). -/
def subPorts (mode : Nat) : Nat := if mode = 0 ∨ mode = 4 then 1 else if mode = 1 ∨ mode = 5 then 2 else if mode = 2 then 4 else 8

/-- SUB_PORT_UP's effect. -/
def subPortUp (sp : Nat) (s : State) : State :=
  let cfg := regRaw s (aHost 0)
  if bit cfg 8 && decide (sp < subPorts (fld cfg 2 0)) then
    regMod (aHost 4) (fun v => setFld (setBit v sp true) 18 16 (fld cfg 2 0)) s
  else s

/-- SUB_PORT_DOWN's effect: the link bit falls; sessions stay. -/
def subPortDown (sp : Nat) (s : State) : State := regMod (aHost 4) (fun v => setBit v sp false) s

/-- A write of HOSTP_CFG: MODE 6 and 7 are reserved, and MODE changes only while EN is 0. -/
def hostCfgWrite (v : Nat) (s : State) : Option State :=
  let old := regRaw s (aHost 0)
  let v := Nat.land v 0x107
  if 5 < fld v 2 0 ∨ (fld v 2 0 ≠ fld old 2 0 ∧ bit old 8 = true) then none
  else
    let s := regPut (aHost 0) v s
    some (if bit v 8 then s else regPut (aHost 4) 0 s)

/-- What was held for a priority leaves in order. -/
def releaseHeld (prio : Nat) (s : State) : State :=
  { s with
    sentHost := s.sentHost ++ (s.heldHost.filter (fun p => p.1 = prio)).map (·.2)
    heldHost := s.heldHost.filter (fun p => p.1 ≠ prio)
    sentRoce := s.sentRoce ++ (s.heldRoce.filter (fun p => p.1 = prio)).map (·.2)
    heldRoce := s.heldRoce.filter (fun p => p.1 ≠ prio) }

/-- PRIORITY_FLOW_CONTROL's effect: the port obeys what it receives; when it sends such a frame itself is not stated (DESIGN CHOICE: log entry 129). -/
def flowControl (prio : Nat) (pause : Bool) (s : State) : State :=
  hostCount 7 (if pause then { s with paused := sinsert prio s.paused } else releaseHeld prio { s with paused := sremove prio s.paused })

/-- Destination MAC address of a frame given by its bytes. -/
def frameMac (f : List Byte) : BitVec 48 := BitVec.ofNat 48 (ofBytes (f.take 6).reverse)

/-- NETWORK_HOUSEKEEPING's effect: the host and recovery manager answers a frame for one of the sub-ports. The frame it sends follows the named
protocols, which the spec does not give: its bytes are open. -/
def housekeeping (frame : List Byte) (s : State) : State :=
  if !(List.range 8).any (fun sp => frameOk s { sub := sp, mac := frameMac frame, len := frame.length }) || !coreRuns s 3 then s
  else
    let (v, s) := freeBits (8 * frame.length) s
    { s with sentFrames := s.sentFrames ++ [toBytes frame.length v] }

/-! ### Commands -/

def execOpenSession (d : Datagram) (cookie : BitVec 64) (s : State) : Host.Outcome State Fault Refusal :=
  act true s (datagram 1 d (fun n s => openSession n d cookie s))

def execCloseSession (d : Datagram) (s : State) : Host.Outcome State Fault Refusal := act true s (closeDatagram d)

def execAck (d : Datagram) (s : State) : Host.Outcome State Fault Refusal := act true s (ackDatagram d)

def execDoorbell (d : Datagram) (s : State) : Host.Outcome State Fault Refusal := act true s (doorbellDatagram d)

def execSubmit (d : Datagram) (s : State) : Host.Outcome State Fault Refusal := act true s (submitDatagram d)

def execRto (session : Nat) (s : State) : Host.Outcome State Fault Refusal := act true s (rtoExpires session)

def execSessionIdle (session : Nat) (s : State) : Host.Outcome State Fault Refusal := act true s (dropSession session)

def execNotify (f q : Nat) (s : State) : Host.Outcome State Fault Refusal := act (fnOk f && decide (q < 4096)) s (notifyQueue f q)

def execSubPortDown (sp : Nat) (s : State) : Host.Outcome State Fault Refusal := act (decide (sp < 8)) s (subPortDown sp)

def execSubPortUp (sp : Nat) (s : State) : Host.Outcome State Fault Refusal := act (decide (sp < 8)) s (subPortUp sp)

def execNetworkHousekeeping (kind : Nat) (frame : List Byte) (s : State) : Host.Outcome State Fault Refusal :=
  act (decide (kind < 4)) s (housekeeping frame)

def execPriorityFlowControl (prio : Nat) (pause : Bool) (s : State) : Host.Outcome State Fault Refusal :=
  act (decide (prio < 8)) s (flowControl prio pause)

end Sys2Proof.Machine
end

