-- ==== Sys2Proof/Machine/Admin.lean ====
section
/-!
DEFINITION. Admin commands of the submission queues, context commands that come by them, and functions (R424–R437).
-/

namespace Sys2Proof.Machine

/-! ### The command processor (R426, R581) -/

/-- An entry of the function is in progress: a context command that has not ended (R426). -/
def fnBusy (s : State) (f : Nat) : Bool :=
  (List.range 16).any (fun c =>
    let x := ctxOf s c
    (match x.loadWaiter with | some w => w.f == f | none => false) || x.tdWaiter.any (fun w => w.f == f))
  || s.ctxQueue.any (fun x => match x.src with | .queue g _ => g == f | .reg _ => false)

/-- The queue has an entry for the command processor. -/
def sqReady (s : State) (q : Queue) : Bool :=
  q.kind == .submission && !q.endpt && !q.error && decide (qCount q ≠ 0) && qReady s q
    && (!q.host || q.hostCopy.any (fun p => p.1 == q.ci))

/-- Indices of a function's queues that have one, ascending. -/
def readySqs (s : State) (f : Nat) : List Nat :=
  (s.queues.filter (fun p => decide (p.1 / 4096 = f) && sqReady s p.2)).map (fun p => p.1 % 4096)

/-- The queue whose turn it is: ascending, one entry from each (R426). -/
def turnOf (s : State) (f : Nat) : Option Nat :=
  let l := readySqs s f
  match l.find? (fun i => decide ((tget s.rrNext f).getD 0 ≤ i)) with
  | some i => some i
  | none => l.head?

/-- The completion queue is full and not in ERROR: the processor stalls. -/
def cqStalls (s : State) (f : Nat) (q : Queue) : Bool :=
  match qOf s (qKey f q.cq) with
  | some c => !c.error && (qFull c || !qReady s c)
  | none => false

/-- Reserved bits of an entry, by opcode (Tables 13-6, 13-7, 13-9). -/
def entryMask (opc : Nat) : Nat :=
  mask 31 16 + mask 7 0 + (match opc with
    | 0x01 => mask 84 64 + mask 106 86 + mask 115 112 + mask 247 128
    | 0x02 => mask 75 64
    | 0x03 => mask 75 64
    | 0x10 => mask 8 8 + mask 255 64 + (List.range 4).foldl (fun m i => m + mask (256 + 64 * i + 38) (256 + 64 * i)) 0
    | 0x11 => mask 67 64 + mask 79 72 + mask 191 128
    | 0x12 => mask 67 64 + mask 83 80
    | 0x13 => mask 67 64
    | 0x20 => mask 9 8 + mask 67 64 + mask 167 128 + mask 255 192
    | 0x21 => mask 95 64
    | 0x22 => 0
    | 0x23 => mask 184 64 + mask 319 192 + mask 387 384 + mask 403 388
    | _ => mask 87 64)

/-- Opcodes of Table 13-7. -/
def adminOpcodes : List Nat := [0x01, 0x02, 0x03, 0x10, 0x11, 0x12, 0x13, 0x20, 0x21, 0x22, 0x23, 0x24]

/-- What an entry does: a status, a result from bit 64 on, a state; none when it is not this command's turn or it does not end now. -/
abbrev AdminFn := Nat → State → Option (Nat × Nat × State)

/-- The command processor of function f takes the front entry of F:q: the entry to execute, or the state in which it is done with
it (not its turn, a line of the entry is open, a failed read, a reserved opcode or field). -/
def adminTake (f q : Nat) (s : State) : Except State Nat :=
  match qOf s (qKey f q) with
  | none => .error s
  | some k =>
    if fnState s f ≠ 1 ∨ fnBusy s f ∨ turnOf s f ≠ some q ∨ cqStalls s f k then .error s
    else
      let a := qAddr k k.ci
      if !k.host && memAvailable s a 64 && lineOpen s a 64 then .error s
      else if !k.host && !memAvailable s a 64 then .error (qFail (qKey f q) k a s)
      else if !k.host && (memPoisoned s a 64).isSome then
        .error (qComplete f q 0 0x46 0 (raise (atAddr s a (blankFault s 3 6 0x22 4)) s))
      else
        let e := qFront s k
        if !adminOpcodes.contains (fld e 7 0) then .error (qComplete f q (fld e 31 16) 0x40 0 s)
        else if Nat.land e (2 ^ 512 - 1 - entryMask (fld e 7 0)) ≠ 0 then .error (qComplete f q (fld e 31 16) 0x41 0 s)
        else .ok e

/-- An entry of the opcode is executed by g and completed. -/
def adminRow (f q opc : Nat) (g : AdminFn) (s : State) : State :=
  match adminTake f q s with
  | .error s => s
  | .ok e =>
    if fld e 7 0 ≠ opc then s
    else match g e s with
      | some (st, r, s) => qComplete f q (fld e 31 16) st r s
      | none => s

/-! ### Queues (R416, R419, R427) -/

/-- A function owns a context: it is not FREE and names the function (R52; a FREE context that still names it is not its own,
DESIGN CHOICE: log entry 126). -/
def ownsCtx (s : State) (f c : Nat) : Bool := decide ((ctxOf s c).state ≠ .free) && (ctxOf s c).func == f

def queueKindOf (k : Nat) : QueueKind := match k with | 0 => .submission | 1 => .completion | 2 => .event | _ => .log

/-- QUEUE_CREATE's checks. -/
def queueCreateCheck (s : State) (f e : Nat) : Nat :=
  let i := fld e 75 64
  let kind := fld e 77 76
  let host := bit e 78
  let endpt := bit e 84
  let lg := fld e 83 80
  let addr := fld e 191 128
  let size := (if bit e 79 then 256 else 64) <<< lg
  let (lo, hi) := qmemRange s f
  if i < 2 ∨ lg < 2 ∨ fld e 87 86 = 3 ∨ addr % 64 ≠ 0 ∨ (bit e 79 ∧ kind < 2) ∨ (endpt ∧ (kind = 2 ∨ host)) then 0x41
  else if (qOf s (qKey f i)).isSome then 0x44
  else if kind = 2 ∧ (eventQueue s f).isSome then 0x44
  else
    let cq := qOf s (qKey f (fld e 99 88))
    if decide (kind = 0) && !endpt && cq.isNone then 0x51
    else if decide (kind = 0) && !endpt && (cq.map (·.kind)) != some .completion then 0x41
    else if endpt && !ownsCtx s f (fld e 115 112) then 0x43
    else if endpt && decide (kind = 0) && !bit (ctxTiles s (fld e 115 112)) (fld e 106 100) then 0x41
    else if host then
      match qpOf s (fld e 247 224) with
      | none => 0x41
      | some x => if x.func = f then 0 else 0x43
    else if lo ≤ addr ∧ addr + size ≤ hi then 0 else 0x45

def queueCreate (f : Nat) : AdminFn := fun e s =>
  let r := queueCreateCheck s f e
  if r ≠ 0 then some (r, 0, s)
  else
    let q : Queue := {
      kind := queueKindOf (fld e 77 76), host := bit e 78, big := bit e 79, log2 := fld e 83 80, endpt := bit e 84, notify := fld e 87 86,
      cq := fld e 99 88, tile := fld e 106 100, ctx := fld e 115 112, bound := bit e 84, addr := fld e 191 128,
      rkey := BitVec.ofNat 32 (fld e 223 192), qpn := fld e 247 224 }
    some (0, 0, setQ (qKey f (fld e 75 64)) q s)

/-- Indices that cannot be created or destroyed (R424). -/
def fixedIndex (f i : Nat) : Bool := decide (i < 2 ∨ (f = 0 ∧ i = 2))

/-- QUEUE_DESTROY. A queue that holds the command itself completes it first. -/
def queueDestroyCheck (s : State) (f i : Nat) : Nat :=
  match qOf s (qKey f i) with
  | none => if fixedIndex f i then 0x41 else 0x51
  | some q =>
    if fixedIndex f i then 0x41
    else if s.queues.any (fun p => decide (p.1 / 4096 = f) && p.2.kind == .submission && !p.2.endpt && decide (p.2.cq = i)) then 0x44
    else if q.bound && decide ((ctxOf s q.ctx).state ≠ .free) then 0x44
    else 0

def queueDestroy (f q : Nat) (s : State) : State :=
  match adminTake f q s with
  | .error s => s
  | .ok e =>
    if fld e 7 0 ≠ 2 then s
    else
      let i := fld e 75 64
      let r := queueDestroyCheck s f i
      let s := qComplete f q (fld e 31 16) r 0 s
      if r = 0 then { s with queues := tdel s.queues (qKey f i) } else s

def queueQuery (f : Nat) : AdminFn := fun e s =>
  match qOf s (qKey f (fld e 75 64)) with
  | none => some (0x51, 0, s)
  | some q => some (0, q.pi + q.ci <<< 16 + q.error.toNat <<< 32, s)

/-! ### Context commands by queue (R428) -/

/-- A write of a context's RW register (R57): none when its state does not allow it. -/
def ctxRegWrite (c off v : Nat) (s : State) : Option State :=
  let st := (ctxOf s c).state
  let low := decide (off < 0x60 ∨ off = 0x70)
  let ok := if low then decide (st = .free) else decide (st = .created ∨ st = .done)
  if !ok then none
  else match regSpec (aCtx c off) with
    | some r => some (regPut (aCtx c off) (Nat.land v r.rw) s)
    | none => none

/-- CTX_CREATE: one command of the CTX block, which ends the entry when it is carried out (R53, R428). -/
def ctxCreate (f q : Nat) (s : State) : State :=
  match adminTake f q s with
  | .error s => s
  | .ok e =>
    if fld e 7 0 ≠ 0x10 then s
    else if f = 0 then qComplete f q (fld e 31 16) 0x43 0 s
    else ctxCommand { src := .queue f q, ctx := 0, cmd := 1 + (bit e 8).toNat <<< 8 + f <<< 12, entry := some e } s

def ctxSet (f : Nat) : AdminFn := fun e s =>
  let c := fld e 67 64
  let o := fld e 79 72
  if !ownsCtx s f c then some (0x43, 0, s)
  else if ([0x60, 0x68, 0x78, 0x80].contains o) = false then some (0x41, 0, s)
  else match ctxRegWrite c o (fld e 191 128) s with
    | some s => some (0, 0, s)
    | none => some (1, 0, accessFault .f0 5 (aCtx c o) s)

def ctxRead (f : Nat) : AdminFn := fun e s =>
  let c := fld e 67 64
  if f ≠ 0 ∧ !ownsCtx s f c then some (0x43, 0, s)
  else some (0, ctxStateView s c + (ctxOf s c).gen.toNat <<< 32 + stepOf s c <<< 64 + mbStatusView s c <<< 128, s)

/-- CTX_CMD of a CMD on a context from submission queue F:q: it writes CTX_CMD, whatever row asks where the CMD is no row's (R428). -/
def ctxByQueue (f q c cmd : Nat) (s : State) : State :=
  match adminTake f q s with
  | .error s => s
  | .ok e =>
    let o := fld e 83 80
    let d := fld e 67 64
    if fld e 7 0 ≠ 0x12 then s
    else if f ≠ 0 ∧ !ownsCtx s f d then qComplete f q (fld e 31 16) 0x43 0 s
    else if (d = c ∧ o = cmd) ∨ o < 2 ∨ 5 < o then ctxCommand { src := .queue f q, ctx := d, cmd := o } s
    else s

/-! ### Memory regions and queue pairs (R430, R431) -/

/-- A value of w bits from a free value on that a set does not hold. -/
def unusedFrom (w v : Nat) (used : Nat → Bool) (n : Nat) : Nat :=
  (((List.range n).map (fun i => (v + i) % 2 ^ w)).find? (fun i => !used i)).getD 0

def mrReg (f : Nat) : AdminFn := fun e s =>
  let c := fld e 67 64
  let a := fld e 167 128
  let n := fld e 255 192
  if !ownsCtx s f c then some (0x43, 0, s)
  else if n = 0 then some (0x41, 0, s)
  else if hbmTop < a + n ∨ !inPartition s c a n then some (0x45, 0, s)
  else if 65536 ≤ s.mrs.length then some (0x42, 0, s)
  else
    let (v, s) := freeBits 32 s
    let key := unusedFrom 32 v (fun i => (tget s.mrs i).isSome || decide (0xFFFFFF00 ≤ i)) 66000
    let m : MemRegion := { func := f, ctx := c, gen := (ctxOf s c).gen, base := a, len := n, write := bit e 8, read := bit e 9 }
    some (0, key, { s with mrs := tput s.mrs key m })

def mrDereg (f : Nat) : AdminFn := fun e s =>
  let k := fld e 95 64
  match tget s.mrs k with
  | none => some (if 0xFFFFFF00 ≤ k then 0x43 else 0x41, 0, s)
  | some m => if m.func = f then some (0, 0, { s with mrs := tdel s.mrs k }) else some (0x43, 0, s)

/-- Queue pairs of a function. -/
def fnQps (s : State) (f : Nat) : Nat := (s.qps.filter (fun p => p.2.func = f)).length

def qpCreate (f : Nat) : AdminFn := fun _ s =>
  if fld (regRaw s (aFn f 0x34)) 12 0 ≤ fnQps s f ∨ 4096 ≤ s.qps.length then some (0x42, 0, s)
  else
    let (v, s) := freeBits 24 s
    let n := unusedFrom 24 v (fun i => (tget s.qps i).isSome) 5000
    some (0, n, setQp n { func := f } s)

def qpStateOf (v : Nat) : QpState := match v with | 0 => .reset | 1 => .init | 2 => .rtr | 3 => .rts | _ => .error

/-- Host-memory rings of queue pair n enter ERROR (R419). -/
def qpLeft (n : Nat) (s : State) : State :=
  { s with queues := s.queues.map (fun p => if p.2.host && p.2.qpn == n then (p.1, { p.2 with error := true }) else p) }

/-- Queue pair n enters a state: in RTS what waits leaves; out of RTS its rings fail and nothing waits. -/
def qpEnter (n : Nat) (x : Qp) (st : QpState) (s : State) : State :=
  if st = .rts then roceGo n (setQp n { x with state := st } s)
  else if x.state = .rts then qpLeft n (setQp n { x with state := st, waiting := [] } s)
  else setQp n { x with state := st } s

def qpModify (f : Nat) : AdminFn := fun e s =>
  let n := fld e 87 64
  match qpOf s n with
  | none => some (0x41, 0, s)
  | some x =>
    let st := fld e 91 88
    let mtu := fld e 94 92
    if x.func ≠ f then some (0x43, 0, s)
    else if 4 < st ∨ ((st = 2 ∨ st = 3) ∧ (mtu < 3 ∨ 5 < mtu)) ∨ subPorts (fld (regRaw s (aHost 0)) 2 0) ≤ fld e 387 384 then some (0x41, 0, s)
    else
      let y := { x with params := BitVec.ofNat 448 (e >>> 64) }
      let y := if st = 2 then { y with expPsn := fld e 167 144, partBuf := [] } else y
      let y := if st = 3 ∧ x.state ≠ .rts then { y with sendPsn := fld e 143 120, retries := 0, rnr := 0 } else y
      let y := if st = 0 then { y with unacked := [], partBuf := [], retries := 0, rnr := 0 } else y
      some (0, 0, qpEnter n y (qpStateOf st) s)

def qpDestroy (f : Nat) : AdminFn := fun e s =>
  let n := fld e 87 64
  match qpOf s n with
  | none => some (0x41, 0, s)
  | some x =>
    if x.func ≠ f then some (0x43, 0, s)
    else if s.queues.any (fun p => p.2.host && p.2.qpn == n) then some (0x44, 0, s)
    else some (0, 0, { s with qps := tdel s.qps n })

/-! ### Functions (R424, R433, R437) -/

/-- The queues that a function has when it becomes ENABLED (R424): F:0, F:1, and F0's log queue (R519). -/
def adminQueues (f : Nat) (s : State) : State :=
  let adm := regRaw s (aFn f 0x30)
  let base := (qmemRange s f).1
  let cqb := base + 64 <<< fld adm 3 0
  let s := setQ (qKey f 0) { kind := .submission, log2 := fld adm 3 0, cq := 1, addr := base } s
  let s := setQ (qKey f 1) { kind := .completion, log2 := fld adm 7 4, notify := 2, addr := cqb } s
  if f = 0 then setQ 2 { kind := .log, big := true, log2 := fld adm 11 8, notify := 1, addr := cqb + 64 <<< fld adm 7 4 } s else s

/-- Bytes that the rings of R424 take. -/
def adminBytes (s : State) (f : Nat) : Nat :=
  let adm := regRaw s (aFn f 0x30)
  64 <<< fld adm 3 0 + 64 <<< fld adm 7 4 + (if f = 0 then 256 <<< fld adm 11 8 else 0)

/-- EN may be set: the queue range lies in HBM, meets no context range and no other function's, and holds the rings (R437). -/
def mayEnable (s : State) (f : Nat) : Bool :=
  let r := qmemRange s f
  let adm := regRaw s (aFn f 0x30)
  let ctx := (List.range 16).flatMap (fun c => if (ctxOf s c).state = .free then [] else ctxHalfRanges s c)
  let fns := ((List.range 16).filter (fun n => decide (n ≠ f))).filterMap (fnRange s)
  let depthOk (v : Nat) : Bool := decide (2 ≤ v ∧ v ≤ 15)
  decide (r.1 < r.2 ∧ r.2 ≤ hbmTop ∧ r.1 + adminBytes s f ≤ r.2) && (ctx ++ fns).all (fun u => !rangesMeet r u)
    && depthOk (fld adm 3 0) && depthOk (fld adm 7 4) && (decide (f ≠ 0) || depthOk (fld adm 11 8))

/-- Function f becomes ENABLED. -/
def enableFn (f : Nat) (s : State) : State := adminQueues f (setFnState f 1 s)

/-- Step 1 and 2 of a per-function reset (Table 13-10). -/
def resetFn (f : Nat) (s : State) : State :=
  let s := trace 3 1 f 1 (regMod (aHost 0xC) (fun v => setBit v f true) (setFnState f 2 s))
  (List.range 16).foldl (fun s c =>
    let x := ctxOf s c
    if x.func = f ∧ x.state ≠ .free ∧ x.state ≠ .teardown then teardownStart c s else s) s

/-- Every context of the function has reached FREE. -/
def fnTornDown (s : State) (f : Nat) : Bool := (List.range 16).all (fun c => !ownsCtx s f c)

/-- Steps 3 to 5: queue pairs, regions, queues, commands in progress and sessions of the function are gone. -/
def clearFn (f : Nat) (s : State) : State :=
  { s with
    qps := s.qps.filter (fun p => p.2.func ≠ f)
    mrs := s.mrs.filter (fun p => p.2.func ≠ f)
    queues := s.queues.filter (fun p => p.1 / 4096 ≠ f)
    rrNext := tdel s.rrNext f
    sessions := s.sessions.filter (fun x => x.func ≠ f)
    ctxQueue := s.ctxQueue.filter (fun x => match x.src with | .queue g _ => g != f | .reg _ => true)
    heldRoce := s.heldRoce.filter (fun p => match tget s.qps p.2.1 with | some x => x.func != f | none => true)
    ctxs := s.ctxs.map (fun p => (p.1, { p.2 with
      loadWaiter := p.2.loadWaiter.filter (fun w => w.f ≠ f)
      tdWaiter := p.2.tdWaiter.filter (fun w => w.f ≠ f) })) }

/-- FRESET_TEARDOWN_DONE's effect: steps 3 to 6. -/
def fresetDone (f : Nat) (s : State) : State :=
  if fnState s f ≠ 2 ∨ !fnTornDown s f then s
  else
    let s := trace 3 1 f 5 (trace 3 1 f 4 (trace 3 1 f 3 (ctxNext (clearFn f (trace 3 1 f 2 s)))))
    let s := if bit (fnCfg s f) 31 then enableFn f s else setFnState f 0 s
    trace 3 1 f 6 (postEvent 0 4 0 0 f (regMod (aHost 0xC) (fun v => setBit v f false) s))

/-- A write of HOSTP_FRESET: each bit written 1 asks for a reset. -/
def fresetWrite (v : Nat) (s : State) : State :=
  (List.range 16).foldl (fun s n => if bit v n && decide (fnState s n ≠ 2) then resetFn n s else s) s

/-- A write of HOSTP_FNn_CFG: fields other than EN only while DISABLED, but for F0's V4 and V6 (R437). -/
def fnCfgWrite (f v : Nat) (s : State) : Option State :=
  let used := mask 31 29 + mask 26 24 + mask 22 20 + 0x10000 + mask 11 0
  let old := Nat.land (fnCfg s f) used
  let v := Nat.land v used
  let free := if f = 0 then mask 30 29 else 0
  let same := decide (Nat.land (Nat.xor old v) (2 ^ 31 - 1 - free) = 0)
  let disabled := decide (fnState s f = 0)
  if !disabled && !(same && (decide (Nat.land (Nat.xor old v) free = 0) || decide (fnState s f = 1))) then none
  else
    let s := regPut (aFn f 0) v s
    if bit v 31 && !bit old 31 then
      if mayEnable s f then some (if disabled then enableFn f s else s) else none
    else if bit old 31 && !bit v 31 && !disabled then some (if fnState s f = 2 then s else resetFn f s)
    else some s

/-- A write of another register of a function (R437). -/
def fnRegFree (s : State) (f off : Nat) : Bool :=
  decide (fnState s f = 0) || (decide (f = 0) && decide (fnState s f = 1) && decide (off = 8 ∨ off = 0x10 ∨ off = 0x18))

/-- HOSTP_FNn_STATE as it reads. -/
def fnStateView (s : State) (f : Nat) : Nat :=
  fnState s f + (s.sessions.filter (fun x => x.func = f)).length <<< 8 + fnQps s f <<< 16

/-! ### Commands -/

def execQueueCreate (f q : Nat) (s : State) : Host.Outcome State Fault Refusal :=
  act (fnOk f && decide (q < 4096)) s (adminRow f q 0x01 (queueCreate f))

def execQueueDestroy (f q : Nat) (s : State) : Host.Outcome State Fault Refusal :=
  act (fnOk f && decide (q < 4096)) s (queueDestroy f q)

def execQueueQuery (f q : Nat) (s : State) : Host.Outcome State Fault Refusal :=
  act (fnOk f && decide (q < 4096)) s (adminRow f q 0x03 (queueQuery f))

def execCtxCreate (f q : Nat) (s : State) : Host.Outcome State Fault Refusal :=
  act (fnOk f && decide (q < 4096)) s (ctxCreate f q)

def execCtxSet (f q : Nat) (s : State) : Host.Outcome State Fault Refusal :=
  act (fnOk f && decide (q < 4096)) s (adminRow f q 0x11 (ctxSet f))

def execCtxRead (f q : Nat) (s : State) : Host.Outcome State Fault Refusal :=
  act (fnOk f && decide (q < 4096)) s (adminRow f q 0x13 (ctxRead f))

def execMrReg (f q : Nat) (s : State) : Host.Outcome State Fault Refusal :=
  act (fnOk f && decide (q < 4096)) s (adminRow f q 0x20 (mrReg f))

def execMrDereg (f q : Nat) (s : State) : Host.Outcome State Fault Refusal :=
  act (fnOk f && decide (q < 4096)) s (adminRow f q 0x21 (mrDereg f))

def execQpCreate (f q : Nat) (s : State) : Host.Outcome State Fault Refusal :=
  act (fnOk f && decide (q < 4096)) s (adminRow f q 0x22 (qpCreate f))

def execQpModify (f q : Nat) (s : State) : Host.Outcome State Fault Refusal :=
  act (fnOk f && decide (q < 4096)) s (adminRow f q 0x23 (qpModify f))

def execQpDestroy (f q : Nat) (s : State) : Host.Outcome State Fault Refusal :=
  act (fnOk f && decide (q < 4096)) s (adminRow f q 0x24 (qpDestroy f))

def execFresetTeardownDone (n : Nat) (s : State) : Host.Outcome State Fault Refusal := act (fnOk n) s (fresetDone n)

end Sys2Proof.Machine
end

