-- ==== Sys2Proof/Machine/Copy.lean ====
section
/-!
DEFINITION. The copy engine (chapter 11): decode, the rows of each kind, completion, and the conditions of the fences.
-/

namespace Sys2Proof.Machine

/-- A decode fault takes effect once every earlier descriptor has started (R346). Its record names the descriptor, or the word of it in error. -/
def cpySettle (t : Nat) (s : State) : State :=
  let c := cpyOf s t
  match c.fault with
  | some (code, off) =>
    if c.decoded.all (fun d => d.started) then
      let o := if code = 3 then (firstUe s t [(off, 32)]).getD off else off
      cpyStop t c.numNext off 0 code 0 (if code = 3 then (3, 1) else cpyClass code 0) (some (gAt (ownDev s) (spdAddr t o))) s
    else s
  | none => s

/-- COPY_DECODE's effect (R342). -/
def copyDecode (t : Nat) (s : State) : State :=
  let c := cpyOf s t
  match c.queue with
  | [] => s
  | r :: _ =>
    if c.stopped || c.fault.isSome || decide (4 ≤ (c.decoded.filter (fun d => !d.started)).length) then s
    else
      let d := ofBytes (spdRead (portView t portCpy s) t r.off 32)
      let x : CpyDesc := { desc := BitVec.ofNat 256 d, off := r.off, no := c.numNext, started := false }
      let ue := firstUe s t [(r.off, 32)]
      let bad := if ue.isSome then some 3 else cpyCheck d
      let s := portTake t portCpy r.off 32 (match ue with | some w => unitUe t portCpy w s | none => s)
      let s := modCpy t (fun c => { c with queue := match c.queue with
        | [] => []
        | r :: rest => if r.n ≤ 1 then rest else { off := r.off + 32, n := r.n - 1, ord := r.ord + 1 } :: rest }) s
      match bad with
      | some code => cpySettle t (modCpy t (fun c => { c with fault := some (code, r.off) }) s)
      | none => modCpy t (fun c => { c with decoded := c.decoded ++ [x], numNext := c.numNext + 1 }) s

/-- The bytes lie in HBM and scratchpads, which follow one another (R34, R341). -/
def copyable (a n : Nat) : Bool := decide (a + n ≤ spdBase + 128 * spdSize)

/-- What R341 and R48 say against bytes of a device: none, or the record's class and code. An address that is no memory is told before a device outside
the job (DESIGN CHOICE: log entry 122). -/
def copyDenied (s : State) (c dev a n : Nat) (hbmOnly : Bool) : Option (Nat × Nat) :=
  if !copyable a n || (hbmOnly && decide (hbmTop < a + n)) then some (1, 3)
  else if dev = ownDev s then (if mayReach s c a n then none else some (1, 3))
  else if (tget (ctxOf s c).jobMap dev).isSome then none
  else some (1, 4)

/-- The first byte range of a row that is denied, as (class and code, global address). -/
def rowDenied (s : State) (c d : Nat) (ps : List (Nat × Nat × Nat)) : Option ((Nat × Nat) × Nat) :=
  ps.findSome? (fun p =>
    match copyDenied s c (cSrcDev d) p.1 p.2.2 false with
    | some k => some (k, gAt (cSrcDev d) p.1)
    | none => match copyDenied s c (cDstDev d) p.2.1 p.2.2 (decide (cKind d = 4)) with
      | some k => some (k, gAt (cDstDev d) p.2.1)
      | none => none)

/-- The stop for an uncorrectable word at offset w of the own scratchpad (R291, R346). -/
def cpyUe (t no row off c w : Nat) (s : State) : State :=
  cpyStop t no off row 3 0 (3, 1) (some (gAt (ownDev s) (spdAddr t w))) (scrambleRow t c no row (unitUe t portCpy w s))

/-- Read n bytes of the source for a piece: at once from the own scratchpad by its port, by an access elsewhere; an access goes on where the own
scratchpad ends. -/
def postRead (t no row off c : Nat) (g : BitVec 16) (src dst n : Nat) (q : Option RedReq) (s : State) : State :=
  let own := if gDev src = ownDev s then (spdOf (gAddr src)).filter (fun p => p.1 == t) else none
  match own with
  | some (_, o) =>
    let m := min n (spdSize - o)
    match firstUe s t [(o, m)] with
    | some w => cpyUe t no row off c w s
    | none =>
      let d := spdRead (portView t portCpy s) t o m
      let s := portTake t portCpy o m s
      if m < n then post t no row off c g src (.read n d dst q) s
      else match q with
        | none => postWrite t no row off c g dst d s
        | some r => postReduce t no row off c g dst r d s
  | none => post t no row off c g src (.read n [] dst q) s

/-- Source bytes of a descriptor that overlap its destination bytes, as a test of an address on either side. -/
def overlapTest (s : State) (t d : Nat) : Nat → Nat → Bool :=
  if cSrcDev d = cDstDev d then
    let ps := (List.range (cRows d)).flatMap (fun i => rowPieces d i (gatherIndex s t d i))
    let hit (p : Nat × Nat × Nat) : Bool := ps.any (fun q => overlap p.2.1 p.2.2 q.1 q.2.2)
    if ps.any hit then fun a b => ps.any (fun q => decide ((q.1 ≤ b ∧ b < q.1 + q.2.2) ∨ (q.2.1 ≤ a ∧ a < q.2.1 + q.2.2)))
    else fun _ _ => false
  else fun _ _ => false

/-- The descriptor is started and in the stream. -/
def cpyGoes (s : State) (t no : Nat) : Bool := (cpyOf s t).decoded.any (fun d => d.no == no && d.started)

/-- One byte of a piece in a descriptor that overlaps itself: a free value in the overlap. -/
def overlapByte (test : Nat → Nat → Bool) (t no row off c : Nat) (g : BitVec 16) (sd dd src dst : Nat) (s : State) : State :=
  if !cpyGoes s t no then s
  else if test src dst then
    let (v, s) := freeData 1 s
    postWrite t no row off c g (gAt dd dst) v s
  else postRead t no row off c g (gAt sd src) (gAt dd dst) 1 none s

/-- Perform one piece of a row; `lap` says that the descriptor's bytes overlap somewhere (R342). -/
def doPiece (lap : Bool) (test : Nat → Nat → Bool) (t c d : Nat) (g : BitVec 16) (x : CpyDesc) (row : Nat) (p : Nat × Nat × Nat) (s : State) :
    State :=
  let src := gAt (cSrcDev d) p.1
  let dst := gAt (cDstDev d) p.2.1
  if !cpyGoes s t x.no then s
  else if cKind d = 4 then
    if (List.range p.2.2).any (fun k => test (p.1 + k) (p.2.1 + k)) then
      let (v, s) := freeData p.2.2 s
      postReduce t x.no row x.off c g dst (cReq d) v s
    else postRead t x.no row x.off c g src dst p.2.2 (some (cReq d)) s
  else if lap then
    (List.range p.2.2).foldl (fun s i => overlapByte test t x.no row x.off c g (cSrcDev d) (cDstDev d) (p.1 + i) (p.2.1 + i) s) s
  else postRead t x.no row x.off c g src dst p.2.2 none s

/-- Row i of a descriptor: its index and its bytes are checked before it starts (R342). -/
def doRow (lap : Bool) (test : Nat → Nat → Bool) (t c : Nat) (g : BitVec 16) (x : CpyDesc) (i : Nat) (s : State) : State :=
  let d := x.desc.toNat
  match (if cKind d = 3 then firstUe s t [(cIdx d + 4 * i, 4)] else none) with
  | some w => cpyUe t x.no i x.off c w s
  | none =>
    let ps := rowPieces d i (gatherIndex s t d i)
    let s := if cKind d = 3 then portTake t portCpy (cIdx d + 4 * i) 4 s else s
    match rowDenied s c d ps with
    | some (k, a) => cpyStop t x.no x.off i 2 0 k (some a) (scrambleRow t c x.no i s)
    | none => ps.foldl (fun s p => doPiece lap test t c d g x i p s) s

/-- A descriptor's next row may start: the row before it is complete, all its reads returned and its writes performed, so that a fault finds no
later row started (R346; DESIGN CHOICE: log entry 122). -/
def rowReady (s : State) (t no i : Nat) : Bool :=
  (cpyOf s t).decoded.any (fun d => d.no == no && d.started && d.row == i) && !cpyInFlight s t no

/-- The rows of a descriptor, in ascending order (R343), as far as they go. -/
def doRows (t c : Nat) (g : BitVec 16) (x : CpyDesc) (s : State) : State :=
  let d := x.desc.toNat
  let test := overlapTest s t d
  let lap := (List.range (cRows d)).any (fun i => (rowPieces d i (gatherIndex s t d i)).any (fun p =>
    (List.range p.2.2).any (fun k => test (p.1 + k) (p.2.1 + k))))
  (List.range (cRows d)).foldl (fun s i =>
    if rowReady s t x.no i then
      modCpy t (fun y => { y with decoded := y.decoded.map (fun z => if z.no = x.no then { z with row := i + 1 } else z) }) (doRow lap test t c g x i s)
    else s) s

/-- A row of the kind goes on: the first started descriptor of the kind whose next row may start; else the next descriptor starts, when it is of the
kind and, with ORDER, when every earlier one has completed. -/
def copyStart (kind t : Nat) (s : State) : State :=
  let cp := cpyOf s t
  match tileCtx s t with
  | none => s
  | some c =>
    match cp.decoded.find? (fun d => cKind d.desc.toNat == kind && decide (d.row < cRows d.desc.toNat) && rowReady s t d.no d.row) with
    | some x => doRows t c (ctxOf s c).gen x s
    | none =>
      match cp.decoded.find? (fun d => !d.started) with
      | some x =>
        let d := x.desc.toNat
        if cp.stopped || cKind d != kind || (cOrder d && x.no != cp.doneTo) then s
        else
          let s := modCpy t (fun y => { y with decoded := y.decoded.map (fun z => if z.no = x.no then { z with started := true } else z) }) s
          cpySettle t (doRows t c (ctxOf s c).gen x s)
      | none => s

/-- A read of a descriptor has not returned. -/
def readPending (s : State) (t no : Nat) : Bool :=
  s.accs.any (fun a => match a.origin, a.op with
    | .cpy u k _ _, .read _ _ _ _ => u == t && k == no
    | _, _ => false)

/-- A posted write or request of a descriptor before `mark` of tile t is not performed; `far` says whether other modules count. -/
def postedBefore (s : State) (t mark : Nat) (far : Bool) : Bool :=
  s.accs.any (fun a => match a.origin, a.op with
    | .cpy _ _ _ _, .read _ _ _ _ => false
    | .cpy u k _ _, _ => u == t && decide (k < mark) && (far || gDev a.addr == ownDev s)
    | _, _ => false)

/-- COPY_COMPLETE's effect (R343): the oldest descriptor completes. -/
def copyComplete (t : Nat) (s : State) : State :=
  match (cpyOf s t).decoded with
  | [] => s
  | x :: _ =>
    if !x.started || decide (x.row < cRows x.desc.toNat) || readPending s t x.no then s
    else modCpy t (fun c => { c with count := c.count + 1, doneTo := x.no + 1 }) (cpyLeave t (fun d => d.no == x.no) s)

/-- The stream has no released descriptor that has not completed and is not stopped (R337). -/
def cpyIdle (s : State) (t : Nat) : Bool :=
  let c := cpyOf s t
  !c.stopped && c.queue.isEmpty && c.decoded.isEmpty && c.fault.isNone

/-- A write of CPY_DESC_HEAD (R337). -/
def cpyHeadWrite (t v : Nat) (s : State) : Option State :=
  if cpyIdle s t then some (regPut (aTile t 6 0) (Nat.land v (mask 22 5)) s) else none

/-- CPY_STATUS as it reads (Table 11-11). -/
def cpyStatusView (s : State) (t : Nat) : Nat :=
  let c := cpyOf s t
  (if c.stopped then 2 else if cpyIdle s t then 0 else 1) + (c.decoded.filter (fun d => !d.started)).length <<< 8
    + Nat.land (regRaw s (aTile t 6 8)) 0x800

/-- COPY_DECODE. -/
def execCopyDecode (t : Nat) (s : State) : Host.Outcome State Fault Refusal := act (tileOk t) s (copyDecode t)
/-- COPY. -/
def execCopy (t : Nat) (s : State) : Host.Outcome State Fault Refusal := act (tileOk t) s (copyStart 0 t)
/-- TO_WB. -/
def execToWb (t : Nat) (s : State) : Host.Outcome State Fault Refusal := act (tileOk t) s (copyStart 1 t)
/-- FROM_WB. -/
def execFromWb (t : Nat) (s : State) : Host.Outcome State Fault Refusal := act (tileOk t) s (copyStart 2 t)
/-- GATHER. -/
def execGather (t : Nat) (s : State) : Host.Outcome State Fault Refusal := act (tileOk t) s (copyStart 3 t)
/-- REDUCE. -/
def execCopyReduce (t : Nat) (s : State) : Host.Outcome State Fault Refusal := act (tileOk t) s (copyStart 4 t)
/-- COPY_COMPLETE. -/
def execCopyComplete (t : Nat) (s : State) : Host.Outcome State Fault Refusal := act (tileOk t) s (copyComplete t)

end Sys2Proof.Machine
end

