-- ==== Sys2Proof/Machine/Csr.lean ====
section
/-!
DEFINITION. A steward's control and status registers (R90, R93, R95, R118–R120, Table 3-5) and its physical memory protection (R95).
-/

namespace Sys2Proof.Machine

/-- An integer register; x0 reads zero and discards writes. -/
def gprOf (x : Steward) (i : Nat) : Nat := if i = 0 then 0 else (tgetD (0 : Word) x.gpr i).toNat
def setGpr (i v : Nat) (x : Steward) : Steward := if i = 0 then x else { x with gpr := tset 0 x.gpr i (BitVec.ofNat 64 v) }

/-! ### PMP -/

/-- R, W, X, A and L of entry i. -/
def pmpCfg (x : Steward) (i : Nat) : Nat := (tgetD (0 : Byte) x.pmpcfg i).toNat
def pmpMode (x : Steward) (i : Nat) : Nat := fld (pmpCfg x i) 4 3
def pmpLocked (x : Steward) (i : Nat) : Bool := bit (pmpCfg x i) 7

/-- An entry's configuration as a write leaves it: NA4 becomes OFF, W without R is dropped, bits 6 and 5 read zero. -/
def pmpLegal (v : Nat) : Nat :=
  let v := Nat.land v 0x9F
  let v := if fld v 4 3 = 2 then setFld v 4 3 0 else v
  if !bit v 0 then setBit v 1 false else v

/-- The bits of an address register that the granularity of 64 bytes leaves: read as ones under NAPOT, as zeros else. -/
def pmpAddrRead (x : Steward) (i : Nat) : Nat :=
  let a := (tgetD (0 : Word) x.pmpaddr i).toNat
  if pmpMode x i = 3 then setFld a 2 0 7 else setFld a 3 0 0

/-- First byte and end of the region of entry i. -/
def pmpRegion (x : Steward) (i : Nat) : Option (Nat × Nat) :=
  let a := (tgetD (0 : Word) x.pmpaddr i).toNat
  match pmpMode x i with
  | 1 =>
    let lo := if i = 0 then 0 else setFld (tgetD (0 : Word) x.pmpaddr (i - 1)).toNat 3 0 0 * 4
    some (lo, setFld a 3 0 0 * 4)
  | 3 =>
    let a := setFld a 2 0 7
    let k := ((List.range 54).find? (fun j => !bit a j)).getD 54
    some (setFld a k 0 0 * 4, setFld a k 0 0 * 4 + 2 ^ (k + 3))
  | _ => none

/-- The kinds of access that PMP tells apart. -/
inductive PmpAccess where
  | fetch | load | store
  deriving DecidableEq, Repr

/-- PMP lets a mode access n bytes from address a: the first entry that meets a byte decides, and must hold them all. -/
def pmpAllows (x : Steward) (mode : Mode) (k : PmpAccess) (a n : Nat) : Bool :=
  let meets (i : Nat) : Bool := match pmpRegion x i with | some (lo, hi) => decide (lo < a + n ∧ a < hi ∧ lo < hi) | none => false
  match (List.range 8).find? meets with
  | none => mode == .machine
  | some i =>
    let whole : Bool := match pmpRegion x i with | some (lo, hi) => decide (lo ≤ a ∧ a + n ≤ hi) | none => false
    let c := pmpCfg x i
    let perm := match k with | .fetch => bit c 2 | .load => bit c 0 | .store => bit c 1
    whole && ((mode == .machine && !bit c 7) || perm)

/-- The mode of loads and stores: that of MPP while MPRV is set. -/
def dataMode (x : Steward) : Mode :=
  if bit x.mstatus.toNat 17 then (if fld x.mstatus.toNat 12 11 = 3 then .machine else .user) else x.mode

/-! ### CSR numbers -/

/-- Completion counts: stream s of an array, copy, vector engine. -/
def countCsr (s : State) (t i : Nat) : Nat :=
  match i with
  | 0 => (maOf s t 0).stream0.count.toNat
  | 1 => (maOf s t 0).stream1.count.toNat
  | 2 => (maOf s t 1).stream0.count.toNat
  | 3 => (maOf s t 1).stream1.count.toNat
  | 4 => (cpyOf s t).count.toNat
  | _ => (vxeOf s t).count.toNat

/-- wtileid of steward n of tile t. -/
def wtileid (s : State) (t n : Nat) : Nat :=
  let c := (tileCtx s t).getD 0
  t + n <<< 8 + ownDev s <<< 12 + c <<< 24 + (ctxOf s c).gen.toNat <<< 32

/-- The CSRs that exist. -/
def csrExists (k : Nat) : Bool :=
  [0x300, 0x301, 0x302, 0x304, 0x305, 0x306, 0x340, 0x341, 0x342, 0x343, 0x344, 0x3A0, 0xB00, 0xB02, 0xC00, 0xC01, 0xC02, 0xF11, 0xF12, 0xF13,
   0xF14, 0xCC0, 0xCC1, 0xCC2, 0xCC3, 0xCC8, 0xCC9, 0xCCA, 0xCCB, 0xCCC, 0xCCD, 0x7C0].contains k || decide (0x3B0 ≤ k ∧ k < 0x3B8)

/-- A CSR number is read-only, and needs machine mode. -/
def csrReadOnly (k : Nat) : Bool := decide (fld k 11 10 = 3)
def csrMachine (k : Nat) : Bool := decide (fld k 9 8 = 3)

/-- A mode may access CSR k: mcounteren gates the user-level counters (R119). -/
def csrAllowed (x : Steward) (k : Nat) : Bool :=
  x.mode == .machine ||
    (!csrMachine k &&
      (match k with
        | 0xC00 => bit x.mcounteren.toNat 0
        | 0xC01 => bit x.mcounteren.toNat 1
        | 0xCC0 => bit x.mcounteren.toNat 1
        | 0xC02 => bit x.mcounteren.toNat 2
        | _ => true))

/-- The value of CSR k of steward n of tile t, with the state that has read it: a cycle count is a free value (DEDUCED: log entry 24). mstatus.UXL
reads 2, a user mode of 64 bits (DEDUCED: log entry 24). -/
def csrRead (s : State) (t n k : Nat) : Nat × State :=
  let x := stOf s t n
  let c := (tileCtx s t).getD 0
  if k = 0xB00 ∨ k = 0xC00 then freeBits 64 s
  else
    (match k with
      | 0x300 => x.mstatus.toNat + 2 <<< 32
      | 0x301 => 0x8000000000101105
      | 0x305 => x.mtvec.toNat
      | 0x306 => x.mcounteren.toNat
      | 0x340 => x.mscratch.toNat
      | 0x341 => x.mepc.toNat
      | 0x342 => x.mcause.toNat
      | 0x343 => x.mtval.toNat
      | 0x3A0 => (List.range 8).foldl (fun v i => v + pmpCfg x i <<< (8 * i)) 0
      | 0xB02 => x.instret.toNat
      | 0xC02 => x.instret.toNat
      | 0xC01 => now s
      | 0xCC0 => now s
      | 0xF14 => 2 * t + n
      | 0xCC1 => wtileid s t n
      | 0xCC2 => (ctxOf s c).rank
      | 0xCC3 => stepOf s c
      | 0x7C0 => x.intrap.toNat
      | _ => if 0xCC8 ≤ k ∧ k ≤ 0xCCD then countCsr s t (k - 0xCC8) else if 0x3B0 ≤ k ∧ k < 0x3B8 then pmpAddrRead x (k - 0x3B0) else 0, s)

/-- mstatus as a write leaves it: MIE, MPIE, MPP, MPRV, TW; MPP keeps its value against a mode that does not exist. -/
def mstatusWrite (old v : Nat) : Nat :=
  let m := setFld (Nat.land v (mask 21 21 + mask 17 17 + mask 7 7 + mask 3 3)) 12 11 (fld v 12 11)
  if fld v 12 11 = 0 ∨ fld v 12 11 = 3 then m else setFld m 12 11 (fld old 12 11)

/-- Entry i's address register may be written: neither it nor a locked TOR entry above it holds it. -/
def pmpAddrFree (x : Steward) (i : Nat) : Bool := !pmpLocked x i && !(decide (i < 7) && pmpLocked x (i + 1) && decide (pmpMode x (i + 1) = 1))

/-- CSR k written with a value. Fields that do not exist keep reading zero; a CSR without writable fields keeps its value. -/
def csrWrite (k v : Nat) (x : Steward) : Steward :=
  let w (v : Nat) : Word := BitVec.ofNat 64 v
  match k with
  | 0x300 => { x with mstatus := w (mstatusWrite x.mstatus.toNat v) }
  | 0x305 => { x with mtvec := w (setFld v 1 0 0) }
  | 0x306 => { x with mcounteren := w (fld v 2 0) }
  | 0x340 => { x with mscratch := w v }
  | 0x341 => { x with mepc := w (setBit v 0 false) }
  | 0x342 => { x with mcause := w v }
  | 0x343 => { x with mtval := w v }
  | 0xB02 => { x with instret := w v }
  | 0x7C0 => { x with intrap := bit v 0 }
  | 0x3A0 =>
    { x with pmpcfg := (List.range 8).foldl (fun m i =>
        if pmpLocked x i then m else tset 0 m i (BitVec.ofNat 8 (pmpLegal (fld v (8 * i + 7) (8 * i))))) x.pmpcfg }
  | _ =>
    if 0x3B0 ≤ k ∧ k < 0x3B8 ∧ pmpAddrFree x (k - 0x3B0) then { x with pmpaddr := tset 0 x.pmpaddr (k - 0x3B0) (w (fld v 53 0)) } else x

/-- The order in which the dump lists the CSRs: R118, R95, Table 3-5. -/
def csrOrder : List Nat :=
  [0x300, 0x301, 0x305, 0x341, 0x342, 0x343, 0x340, 0x306, 0x302, 0xF14, 0xF11, 0xF12, 0xF13, 0x3A0, 0x3B0, 0x3B1, 0x3B2, 0x3B3, 0x3B4, 0x3B5,
   0x3B6, 0x3B7, 0xC00, 0xC01, 0xC02, 0xB00, 0xB02, 0xCC0, 0xCC1, 0xCC2, 0xCC3, 0xCC8, 0xCC9, 0xCCA, 0xCCB, 0xCCC, 0xCCD, 0x7C0]

end Sys2Proof.Machine
end

