-- ==== Sys2Proof/Machine/Array.lean ====
section
/-!
DEFINITION. The matrix arrays (chapter 4): decode and its checks, shadow loads, entry of a pass with its arithmetic, completion.
A pass's rows are computed where it enters and converted as it completes (DESIGN CHOICE: log entry 18).
-/

namespace Sys2Proof.Machine

/-! ### Decode checks (Table 4-9) -/

/-- Check 1. -/
def check1 (d : Nat) : Bool :=
  (decide (1 ≤ dOpcode d ∧ dOpcode d ≤ 6) || isFill d) && decide (dShape d ≤ 4 ∧ dOutFmt d ≤ 6 ∧ dRnd d ≤ 1 ∧ dMaskKind d ≤ 2 ∧ dBcast d ≤ 2)
  && fld d 319 319 == 0 && fld d 295 295 == 0 && fld d 255 241 == 0 && fld d 159 151 == 0 && fld d 127 119 == 0
  && fld d 95 87 == 0 && fld d 63 60 == 0 && fld d 47 45 == 0
  && (if dMaskKind d = 0 then dMask d == 0 else if dMaskKind d = 2 then fld d 511 448 == 0 else true)

/-- Check 2, with the broadcast rules of R265. -/
def check2 (d st : Nat) : Bool :=
  (if dShape d = 4 then dOpcode d == 1 else if dShape d = 2 ∨ dShape d = 3 then !isFill d else true)
  && (st == 0 || isSplit d)
  && (dBcast d == 0 || (dOpcode d == 1 && dShape d == 0 && st == 0 && decide (fmtGroup (dSFmt d) ≤ 3 ∧ fmtGroup (dAFmt d) ≤ 3)
      && (if dBcast d = 1 then dM d == 128 else !dSkeep d && !(dVEn d && dVOpnd d == 0))))

/-- Check 3 (R130). -/
def check3 (d : Nat) : Bool :=
  if isFill d then dAFmt d == 0 && dSFmt d == 0
  else
    let g := fmtGroup (dAFmt d)
    g == fmtGroup (dSFmt d) && g != 6
    && (if g = 4 then dOpcode d == 1 else if g = 5 then dOpcode d == 6 else dOpcode d != 6)

/-- The tensor is privileged in the tile's context (R153, R240). -/
def privileged (s : State) (t i : Nat) : Bool :=
  match tileCtx s t with
  | none => false
  | some c => match (ctxOf s c).tensors with
    | none => false
    | some tk => tk.priv.contains i

/-- Check 4 (R153, R157). -/
def check4 (s : State) (t d : Nat) : Bool :=
  (if dOutFmt d = 5 then !isFill d && (fmtGroup (dAFmt d) == 1 || dOpcode d == 6)
   else if dOutFmt d = 6 then !isFill d else true)
  && (dRnd d == 0 || (decide (1 ≤ dOutFmt d ∧ dOutFmt d ≤ 4) && privileged s t (dTensor d)))

/-- Check 5 (R151, R262). -/
def check5 (d : Nat) : Bool :=
  (!dAT d || dAWb d) && (!dST d || dSWb d)
  && dAStride d % 64 == 0 && dSStride d % 64 == 0 && dOutStride d % 64 == 0
  && (!dAWb d || (elemBits (dAFmt d) != 6 && elemBits (dAFmt d) != 4 && dAFmt d != 11))
  && (!dSWb d || (elemBits (dSFmt d) != 6 && elemBits (dSFmt d) != 4 && dSFmt d != 11))

/-- What a stationary operand is compared by (check 6). -/
def statTag (x : Stationary) : Nat × Nat × Nat := (x.opcode, x.shape, x.fmt)

/-- The pass loads a new stationary operand (R139, R140). -/
def needsLoad (d : Nat) : Bool := !dSkeep d && !isFill d

/-- Stationary operands in force after a pass of a stream, as tags of (whole or half 0, half 1). -/
def tagsAfter (x : Option (Nat × Nat × Nat) × Option (Nat × Nat × Nat)) (st d : Nat) :
    Option (Nat × Nat × Nat) × Option (Nat × Nat × Nat) :=
  if !needsLoad d then x
  else
    let g := (dOpcode d, dShape d, dSFmt d)
    let keep (y : Option (Nat × Nat × Nat)) : Option (Nat × Nat × Nat) := y.filter (fun z => z.2.1 == 1)
    if !isSplit d then (some g, none) else if st = 0 then (some g, x.2) else (keep x.1, some g)

/-- Decoded passes of both streams with their stream, in release order. -/
def decodedInOrder (m : MArray) : List (Nat × Pass) :=
  sortBy (fun a b => decide (a.2.ord ≤ b.2.ord)) ((m.stream0.decoded.map (fun p => (0, p))) ++ (m.stream1.decoded.map (fun p => (1, p))))

/-- Check 6: a valid stationary operand of the same opcode, shape, format and half will be in force when a descriptor of release order
`ord` enters: of the decoded passes only those released before it count (R145). -/
def check6 (m : MArray) (d st ord : Nat) : Bool :=
  if !dSkeep d then true
  else if isFill d then false
  else
    let t0 := (m.active0.map statTag, m.active1.map statTag)
    let ts := ((decodedInOrder m).filter (fun p => decide (p.2.ord < ord))).foldl (fun x p => tagsAfter x p.1 p.2.desc.toNat) t0
    (if st = 0 then ts.1 else ts.2) == some (dOpcode d, dShape d, dSFmt d)

/-- S is read by the pass (check 7). -/
def readsS (d : Nat) : Bool := needsLoad d && dBcast d != 2

/-- Byte intervals of the scales of A and S (R177) and of FILL's partials and the output rows. -/
def axIntervals (d : Nat) : List (Nat × Nat) := if fmtGroup (dAFmt d) = 4 ∧ !isFill d then [(dAXAddr d, 8 * dM d)] else []
def sxIntervals (d : Nat) : List (Nat × Nat) := if fmtGroup (dSFmt d) = 4 ∧ needsLoad d then [(dSXAddr d, 1024)] else []
def fillIntervals (d : Nat) : List (Nat × Nat) := (List.range (dM d)).map (fun i => (dAAddr d + i * dAStride d, 16 * dCols d))
def outIntervals (d : Nat) : List (Nat × Nat) :=
  if bit (dAct d) 1 then (List.range (dM d)).map (fun i => (dOutAddr d + i * dOutStride d, dCols d * outBytes (dOutFmt d))) else []

/-- Byte intervals of A as the pass reads them. -/
def aIntervals (d : Nat) : List (Nat × Nat) := if isFill d then fillIntervals d else intervals (opA d)

/-- Check 7: alignment, bounds, and OPEN version buffers under the output (R274). -/
def check7 (s : State) (t d off : Nat) : Bool :=
  let wbOk (o : MatOp) : Bool := if o.wb then o.addr % 2048 == 0 else true
  dAAddr d % 64 == 0 && (isFill d || wbOk (opA d)) && inSpd (aIntervals d)
  && (!readsS d || (dSAddr d % 64 == 0 && wbOk (opS d) && inSpd (intervals (opS d))))
  && (axIntervals d).all (fun p => p.1 % 64 == 0) && inSpd (axIntervals d)
  && (sxIntervals d).all (fun p => p.1 % 64 == 0) && inSpd (sxIntervals d)
  && (!bit (dAct d) 1 || (dOutAddr d % 64 == 0 && inSpd (outIntervals d)
      && (outIntervals d).all (fun p => vsWritable s t p.1 p.2)))
  && decide (off + 64 ≤ spdSize)

/-- The version operand's extent (R155). -/
def verSpan (d : Nat) : Nat × Nat := span (if dVOpnd d = 1 then aIntervals d else intervals (opS d))

/-- Checks 1 to 7 in order: the first that fails. -/
def checks17 (s : State) (t a st d off ord : Nat) : Option Nat :=
  let m := maOf s t a
  let l := [(1, check1 d), (2, check2 d st), (3, check3 d), (4, check4 s t d), (5, check5 d), (6, check6 m d st ord), (7, check7 s t d off)]
  (l.find? (fun p => !p.2)).map (·.1)

/-- MAn_STOPs value (Table 4-10). -/
def stopValue (code off check : Nat) : Nat := code <<< 28 + fld off 22 6 <<< 6 + check

/-- Class and code of a stop (Table 15-4); the address tells a scratchpad error from an accumulator's. -/
def stopClass (code : Nat) (addr : Option Nat) : Nat × Nat :=
  match code with
  | 1 => (2, 1)
  | 2 => (2, 2)
  | 3 => (4, 1)
  | 4 => if addr.isSome then (3, 1) else (3, 2)
  | 5 => (6, 2)
  | _ => (2, 6)

/-- Values the spec calls unpredictable in the elements a pass targets (R148): free values. -/
def scramble (t a d st : Nat) (s : State) : State :=
  let keys := (List.range (dM d)).flatMap (fun m => (List.range (dCols d)).filterMap (fun n =>
    let n := dCol0 d st + n
    if masked (dMaskKind d) (dMask d) m n then none else some (accKey (dAcc d) m n)))
  let base := s.free
  let s := { s with free := s.free + keys.length }
  modMa t a (fun m => { m with acc := (keys.zip (List.range keys.length)).foldl (fun acc p =>
    tset 0#128 acc p.1 (BitVec.ofNat 128 (Config.freeNat (base + p.2)))) m.acc }) s

/-- Put a stationary operand into the shadows of stream st. -/
def setShadow (st : Nat) (x : Option Stationary) (m : MArray) : MArray :=
  if st = 0 then { m with shadow0 := x } else { m with shadow1 := x }

/-- Change every decoded pass of a stream. -/
def mapDecoded (f : Pass → Pass) (x : Stream) : Stream := { x with decoded := x.decoded.map f }

/-- Mark the partners of the broadcast members of a stopping stream 0 that have not loaded: they stop at their turn (R268). -/
def stopPartners (t a : Nat) (members : List (Nat × Nat)) (s : State) : State :=
  let isPartner (q : Pass) : Bool := members.any (fun mb => mb.2 == q.pair && mb.1 + dBcast q.desc.toNat == 3)
  modMa t (1 - a) (modStr 0 (mapDecoded (fun q =>
    if isPartner q && !q.loaded then { q with bad := q.bad.orElse (fun _ => some (6, 0, none)) } else q))) s

/-- A stream stops with a code (R147): its decoded passes do not enter, their readers are released and the shadows they loaded are free
again, the record is filed. -/
def stopStream (t a st code off check half : Nat) (addr : Option Nat) (detail : Nat) (paired : Bool)
    (members : List (Nat × Nat)) (s : State) : State :=
  let m := maOf s t a
  let str := strOf m st
  let ms := members ++ str.decoded.filterMap (fun p => if dBcast p.desc.toNat = 0 then none else some (dBcast p.desc.toNat, p.pair))
  let s := str.decoded.foldl (fun s p => match p.reader with | some (k, b) => vsReader t k b false s | none => s) s
  let loaded := str.decoded.any (fun p => p.loaded)
  let s := modMa t a (fun m => modStr st (fun x => { x with decoded := [], fault := none, stopped := true })
    (if loaded then setShadow st none m else m)) s
  let v := stopValue code off check
  let s := regPut (aTile t (2 + a) (0x18 + 4 * st)) v s
  let s := if code = 4 ∧ addr.isNone then atlAccUe t s else s
  let (cls, cd) := stopClass code addr
  let r := { tileFault s cls cd (3 + a) t with half := half }
  let r := match addr with | some o => atAddr s (spdAddr t o) r | none => r
  let pd := if paired then 2 ^ 64 + regRaw s (aTile t (3 - a) 0x18) <<< 96 else 0
  let d := if code = 3 then detail + v <<< 4 + st <<< 36 else v + st <<< 32 + pd
  let s := raise (withDetail d r) s
  if st = 0 then stopPartners t a ms s else s

/-- A stream whose next pass is marked to stop, or whose decode fault has no pass before it, stops now (R147); an error met in the pass's
shadow load leaves its elements unpredictable then (R148). -/
def settle (t a st : Nat) (s : State) : State :=
  let x := strOf (maOf s t a) st
  if x.stopped then s
  else match x.decoded, x.fault with
    | p :: _, _ => match p.bad with
      | some (code, check, addr) => stopStream t a st code p.off check (dHalf p.desc.toNat st) addr 0
        (code == 6 || (code == 4 && dBcast p.desc.toNat == 2 && (maOf s t (1 - a)).stream0.stopped)) []
        (if p.spoils then scramble t a p.desc.toNat st s else s)
      | none => s
    | [], some f => stopStream t a st f.code f.off f.check f.half none (f.slot + 8 * f.buf) false
        (if f.bcast = 0 then [] else [(f.bcast, f.pair)]) s
    | [], none => s

/-- Settle both streams of both arrays of a tile, stream 0 of the given array first; twice, so that a partner's stop is taken too. -/
def settleAll (t a : Nat) (s : State) : State :=
  let once (s : State) : State := settle t (1 - a) 1 (settle t (1 - a) 0 (settle t a 1 (settle t a 0 s)))
  once (once s)

/-- Mark a pair whose formats differ (R266): both stop under check 3. -/
def pairFormats (t a : Nat) (p : Pass) (s : State) : State :=
  let d := p.desc.toNat
  let other := (maOf s t (1 - a)).stream0
  match other.decoded.find? (fun q => q.pair == p.pair && dBcast q.desc.toNat + dBcast d == 3) with
  | none =>
    if other.stopped && decide (p.pair < (if dBcast d = 1 then other.recvs else other.sends)) then
      modMa t a (modStr 0 (mapDecoded (fun q => if q.ord = p.ord then { q with bad := some (6, 0, none) } else q))) s
    else s
  | some q =>
    let sf := if dBcast d = 2 then dSFmt d else dSFmt q.desc.toNat
    let af := if dBcast d = 1 then dAFmt d else dAFmt q.desc.toNat
    if sf = af then s
    else
      let mk (o : Nat) : MArray → MArray :=
        modStr 0 (mapDecoded (fun z => if z.ord = o then { z with bad := some (1, 3, none) } else z))
      modMa t (1 - a) (mk q.ord) (modMa t a (mk p.ord) s)

/-- Take one descriptor off a stream's released queue. -/
def dropReleased (l : List Released) (size : Nat) : List Released :=
  match l with
  | [] => []
  | r :: rest => if r.n ≤ 1 then rest else { off := r.off + size, n := r.n - 1, ord := r.ord + 1 } :: rest

/-- The stream after its next released descriptor, of broadcast kind bc, is taken. -/
def takeReleased (bc : Nat) (x : Stream) : Stream :=
  { x with
    queue := dropReleased x.queue 64
    sends := x.sends + (if bc = 1 then 1 else 0)
    recvs := x.recvs + (if bc = 2 then 1 else 0) }

/-- One more decoded pass. -/
def addDecoded (p : Pass) (x : Stream) : Stream := { x with decoded := x.decoded ++ [p] }

/-- DESCRIPTOR_DECODE's effect (R137, R160): the next released descriptor of stream st is read and checked. -/
def descriptorDecode (t a st : Nat) (s : State) : State :=
  let m := maOf s t a
  let x := strOf m st
  match x.queue with
  | [] => s
  | r :: _ =>
    if x.stopped || x.fault.isSome || decide (4 ≤ x.decoded.length) then s
    else
      let d := ofBytes (spdRead s t r.off 64)
      let bc := dBcast d
      let pair := if bc = 1 then x.sends else x.recvs
      let s := modMa t a (modStr st (takeReleased bc)) s
      let fault (code check slot buf : Nat) : State :=
        let f : StreamFault :=
          { code := code, check := check, off := r.off, half := dHalf d st, slot := slot, buf := buf, bcast := bc, pair := pair }
        settleAll t a (modMa t a (modStr st (fun y => { y with fault := some f })) s)
      let pass (reader : Option (Nat × Nat)) (bad : Option (Nat × Nat × Option Nat)) : Pass :=
        { desc := BitVec.ofNat 512 d, off := r.off, ord := r.ord, pair := pair, reader := reader, loaded := false, bad := bad }
      match firstUe s t [(r.off, 64)] with
      | some w => settleAll t a (modMa t a (modStr st (addDecoded (pass none (some (4, 0, some w))))) (unitUe t a w s))
      | none =>
        match checks17 s t a st d r.off r.ord with
        | some k => fault (if k = 7 then 2 else 1) k 0 0
        | none =>
          let (lo, hi) := verSpan d
          let rd := if dVEn d then vsCheck s t (dVerSel d) (dVersion d) lo (hi - lo) else none
          if dVEn d && rd.isNone then fault 3 8 (dVerSel d) ((vsHolds s t (dVerSel d) lo (hi - lo)).getD 0)
          else
            let p := pass (rd.map (fun b => (dVerSel d, b))) none
            let s := modMa t a (modStr st (addDecoded p)) s
            let s := match rd with | some b => vsReader t (dVerSel d) b true s | none => s
            settleAll t a (if bc = 0 then s else pairFormats t a p s)

/-! ### Stationary operands -/

/-- The stationary operand of a descriptor, read from the scratchpad with its scales (R139, R177). -/
def readS (s : State) (t d : Nat) : Stationary :=
  let o := opS d
  let rows := (List.range o.rows).map (opRow s t o)
  { opcode := dOpcode d, shape := dShape d, fmt := dSFmt d
    cols := (List.range o.cols).map (fun n => rows.map (fun r => r.getD n 0))
    scales := if fmtGroup (dSFmt d) = 4 then
        (List.range o.cols).map (fun n => (spdRead s t (dSXAddr d + 8 * n) 8).map (·.toNat))
      else [] }

/-- The stationary operand that a SEND's A rows give its RECV (R267): row k of S is row k of A. -/
def sendS (s : State) (t d : Nat) : Stationary :=
  let o := opA d
  let rows := (List.range 128).map (opRow s t o)
  { opcode := 1, shape := 0, fmt := dAFmt d, cols := (List.range 128).map (fun n => rows.map (fun r => r.getD n 0)), scales := [] }

/-- The shadows a pass of stream st loads are free (R139, R144). -/
def shadowFree (m : MArray) (d st : Nat) : Bool :=
  if !isSplit d then m.shadow0.isNone && m.shadow1.isNone
  else if st = 0 then m.shadow0.isNone else m.shadow1.isNone && (match m.shadow0 with | some x => x.shape == 1 | none => true)

/-- Change the decoded pass with a release order. -/
def modPass (o : Nat) (f : Pass → Pass) (x : Stream) : Stream := mapDecoded (fun p => if p.ord = o then f p else p) x

/-- The feed port of an array takes what it was granted for the intervals of an operand. -/
def feedTake (t a : Nat) (l : List (Nat × Nat)) (s : State) : State := l.foldl (fun s r => portTake t a r.1 r.2 s) s

/-- SHADOW_LOAD's effect (R139): the first decoded pass that needs a new stationary operand loads it into free shadows. -/
def shadowLoad (t a st : Nat) (s : State) : State :=
  let m := maOf s t a
  match (strOf m st).decoded.find? (fun p => needsLoad p.desc.toNat && !p.loaded) with
  | none => s
  | some p =>
    let d := p.desc.toNat
    if dBcast d = 2 || p.bad.isSome || !shadowFree m d st then s
    else match firstUe s t (intervals (opS d) ++ sxIntervals d) with
      | some w =>
        settleAll t a (modMa t a (modStr st (modPass p.ord (fun q => { q with bad := some (4, 0, some w), spoils := true }))) (unitUe t a w s))
      | none =>
        feedTake t a (intervals (opS d) ++ sxIntervals d)
          (modMa t a (fun m => setShadow st (some (readS (portView t a s) t d)) (modStr st (modPass p.ord (fun q => { q with loaded := true })) m)) s)

/-! ### Entry (R149) and the arithmetic of a pass -/

/-- Two passes conflict: one whole-array, the other an NSPLIT half of the other stream (R145). -/
def conflict (d d' : Nat) : Bool := isSplit d != isSplit d'

/-- Mode order (R145): no earlier-released conflicting pass of the other stream is still to enter, and none earlier undecoded. -/
def modeReady (m : MArray) (p : Pass) (st : Nat) : Bool :=
  let x := strOf m (1 - st)
  x.decoded.all (fun q => decide (p.ord ≤ q.ord) || !conflict p.desc.toNat q.desc.toNat)
  && (match x.queue with | r :: _ => x.stopped || decide (p.ord ≤ r.ord) | [] => true)

/-- FTQ entries used or reserved (R158). -/
def ftqUsed (m : MArray) : Nat := m.ftq.length + m.reserved

/-- The RECV that a SEND feeds is decoded and the partner's shadows are free (R267). -/
def partnerReady (s : State) (t a : Nat) (p : Pass) : Bool :=
  let m' := maOf s t (1 - a)
  (m'.stream0.decoded.any (fun q => q.pair == p.pair && dBcast q.desc.toNat == 2 && q.bad.isNone
    && (m'.stream0.decoded.find? (fun z => needsLoad z.desc.toNat && !z.loaded)).map (·.ord) == some q.ord))
  && m'.shadow0.isNone && m'.shadow1.isNone

/-- Every condition of Table 4-6 holds for the next pass of stream st. -/
def mayEnter (s : State) (t a st : Nat) (p : Pass) : Bool :=
  let m := maOf s t a
  let d := p.desc.toNat
  p.bad.isNone && (!needsLoad d || p.loaded)
  && (!bit (dAct d) 0 || decide (ftqUsed m < 4))
  && (targetBufs (dAcc d) (dM d)).all (fun b => !m.held.contains b)
  && modeReady m p st
  && (dBcast d != 1 || partnerReady s t a p)

/-- Product of the block scales of row m and a column, by chunk (R176). -/
def chunkScales (s : State) (t d m : Nat) (sc : List Nat) : List Dyad :=
  if fmtGroup (dAFmt d) = 4 then
    List.zipWith (fun x y => nmul (e8m0 x.toNat) (e8m0 y)) (spdRead s t (dAXAddr d + 8 * m) 8) sc
  else List.replicate 8 (.fin false 1 0)

/-- The accumulators after the arithmetic of a pass of an operating opcode with stationary operand x (R128, R133, R154). -/
def passAcc (s : State) (t d st : Nat) (x : Stationary) (acc : Tab (BitVec 128)) : Tab (BitVec 128) :=
  (List.range (dM d)).foldl (fun acc m =>
    let row := opRow s t (opA d) m
    (List.range (dCols d)).foldl (fun acc n =>
      let c := dCol0 d st + n
      if masked (dMaskKind d) (dMask d) m c then acc
      else
        let k := accKey (dAcc d) m c
        let sc := chunkScales s t d m (x.scales.getD n [])
        tset 0#128 acc k (elemPass (dOpcode d) (dAFmt d) x.fmt (dOvw d) row (x.cols.getD n []) sc (tgetD 0#128 acc k))) acc) acc

/-- The accumulators after FILL (R188). -/
def fillAcc (s : State) (t d st : Nat) (acc : Tab (BitVec 128)) : Tab (BitVec 128) :=
  (List.range (dM d)).foldl (fun acc m =>
    (List.range (dCols d)).foldl (fun acc n =>
      let c := dCol0 d st + n
      if masked (dMaskKind d) (dMask d) m c then acc
      else
        let k := accKey (dAcc d) m c
        let p := BitVec.ofNat 128 (ofBytes (spdRead s t (dAAddr d + m * dAStride d + 16 * n) 16))
        tset 0#128 acc k (elemFill (dOvw d) p (tgetD 0#128 acc k))) acc) acc

/-- The swap (R139): the shadows become the active operand of the pass's half or of the whole array. -/
def swapIn (d st : Nat) (m : MArray) : MArray :=
  if !needsLoad d then m
  else if !isSplit d then { m with active0 := m.shadow0, active1 := none, shadow0 := none }
  else if st = 0 then { m with active0 := m.shadow0, shadow0 := none }
  else { m with active1 := m.shadow1, shadow1 := none, active0 := m.active0.filter (fun z => z.shape == 1) }

/-- The stationary operand in force for stream st. -/
def activeS (m : MArray) (st : Nat) : Option Stationary := if st = 0 then m.active0 else m.active1

/-- The accumulator elements that a pass's output rows are converted from. -/
def outElems (d st : Nat) (acc : Tab (BitVec 128)) : Tab (BitVec 128) :=
  if bit (dAct d) 1 then
    (List.range (dM d)).foldl (fun l m => (List.range (dCols d)).foldl (fun l n =>
      let k := accKey (dAcc d) m (dCol0 d st + n)
      tset 0#128 l k (tgetD 0#128 acc k)) l) []
  else []

/-- A pass of stream st enters (R149): the swap, the mode, the FTQ entry reserved. -/
def enterPass (st : Nat) (p : Pass) (m : MArray) : MArray :=
  let d := p.desc.toNat
  let m := swapIn d st m
  let m := { m with split := isSplit d, reserved := m.reserved + (dAct d % 2) }
  modStr st (fun x => { x with decoded := x.decoded.filter (fun q => q.ord ≠ p.ord), inArray := x.inArray ++ [p] }) m

/-- The pass of stream st stops at an uncorrectable error of its A rows, partials, A scales or accumulator elements: it leaves its elements
unpredictable (R148). It has not entered: no swap, no change of mode, no FTQ entry (DESIGN CHOICE: log entry 106). An error in a SEND's row
stops the RECV it feeds too (R268). -/
def passUe (t a st : Nat) (p : Pass) (addr : Option Nat) (s : State) : State :=
  let d := p.desc.toNat
  let s := scramble t a d st (match addr with | some w => unitUe t a w s | none => s)
  let s := if dBcast d = 1 ∧ addr.isSome then
      modMa t (1 - a) (modStr 0 (mapDecoded (fun q =>
        if q.pair == p.pair && dBcast q.desc.toNat == 2 then { q with bad := some (4, 0, addr), spoils := true } else q))) s
    else s
  settleAll t a (stopStream t a st 4 p.off 0 (dHalf d st) addr 0 false [] s)

/-- The effect of the row of opcode op (R128, R149): the next decoded pass of that opcode enters once every condition holds. -/
def passEnter (op t a st : Nat) (ue : Bool) (s : State) : State :=
  match (strOf (maOf s t a) st).decoded with
  | [] => s
  | p :: _ =>
    let d := p.desc.toNat
    if dOpcode d ≠ op ∨ !mayEnter s t a st p then s
    else match firstUe s t (aIntervals d ++ axIntervals d) with
      | some w => passUe t a st p (some w) s
      | none =>
        if ue && !dOvw d then passUe t a st p none s
        else
          let s := modMa t a (enterPass st p) s
          let m := maOf s t a
          let v := portView t a s
          let acc := if isFill d then fillAcc v t d st m.acc
            else match activeS m st with
              | some x => passAcc v t d st x m.acc
              | none => m.acc
          let s := modMa t a (fun m => modStr st (fun x => { x with inArray := x.inArray.map (fun q =>
            if q.ord = p.ord then { q with acc := outElems d st acc } else q) }) { m with acc := acc }) s
          let s := if dBcast d = 1 then
              let x := sendS v t d
              modMa t (1 - a) (fun m' => { modStr 0 (mapDecoded (fun q =>
                if q.pair == p.pair && dBcast q.desc.toNat == 2 then { q with loaded := true } else q)) m' with shadow0 := some x }) s
            else s
          settleAll t a (feedTake t a (aIntervals d ++ axIntervals d) s)

/-! ### Completion (R135, R156–R159) -/

/-- The rounding of output element (m, n) counted from the first targeted column (R153, R257). -/
def outRnd (s : State) (t d m n : Nat) : Rnd :=
  if dRnd d = 1 then
    match tileCtx s t with
    | some c => .stoch (hachure (regRaw s (aCtx c 0x70)) (stepOf s c) (dTensor d) ((dElemBase d + m * dElemRow d + n) % 2 ^ 40))
    | none => .rne
  else .rne

/-- The value converted (R183). -/
def scaledValue (d : Nat) (b : BitVec 128) : Dyad := nscale (dAScale d + dSScale d + dOutScale d) (elemUnpack b).v

/-- One output row of the accumulators `acc`: (column, bytes) of every unmasked element, and what is reported. -/
def outRow (s : State) (t st d m : Nat) (acc : Tab (BitVec 128)) : List (Nat × List Byte) × List (Dyad × ConvEvents) :=
  (List.range (dCols d)).foldl (fun r n =>
    let c := dCol0 d st + n
    if masked (dMaskKind d) (dMask d) m c then r
    else
      let e := tgetD 0#128 acc (accKey (dAcc d) m c)
      if dOutFmt d = 6 then (r.1 ++ [(n, toBytes 16 e.toNat)], r.2)
      else
        let w := scaledValue d e
        let (v, ev) := outConvert (dOutFmt d) (dSat d) (outRnd s t d m n) w
        (r.1 ++ [(n, toBytes (outBytes (dOutFmt d)) v)], r.2 ++ [(w, ev)])) ([], [])

/-- The runs of an output row that touch, each written as one (R292). -/
def joinRuns (w : Nat) : List (Nat × List Byte) → List (Nat × List Byte)
  | [] => []
  | (o, d) :: r =>
    match joinRuns w r with
    | (x, e) :: l => if x * w = o * w + d.length then (o, d ++ e) :: l else (o, d) :: (x, e) :: l
    | [] => [(o, d)]

/-- The output write of a pass (R157): each element as the accumulators held it when its row completed, through the array's feed port. -/
def outWrite (t a st d : Nat) (acc : Tab (BitVec 128)) (across : Option Nat) (s : State) : State :=
  let w := outBytes (dOutFmt d)
  (List.range (dM d)).foldl (fun s m =>
    let (bs, ev) := outRow s t st d m acc
    let s := (joinRuns w bs).foldl (fun s p => portStore t a (dOutAddr d + m * dOutStride d + p.1 * w) p.2 s) s
    contourElems t (dTensor d) across ev s) s

/-- The FTQ entry of a pass (Table 6-5). -/
def ftqBits (a st : Nat) (p : Pass) : BitVec 256 :=
  let d := p.desc.toNat
  let held := (targetBufs (dAcc d) (dM d)).foldl (fun h b => if bit h b then h else h + 2 ^ b) 0
  BitVec.ofNat 256 (a + (if isSplit d then st + 1 else 0) <<< 1 + dAcc d <<< 3 + (dM d - 1) <<< 5 + held <<< 14 + dTensor d <<< 18
    + wrap 10 (dAScale d + dSScale d + dOutScale d) <<< 30 + (bit (dAct d) 1).toNat <<< 40 + dMaskKind d <<< 41
    + fld p.off 22 6 <<< 43 + dShape d <<< 60 + (if dMaskKind d = 0 then 0 else dMask d) <<< 128)

/-- PASS_COMPLETE's effect (R135): the oldest pass of stream st in the array completes. An error of an accumulator element at the
conversion stops it before any of its rows is written (DESIGN CHOICE: log entry 107). -/
def passComplete (t a st : Nat) (ue : Bool) (s : State) : State :=
  let m := maOf s t a
  match (strOf m st).inArray with
  | [] => s
  | p :: _ =>
    let d := p.desc.toNat
    let s := match p.reader with | some (k, b) => vsReader t k b false s | none => s
    if ue && bit (dAct d) 1 then
      let s := modMa t a (fun m => { modStr st (fun x => { x with inArray := x.inArray.drop 1 }) m with reserved := m.reserved - dAct d % 2 }) s
      settleAll t a (stopStream t a st 4 p.off 0 (dHalf d st) none 0 false [] (scramble t a d st s))
    else
      let s := if bit (dAct d) 1 then outWrite t a st d p.acc p.across s else s
      modMa t a (fun m =>
        let m := modStr st (fun x => { x with inArray := x.inArray.drop 1, count := x.count + 1 }) m
        if bit (dAct d) 0 then
          { m with ftq := m.ftq ++ [{ bits := ftqBits a st p, stream := st, poppable := false }], reserved := m.reserved - 1,
                   held := (targetBufs (dAcc d) (dM d)).foldl (fun h b => sinsert b h) m.held }
        else m) s

/-! ### Views (Table 4-10) -/

/-- MAn_STATUS.RUNs of a stream. -/
def streamRun (x : Stream) : Nat :=
  if x.stopped then 2 else if x.queue.isEmpty && x.decoded.isEmpty && x.inArray.isEmpty && x.fault.isNone then 0 else 1

def maStatusView (s : State) (t a : Nat) : Nat :=
  let m := maOf s t a
  streamRun m.stream0 + streamRun m.stream1 <<< 4 + m.split.toNat <<< 8 + ftqUsed m <<< 9
    + (List.range 4).foldl (fun h b => if m.held.contains b then h + 2 ^ (12 + b) else h) 0

/-- FTQn_STATUS. -/
def ftqStatusView (s : State) (t a : Nat) : Nat := ftqUsed (maOf s t a) <<< 9 + (maOf s t a).ftq.length <<< 6

/-- The stream has no released descriptor that has not completed and is not stopped (R162). -/
def streamIdle (x : Stream) : Bool :=
  !x.stopped && x.queue.isEmpty && x.decoded.isEmpty && x.inArray.isEmpty && x.fault.isNone

/-- A write of MAn_DESC_HEADs (R162). -/
def maHeadWrite (t a st v : Nat) (s : State) : Option State :=
  if streamIdle (strOf (maOf s t a) st) then some (regPut (aTile t (2 + a) (8 * st)) (Nat.land v (mask 22 6)) s) else none

/-! ### The commands -/

/-- DESCRIPTOR_DECODE. -/
def execDescriptorDecode (t a st : Nat) (s : State) : Host.Outcome State Fault Refusal := act (tileOk t && decide (a < 2) && decide (st < 2)) s (descriptorDecode t a st)

/-- SHADOW_LOAD. -/
def execShadowLoad (t a st : Nat) (s : State) : Host.Outcome State Fault Refusal := act (tileOk t && decide (a < 2) && decide (st < 2)) s (shadowLoad t a st)

/-- MAC. -/
def execMac (t a st : Nat) (ue : Bool) (s : State) : Host.Outcome State Fault Refusal := act (tileOk t && decide (a < 2) && decide (st < 2)) s (passEnter 1 t a st ue)

/-- L1. -/
def execL1 (t a st : Nat) (ue : Bool) (s : State) : Host.Outcome State Fault Refusal := act (tileOk t && decide (a < 2) && decide (st < 2)) s (passEnter 2 t a st ue)

/-- L2SQ. -/
def execL2sq (t a st : Nat) (ue : Bool) (s : State) : Host.Outcome State Fault Refusal := act (tileOk t && decide (a < 2) && decide (st < 2)) s (passEnter 3 t a st ue)

/-- MAXPLUS. -/
def execMaxplus (t a st : Nat) (ue : Bool) (s : State) : Host.Outcome State Fault Refusal := act (tileOk t && decide (a < 2) && decide (st < 2)) s (passEnter 4 t a st ue)

/-- MINPLUS. -/
def execMinplus (t a st : Nat) (ue : Bool) (s : State) : Host.Outcome State Fault Refusal := act (tileOk t && decide (a < 2) && decide (st < 2)) s (passEnter 5 t a st ue)

/-- HAMM. -/
def execHamm (t a st : Nat) (ue : Bool) (s : State) : Host.Outcome State Fault Refusal := act (tileOk t && decide (a < 2) && decide (st < 2)) s (passEnter 6 t a st ue)

/-- FILL. -/
def execFill (t a st : Nat) (ue : Bool) (s : State) : Host.Outcome State Fault Refusal := act (tileOk t && decide (a < 2) && decide (st < 2)) s (passEnter 0x11 t a st ue)

/-- PASS_COMPLETE. -/
def execPassComplete (t a st : Nat) (ue : Bool) (s : State) : Host.Outcome State Fault Refusal := act (tileOk t && decide (a < 2) && decide (st < 2)) s (passComplete t a st ue)

end Sys2Proof.Machine
end

