-- ==== Sys2Proof/Machine/Vector.lean ====
section
/-!
DEFINITION. The vector engine (chapter 6): runs, the microinstruction format and its checks, every opcode, stops and registers.
A microinstruction's row acts when the engine is at an instruction of its opcode.
-/

namespace Sys2Proof.Machine

/-! ### Microinstruction fields (Table 6-3) -/

def vOpc (w : Nat) : Nat := fld w 7 0
def vFn (w : Nat) : Nat := fld w 63 60
def vMode (w : Nat) : Nat := fld w 59 57
def vImm (w : Nat) : Int := sgn 17 (fld w 56 40)
def vSlot (w : Nat) : Nat := fld w 38 37
def vRa (w : Nat) : Nat := fld w 36 35
def vAr (w : Nat) : Nat := fld w 34 32
def vMen (w : Nat) : Bool := bit w 31
def vMsk (w : Nat) : Nat := fld w 30 28
def vVs3 (w : Nat) : Nat := fld w 27 23
def vVs2 (w : Nat) : Nat := fld w 22 18
def vVs1 (w : Nat) : Nat := fld w 17 13
def vVd (w : Nat) : Nat := fld w 12 8

/-- Masks of the fields of Table 6-3: MEN with MSK, a vector and a mask register in each register field. -/
def uPred : Nat := mask 31 28
def uV1 : Nat := mask 17 13
def uV2 : Nat := mask 22 18
def uV3 : Nat := mask 27 23
def uVd : Nat := mask 12 8
def uMd : Nat := mask 10 8
def uM1 : Nat := mask 15 13
def uM2 : Nat := mask 20 18
def uFn : Nat := mask 63 60
def uMode : Nat := mask 59 57
def uStat : Nat := mask 59 59
def uImm : Nat := mask 56 40
def uAr : Nat := mask 34 32
def uRa : Nat := mask 36 35
def uSlot : Nat := mask 38 37

/-- The fields an opcode uses (R203, Table 6-4); none for a reserved opcode. -/
def vUses (op : Nat) : Option Nat :=
  match op with
  | 0x00 => some 0
  | 0x01 => some 0
  | 0x08 => some (uVd + uImm + uAr + uPred)
  | 0x09 => some (uV1 + uImm + uAr + uPred)
  | 0x0A => some (uVd + uImm + uAr + uPred)
  | 0x0B => some (uMd + uImm + uAr + uPred)
  | 0x0C => some (uM1 + uImm + uAr)
  | 0x10 => some (uMode + uVd + uV1 + uV2 + uPred)
  | 0x11 => some (uMode + uVd + uV1 + uV2 + uPred)
  | 0x12 => some (uMode + uVd + uV1 + uV2 + uPred)
  | 0x13 => some (uMode + uVd + uV1 + uV2 + uV3 + uPred)
  | 0x14 => some (uMode + uVd + uV1 + uV2 + uPred)
  | 0x15 => some (uMode + uVd + uV1 + uV2 + uPred)
  | 0x16 => some (uMode + uVd + uV1 + uPred)
  | 0x17 => some (uMode + uVd + uV1 + uPred)
  | 0x18 => some (uVd + uV1 + uV2 + uPred)
  | 0x19 => some (uVd + uV1 + uV2 + mask 30 28)
  | 0x1A => some (uMode + uVd + uV1 + uPred)
  | 0x20 => some (uFn + uMode + uMd + uV1 + uV2 + uPred)
  | 0x21 => some (uFn + uMd + uM1 + uM2 + uImm + uAr + uPred)
  | 0x28 => some (uFn + uMode + uVd + uV1 + uImm + uPred)
  | 0x30 => some (uFn + uVd + uV1 + uPred)
  | 0x31 => some (uFn + uVd + uV1 + uV2 + uV3 + uPred)
  | 0x38 => some uRa
  | 0x39 => some (uFn + uRa + uV1 + uV2 + uPred)
  | 0x3A => some (uFn + uStat + uRa + uVd + uV2 + uPred)
  | 0x40 => some (uVd + uV1 + uRa + uPred)
  | 0x41 => some (uVd + uV1 + uRa + uPred)
  | 0x42 => some (uVd + uV1 + uV2 + uV3 + uRa + uPred)
  | 0x48 => some (uFn + uMode + uImm + uVd + uV1 + uV2 + uPred)
  | 0x50 => some (uFn + uSlot)
  | 0x51 => some (uFn + uStat + uSlot + uImm + uAr + uVd + uPred)
  | 0x52 => some (uSlot + uImm + uAr + uMd + uPred)
  | 0x53 => some uSlot
  | _ => none

/-- Field values an opcode reserves (R203, R206, R214, R225, R227, Tables 6-4 to 6-8). -/
def vValues (w : Nat) : Bool :=
  let op := vOpc w
  let fn := vFn w
  let md := vMode w
  match op with
  | 0x13 => decide (md < 3)
  | 0x1A => md == 3
  | 0x20 => decide (fn < 8) && (md == 0 || md == 3)
  | 0x21 => decide (fn < 8)
  | 0x28 => decide (fn < 15) && !(bit md 0 && decide (4 ≤ fn ∧ fn ≤ 9))
      && decide (vVs1 w + (if cvtNarrow fn then cvtN fn else 1) ≤ 32)
      && decide (vVd w + (if cvtMx fn then 2 else if cvtNarrow fn then 1 else cvtN fn) ≤ 32)
  | 0x30 => decide (fn < 8)
  | 0x31 => decide (fn < 11)
  | 0x39 => decide (fn < 6)
  | 0x3A => decide (fn < 3)
  | 0x48 => decide (fn < 2) && (md == 0 || md == 3) && vVd w % 2 == 0 && vVs1 w % 2 == 0 && vVs2 w % 2 == 0
      && decide (1 ≤ vImm w ∧ vImm w ≤ 128)
  | 0x50 => decide (fn < 6)
  | 0x51 => decide (fn < 2)
  | _ => if 0x10 ≤ op ∧ op ≤ 0x17 then decide (md < 4) else true

/-- A legal microinstruction (R203). -/
def vLegal (w : Nat) : Bool :=
  match vUses (vOpc w) with
  | some u => Nat.land w (mask 63 0 - (u + 255)) == 0 && vValues w
  | none => false

/-! ### The engine -/

/-- Why a microinstruction stops the engine: its stop code (Table 6-11), the record's class and code, its address. -/
structure VStop where
  code : Nat
  cls  : Nat
  cd   : Nat
  addr : Option Nat
  deriving DecidableEq, Repr

/-- A stop of code k under 0x2.05. -/
def vprog (k : Nat) : VStop := ⟨k, 2, 5, none⟩

/-- What a microinstruction comes to: it is done, it waits, or it stops the engine. -/
inductive VRes where
  | done (s : State)
  | wait (s : State)
  | stop (e : VStop)
  deriving DecidableEq, Repr

/-- The engine stops (R229): VXE_STOP, and the record with it in DETAIL. -/
def vxeStop (t : Nat) (e : VStop) (s : State) : State :=
  let v := vxeOf s t
  let stop := (v.iter % 65536) <<< 48 + e.code <<< 28 + v.index % 8192
  let s := modVxe t (fun v => { v with stopped := true, waiting := false }) s
  let s := if e.cls = 3 ∧ e.cd = 2 then atlAccUe t s else s
  let s := regPut (aTile t 4 8) stop s
  let r := withDetail stop (tileFault s e.cls e.cd 5 t)
  raise (match e.addr with | some o => atAddr s (spdAddr t o) r | none => r) s

/-- The microinstruction the engine is at. -/
def vxeWord (s : State) (t : Nat) : Nat := (tgetD (0 : Word) (vxeOf s t).mc (vxeOf s t).index).toNat

/-- The engine is at index i: a reserved opcode there stops it (DESIGN CHOICE: log entry 19). -/
def vxeAt (t i : Nat) (s : State) : State :=
  let s := modVxe t (fun v => { v with index := i, waiting := false }) s
  if (vUses (vOpc (vxeWord s t))).isNone then vxeStop t (vprog 1) s else s

/-- The engine goes past an instruction that is not END; after the last of the store it stops (R201). -/
def vxeAdvance (t : Nat) (s : State) : State :=
  let i := (vxeOf s t).index
  if 8191 ≤ i then vxeStop t (vprog 7) s else vxeAt t (i + 1) s

/-- The engine is at an instruction of opcode op. -/
def vxeReady (s : State) (t op : Nat) : Bool :=
  let v := vxeOf s t
  !v.stopped && v.begun && !v.runs.isEmpty && vOpc (vxeWord s t) == op

/-- A load that stops the engine at an uncorrectable word counts it at SPD (R291). -/
def vxeMet (t : Nat) (e : VStop) (s : State) : State :=
  match e.addr with
  | some o => unitUe t portVec o s
  | none => s

/-- The row of a microinstruction: an error of the store, the checks of R203, its action. -/
def vxeRow (op t : Nat) (ue : Bool) (f : Nat → State → VRes) (s : State) : State :=
  if vxeReady s t op then
    let w := vxeWord s t
    if ue then vxeStop t ⟨5, 3, 3, none⟩ s
    else if !vLegal w then vxeStop t (vprog 1) s
    else match f w s with
      | .done s' => vxeAdvance t s'
      | .wait s' => modVxe t (fun v => { v with waiting := true }) s'
      | .stop e => vxeStop t e (vxeMet t e s)
  else s

/-- Vector register, mask register, accumulator and slot of an engine. -/
def vreg (s : State) (t i : Nat) : Nat := (tgetD (0 : BitVec 4096) (vxeOf s t).vreg i).toNat
def mreg (s : State) (t i : Nat) : Nat := (tgetD (0 : BitVec 128) (vxeOf s t).mreg i).toNat
def raccOf (s : State) (t i : Nat) : Racc := tgetD {} (vxeOf s t).racc i
def slotOf (s : State) (t i : Nat) : Option Nat := (tget (vxeOf s t).slots i).map (·.toNat)

def setVreg (t i v : Nat) (s : State) : State := modVxe t (fun x => { x with vreg := tset 0 x.vreg i (BitVec.ofNat 4096 v) }) s
def setMreg (t i v : Nat) (s : State) : State := modVxe t (fun x => { x with mreg := tset 0 x.mreg i (BitVec.ofNat 128 v) }) s
def setRacc (t i : Nat) (r : Racc) (s : State) : State := modVxe t (fun x => { x with racc := tset {} x.racc i r }) s

/-- The argument block of the running run. -/
def vArg (s : State) (t : Nat) : Nat :=
  match (vxeOf s t).runs with
  | r :: _ => r.arg.toNat
  | [] => 0

/-- STAT_TID of the running run. -/
def statTid (s : State) (t : Nat) : Nat := fld (vArg s t) 459 448

/-- An address register as an unsigned number: AR6 is the iteration, AR7 is zero (R200). -/
def arOf (s : State) (t i : Nat) : Nat :=
  if i < 6 then (tgetD (0 : BitVec 24) (vxeOf s t).ar i).toNat else if i = 6 then (vxeOf s t).iter else 0

/-- a = AR + IMM × u (R204), and the row number or count AR + IMM with both signed. -/
def vAddr (s : State) (t w u : Nat) : Int := (arOf s t (vAr w) : Int) + vImm w * u
def vCount (s : State) (t w : Nat) : Int := sgn 24 (arOf s t (vAr w)) + vImm w

/-- Lanes that take part (R205). -/
def vEn (s : State) (t w : Nat) : Nat := if vMen w then mreg s t (vMsk w) else allLanes

/-- Write a vector or mask destination under the predicate. -/
def putV (t w v : Nat) (s : State) : State := setVreg t (vVd w) (mergeLanes (vreg s t (vVd w)) v (vEn s t w)) s
def putM (t w v : Nat) (s : State) : State :=
  setMreg t (fld w 10 8) (mergeMask (mreg s t (fld w 10 8)) v (vEn s t w)) s

/-- The first and the other sources. -/
def src1 (s : State) (t w : Nat) : Nat := vreg s t (vVs1 w)
def src2 (s : State) (t w : Nat) : Nat := vreg s t (vVs2 w)
def src3 (s : State) (t w : Nat) : Nat := vreg s t (vVs3 w)

/-! ### Runs (R200–R202) -/

/-- A reserved field of an argument block is not zero. -/
def argBad (a : Nat) : Bool :=
  fld a 511 460 != 0 || (List.range 6).any (fun i => fld a (64 * i + 63) (64 * i + 48) != 0)

/-- RUN_BEGIN's effect. -/
def runBegin (t : Nat) (s : State) : State :=
  let v := vxeOf s t
  match v.runs with
  | [] => s
  | r :: _ =>
    if v.stopped || v.begun then s
    else
      let a := r.arg.toNat
      let s := modVxe t (fun v => { v with begun := true, iter := 0, index := r.start }) s
      if r.argUe.isSome then vxeStop t ⟨5, 3, 1, r.argUe⟩ s
      else if argBad a then vxeStop t (vprog 8) s
      else
        let ar := (List.range 6).foldl (fun l i => tset 0 l i (BitVec.ofNat 24 (fld a (64 * i + 23) (64 * i)))) []
        vxeAt t r.start (modVxe t (fun v => { v with ar := ar, eix := BitVec.ofNat 40 (fld a 423 384) }) s)

/-- The address registers and EIX after an iteration. -/
def nextIteration (a : Nat) (v : Vxe) : Vxe :=
  { v with
    ar := (List.range 6).foldl (fun l i => tset 0 l i (tgetD 0 v.ar i + BitVec.ofNat 24 (fld a (64 * i + 47) (64 * i + 24)))) v.ar
    eix := v.eix + BitVec.ofNat 40 (fld a 447 424)
    iter := v.iter + 1 }

/-- END's effect: the next iteration, or the run's completion. -/
def endIteration (t : Nat) (ue : Bool) (s : State) : State :=
  if vxeReady s t 1 then
    if ue then vxeStop t ⟨5, 3, 3, none⟩ s
    else if !vLegal (vxeWord s t) then vxeStop t (vprog 1) s
    else match (vxeOf s t).runs with
      | [] => s
      | r :: rest =>
        if (vxeOf s t).iter < r.iterM1 then vxeAt t r.start (modVxe t (nextIteration r.arg.toNat) s)
        else modVxe t (fun v => { v with runs := rest, begun := false, count := v.count + 1 }) s
  else s

/-! ### Loads and stores (R207) -/

/-- Bytes [a, a + n) of the scratchpad, or the stop. -/
def vLoad (t n : Nat) (a : Int) (s : State) : Except VStop Nat :=
  if 0 ≤ a ∧ a + n ≤ spdSize then
    match firstUe s t [(a.toNat, n)] with
    | some o => .error ⟨5, 3, 1, some o⟩
    | none => .ok (ofBytes (spdRead (portView t portVec s) t a.toNat n))
  else .error (vprog 2)

def opVld (t w : Nat) (s : State) : VRes :=
  match vLoad t 512 (vAddr s t w 64) s with
  | .error e => .stop e
  | .ok v => .done (putV t w v (portTake t portVec (vAddr s t w 64).toNat 512 s))

def opVldb (t w : Nat) (s : State) : VRes :=
  match vLoad t 4 (vAddr s t w 4) s with
  | .error e => .stop e
  | .ok v => .done (putV t w (splat v) (portTake t portVec (vAddr s t w 4).toNat 4 s))

def opMld (t w : Nat) (s : State) : VRes :=
  match vLoad t 16 (vAddr s t w 16) s with
  | .error e => .stop e
  | .ok v => .done (putM t w v (portTake t portVec (vAddr s t w 16).toNat 16 s))

/-- A store of 4-byte lanes by a mask (R205, R207, R274): every run of enabled lanes is one write, so that a word it covers whole loses its
error (R292). -/
def vStore (t : Nat) (a : Int) (n v en : Nat) (s : State) : VRes :=
  if 0 ≤ a ∧ a + n ≤ spdSize then
    let on (x : Nat) : Bool := bit en ((x - a.toNat) / 4)
    let d := toBytes n v
    let rs := byteRuns on a.toNat d
    if rs.all (fun r => portMayWrite s t portVec r.1 r.2) then .done (rs.foldl (fun s r => portStore t portVec r.1 r.2 s) s)
    else .stop (vprog 2)
  else .stop (vprog 2)

def opVst (t w : Nat) (s : State) : VRes := vStore t (vAddr s t w 64) 512 (src1 s t w) (vEn s t w) s
def opMst (t w : Nat) (s : State) : VRes := vStore t (vAddr s t w 16) 16 (mreg s t (fld w 15 13)) allLanes s

/-! ### Lane operations -/

/-- An element operation. -/
def opElem (op t w : Nat) (s : State) : VRes :=
  .done (putV t w (elemOp op (vMode w) (src1 s t w) (src2 s t w) (src3 s t w)) s)

def opSel (t w : Nat) (s : State) : VRes :=
  .done (setVreg t (vVd w) (mergeLanes (src2 s t w) (src1 s t w) (mreg s t (vMsk w))) s)

def opIota (t w : Nat) (s : State) : VRes := .done (putV t w (viotaOp (src1 s t w)) s)
def opCmp (t w : Nat) (s : State) : VRes := .done (putM t w (vcmpOp (vFn w) (vMode w) (src1 s t w) (src2 s t w)) s)
def opMop (t w : Nat) (s : State) : VRes :=
  .done (putM t w (mopOp (vFn w) (mreg s t (fld w 15 13)) (mreg s t (fld w 20 18)) (vCount s t w)) s)

/-- The draw of an element (R214, R257). -/
def vDraw (s : State) (t w : Nat) (j : Nat) : Rnd :=
  if bit (vMode w) 0 then
    match tileCtx s t with
    | some c => .stoch (hachure (regRaw s (aCtx c 0x70)) (stepOf s c) (statTid s t)
        (wrap 40 ((vxeOf s t).eix.toNat + vImm w + j)))
    | none => .rne
  else .rne

/-- Values of the FP32 source registers of a conversion. -/
def cvtSource (s : State) (t w n : Nat) : List Dyad :=
  (List.range n).flatMap (fun i => (lanes 32 (vreg s t (vVs1 w + i))).map f32)

/-- Write consecutive destination registers under the predicate. -/
def putVs (t w : Nat) (vs : List Nat) (s : State) : State :=
  let en := vEn s t w
  (vs.zip (List.range vs.length)).foldl (fun s p =>
    setVreg t (vVd w + p.2) (mergeLanes (vreg s t (vVd w + p.2)) p.1 en) s) s

/-- CVT (R214, R215); an element of a disabled lane is not reported. -/
def opCvt (t w : Nat) (s : State) : VRes :=
  let fn := vFn w
  let n := cvtN fn
  let en := vEn s t w
  let report (l : List (Dyad × ConvEvents)) (s : State) : State :=
    if bit (vMode w) 2 then
      contourElems t (statTid s t) (vxeOf s t).across (((l.zip (List.range l.length)).filter (fun p => bit en (cvtLane fn p.2))).map (·.1)) s
    else s
  if cvtMx fn then
    let (v, sc, l) := mxConvert fn (vDraw s t w) (cvtSource s t w 4)
    .done (report l (putVs t w [v, sc] s))
  else if cvtNarrow fn then
    let (v, l) := narrow fn (bit (vMode w) 1) (vDraw s t w) (cvtSource s t w n)
    .done (report l (putVs t w [joinLanes (cvtWidth fn) v] s))
  else
    let es := (lanes (cvtWidth fn) (src1 s t w)).map (widen fn)
    .done (putVs t w ((List.range n).map (fun i => joinLanes 32 ((es.drop (128 * i)).take 128))) s)

def opNlu (t w : Nat) (s : State) : VRes :=
  .done (putV t w (mapLanes (fun _ x => toF32 (nluOf (vFn w) (f32 x))) (src1 s t w)) s)

def opDer (t w : Nat) (s : State) : VRes :=
  let al := f32 (src3 s t w % 2 ^ 32)
  let dy := src2 s t w
  .done (putV t w (mapLanes (fun l y => toF32 (vderOf (vFn w) (f32 y) (f32 (laneOf dy l)) al)) (src1 s t w)) s)

/-! ### Reductions, softmax, top-k -/

def opRclr (t w : Nat) (s : State) : VRes := .done (setRacc t (vRa w) {} s)

def opRacc (t w : Nat) (s : State) : VRes :=
  match raccOp (vFn w) (src1 s t w) (src2 s t w) (vEn s t w) (raccOf s t (vRa w)) with
  | some r => .done (setRacc t (vRa w) r s)
  | none => .stop (vprog 4)

/-- RGET (R222): the counters of empty and NaN rows, and with STAT the events of the tensor. -/
def opRget (t w : Nat) (s : State) : VRes :=
  let r := raccOf s t (vRa w)
  let k := raccClass r
  if vFn w = 1 then
    let s := putV t w (splat k) s
    let s := if k = 1 then regCount (aTile t 4 0x38) 1 s else if k = 3 then regCount (aTile t 4 0x40) 1 s else s
    .done (if bit (vMode w) 2 && (k == 1 || k == 3) then
        contourEvent t (statTid s t) (vxeOf s t).across (fun _ x =>
          if k = 1 then { x with empty := satAdd 32 x.empty 1 } else { x with nans := satAdd 32 x.nans 1 }) s
      else s)
  else
    let v := raccValue r
    let v := if vFn w = 2 then nmul v (f32 (src2 s t w % 2 ^ 32)) else v
    .done (putV t w (splat (toF32 v)) s)

def opSmxe (t w : Nat) (s : State) : VRes :=
  let r := raccOf s t (vRa w)
  let en := vEn s t w
  .done (setVreg t (vVd w) (mapLanes (fun l x => toF32 (smxeLane r (bit en l) (f32 x))) (src1 s t w)) s)

def opSmxn (t w : Nat) (s : State) : VRes :=
  let v := raccValue (raccOf s t (vRa w))
  .done (setVreg t (vVd w) (mapLanes (fun _ e => toF32 (smxnLane v (f32 e))) (src1 s t w)) s)

def opSmxb (t w : Nat) (s : State) : VRes :=
  let v := raccValue (raccOf s t (vRa w))
  let en := vEn s t w
  let cls := sgn 32 (src3 s t w)
  let dy := src2 s t w
  if cls < 0 ∨ 3 < cls then .stop (vprog 1)
  else .done (setVreg t (vVd w) (mapLanes (fun l y => toF32 (smxbLane v cls (bit en l) (f32 y) (f32 (laneOf dy l)))) (src1 s t w)) s)

def opTopk (t w : Nat) (s : State) : VRes :=
  let (v, i) := topkOp (vFn w) (vMode w) (vImm w).toNat (src1 s t w) (vreg s t (vVs1 w + 1)) (src2 s t w) (vreg s t (vVs2 w + 1))
    (vEn s t w)
  .done (setVreg t (vVd w + 1) i (setVreg t (vVd w) v s))

/-! ### Draining the arrays (R210–R213) -/

/-- An entry matches a filter (R210). -/
def ftqMatch (f : Nat) (e : FtqEntry) : Bool := e.poppable && (f == 0 || e.stream + 1 == f)

def opFtqpop (t w : Nat) (s : State) : VRes :=
  let a := fld (vFn w) 0 0
  let f := fld (vFn w) 2 1
  if (slotOf s t (vSlot w)).isSome then .stop (vprog 3)
  else
    let q := (maOf s t a).ftq
    match q.findIdx? (ftqMatch f) with
    | none => .wait s
    | some i =>
      match q[i]? with
      | none => .wait s
      | some e =>
        let s := modMa t a (fun m => { m with ftq := m.ftq.eraseIdx i }) s
        .done (modVxe t (fun v => { v with slots := tput v.slots (vSlot w) e.bits }) s)

/-- The accumulator column that lane l carries for a slot's pass (R211). -/
def slotCol (e l : Nat) : Option Nat :=
  let h := fld e 2 1
  if h = 0 then (if fld e 62 60 = 4 then (if l = 0 then some 0 else none) else some l)
  else if l < 64 then some (64 * (h - 1) + l) else none

/-- The lane carries an element of row m that is targeted and not masked. -/
def slotLane (e m l : Nat) : Option Nat :=
  match slotCol e l with
  | some n => if masked (fld e 42 41) (fld e 255 128) m n then none else some n
  | none => none

/-- The row number of ACCRD and ACCMSK, when the slot is occupied and holds it. -/
def slotRow (s : State) (t w : Nat) : Option (Nat × Nat) :=
  match slotOf s t (vSlot w) with
  | none => none
  | some e => let m := vCount s t w; if 0 ≤ m ∧ m ≤ fld e 13 5 then some (e, m.toNat) else none

def opAccrd (accUe : Bool) (t w : Nat) (s : State) : VRes :=
  match slotRow s t w with
  | none => .stop (vprog 3)
  | some (e, m) =>
    if accUe then .stop ⟨5, 3, 2, none⟩
    else
      let acc := (maOf s t (fld e 0 0)).acc
      let fmt := if vFn w = 0 then 0 else 5
      let es := (List.range 128).map (fun l =>
        match slotLane e m l with
        | none => none
        | some n =>
          let v := nscale (sgn 10 (fld e 39 30)) (elemUnpack (tgetD 0#128 acc (accKey (fld e 4 3) m n))).v
          let c := outConvert fmt false .rne v
          some (c.1, v, c.2))
      let s := putV t w (joinLanes 32 (es.map (fun x => match x with | some (c, _) => c | none => 0))) s
      .done (if bit (vMode w) 2 && !bit e 40 then contourElems t (fld e 29 18) (vxeOf s t).across (es.filterMap (fun x => x.map (·.2))) s else s)

def opAccmsk (t w : Nat) (s : State) : VRes :=
  match slotRow s t w with
  | none => .stop (vprog 3)
  | some (e, m) => .done (putM t w (joinLanes 1 ((List.range 128).map (fun l => (slotLane e m l).isSome.toNat))) s)

def opAccrel (t w : Nat) (s : State) : VRes :=
  match slotOf s t (vSlot w) with
  | none => .stop (vprog 3)
  | some e =>
    let s := modMa t (fld e 0 0) (fun m => { m with held := m.held.filter (fun b => !bit (fld e 17 14) b) }) s
    .done (modVxe t (fun v => { v with slots := tdel v.slots (vSlot w) }) s)

/-- FTQ_ENTRY_POPPABLE's effect (Table 6-12): what was pushed before this cycle can be popped. -/
def ftqEntryPoppable (t a : Nat) (s : State) : State :=
  modMa t a (fun m => { m with ftq := m.ftq.map (fun e => { e with poppable := true }) }) s

/-! ### Views (Table 6-13) -/

def vxeStatusView (s : State) (t held : Nat) : Nat :=
  let v := vxeOf s t
  (if v.stopped then 2 else if v.runs.isEmpty then 0 else 1) + v.waiting.toNat <<< 4 + Nat.land held 0x800
    + (List.range 4).foldl (fun h i => if (tget v.slots i).isSome then h + 2 ^ (12 + i) else h) 0 + v.runs.length <<< 16

def ftqSlotView (s : State) (t k w : Nat) : Nat := fld ((slotOf s t k).getD 0) (64 * w + 63) (64 * w)

/-! ### The commands -/

/-- RUN_BEGIN. -/
def execRunBegin (t : Nat) (s : State) : Host.Outcome State Fault Refusal := act (tileOk t) s (runBegin t)
/-- NOP. -/
def execNop (t : Nat) (ue : Bool) (s : State) : Host.Outcome State Fault Refusal := act (tileOk t) s (vxeRow 0x00 t ue (fun _ s => .done s))
/-- END. -/
def execEndIteration (t : Nat) (ue : Bool) (s : State) : Host.Outcome State Fault Refusal := act (tileOk t) s (endIteration t ue)
/-- VLD. -/
def execVld (t : Nat) (ue : Bool) (s : State) : Host.Outcome State Fault Refusal := act (tileOk t) s (vxeRow 0x08 t ue (opVld t))
/-- VST. -/
def execVst (t : Nat) (ue : Bool) (s : State) : Host.Outcome State Fault Refusal := act (tileOk t) s (vxeRow 0x09 t ue (opVst t))
/-- VLDB. -/
def execVldb (t : Nat) (ue : Bool) (s : State) : Host.Outcome State Fault Refusal := act (tileOk t) s (vxeRow 0x0A t ue (opVldb t))
/-- MLD. -/
def execMld (t : Nat) (ue : Bool) (s : State) : Host.Outcome State Fault Refusal := act (tileOk t) s (vxeRow 0x0B t ue (opMld t))
/-- MST. -/
def execMst (t : Nat) (ue : Bool) (s : State) : Host.Outcome State Fault Refusal := act (tileOk t) s (vxeRow 0x0C t ue (opMst t))
/-- VADD. -/
def execVadd (t : Nat) (ue : Bool) (s : State) : Host.Outcome State Fault Refusal := act (tileOk t) s (vxeRow 0x10 t ue (opElem 0x10 t))
/-- VSUB. -/
def execVsub (t : Nat) (ue : Bool) (s : State) : Host.Outcome State Fault Refusal := act (tileOk t) s (vxeRow 0x11 t ue (opElem 0x11 t))
/-- VMUL. -/
def execVmul (t : Nat) (ue : Bool) (s : State) : Host.Outcome State Fault Refusal := act (tileOk t) s (vxeRow 0x12 t ue (opElem 0x12 t))
/-- VFMA. -/
def execVfma (t : Nat) (ue : Bool) (s : State) : Host.Outcome State Fault Refusal := act (tileOk t) s (vxeRow 0x13 t ue (opElem 0x13 t))
/-- VMAX. -/
def execVmax (t : Nat) (ue : Bool) (s : State) : Host.Outcome State Fault Refusal := act (tileOk t) s (vxeRow 0x14 t ue (opElem 0x14 t))
/-- VMIN. -/
def execVmin (t : Nat) (ue : Bool) (s : State) : Host.Outcome State Fault Refusal := act (tileOk t) s (vxeRow 0x15 t ue (opElem 0x15 t))
/-- VABS. -/
def execVabs (t : Nat) (ue : Bool) (s : State) : Host.Outcome State Fault Refusal := act (tileOk t) s (vxeRow 0x16 t ue (opElem 0x16 t))
/-- VNEG. -/
def execVneg (t : Nat) (ue : Bool) (s : State) : Host.Outcome State Fault Refusal := act (tileOk t) s (vxeRow 0x17 t ue (opElem 0x17 t))
/-- VDIV. -/
def execVdiv (t : Nat) (ue : Bool) (s : State) : Host.Outcome State Fault Refusal := act (tileOk t) s (vxeRow 0x18 t ue (opElem 0x18 t))
/-- VSEL. -/
def execVsel (t : Nat) (ue : Bool) (s : State) : Host.Outcome State Fault Refusal := act (tileOk t) s (vxeRow 0x19 t ue (opSel t))
/-- VIOTA. -/
def execViota (t : Nat) (ue : Bool) (s : State) : Host.Outcome State Fault Refusal := act (tileOk t) s (vxeRow 0x1A t ue (opIota t))
/-- VCMP. -/
def execVcmp (t : Nat) (ue : Bool) (s : State) : Host.Outcome State Fault Refusal := act (tileOk t) s (vxeRow 0x20 t ue (opCmp t))
/-- MOP. -/
def execMop (t : Nat) (ue : Bool) (s : State) : Host.Outcome State Fault Refusal := act (tileOk t) s (vxeRow 0x21 t ue (opMop t))
/-- CVT. -/
def execCvt (t : Nat) (ue : Bool) (s : State) : Host.Outcome State Fault Refusal := act (tileOk t) s (vxeRow 0x28 t ue (opCvt t))
/-- NLU. -/
def execNlu (t : Nat) (ue : Bool) (s : State) : Host.Outcome State Fault Refusal := act (tileOk t) s (vxeRow 0x30 t ue (opNlu t))
/-- VDER. -/
def execVder (t : Nat) (ue : Bool) (s : State) : Host.Outcome State Fault Refusal := act (tileOk t) s (vxeRow 0x31 t ue (opDer t))
/-- RCLR. -/
def execRclr (t : Nat) (ue : Bool) (s : State) : Host.Outcome State Fault Refusal := act (tileOk t) s (vxeRow 0x38 t ue (opRclr t))
/-- RACC. -/
def execRacc (t : Nat) (ue : Bool) (s : State) : Host.Outcome State Fault Refusal := act (tileOk t) s (vxeRow 0x39 t ue (opRacc t))
/-- RGET. -/
def execRget (t : Nat) (ue : Bool) (s : State) : Host.Outcome State Fault Refusal := act (tileOk t) s (vxeRow 0x3A t ue (opRget t))
/-- SMXE. -/
def execSmxe (t : Nat) (ue : Bool) (s : State) : Host.Outcome State Fault Refusal := act (tileOk t) s (vxeRow 0x40 t ue (opSmxe t))
/-- SMXN. -/
def execSmxn (t : Nat) (ue : Bool) (s : State) : Host.Outcome State Fault Refusal := act (tileOk t) s (vxeRow 0x41 t ue (opSmxn t))
/-- SMXB. -/
def execSmxb (t : Nat) (ue : Bool) (s : State) : Host.Outcome State Fault Refusal := act (tileOk t) s (vxeRow 0x42 t ue (opSmxb t))
/-- TOPK. -/
def execTopk (t : Nat) (ue : Bool) (s : State) : Host.Outcome State Fault Refusal := act (tileOk t) s (vxeRow 0x48 t ue (opTopk t))
/-- FTQPOP. -/
def execFtqpop (t : Nat) (ue : Bool) (s : State) : Host.Outcome State Fault Refusal := act (tileOk t) s (vxeRow 0x50 t ue (opFtqpop t))
/-- ACCMSK. -/
def execAccmsk (t : Nat) (ue : Bool) (s : State) : Host.Outcome State Fault Refusal := act (tileOk t) s (vxeRow 0x52 t ue (opAccmsk t))
/-- ACCREL. -/
def execAccrel (t : Nat) (ue : Bool) (s : State) : Host.Outcome State Fault Refusal := act (tileOk t) s (vxeRow 0x53 t ue (opAccrel t))
/-- ACCRD. -/
def execAccrd (t : Nat) (ue accUe : Bool) (s : State) : Host.Outcome State Fault Refusal := act (tileOk t) s (vxeRow 0x51 t ue (opAccrd accUe t))
/-- FTQ_ENTRY_POPPABLE. -/
def execFtqEntryPoppable (t a : Nat) (s : State) : Host.Outcome State Fault Refusal := act (tileOk t && decide (a < 2)) s (ftqEntryPoppable t a)

end Sys2Proof.Machine
end

