-- ==== Sys2Proof/Machine/View.lean ====
section
/-!
DEFINITION. What the register at a device address reads as: the value held for it, or, where its bits are a unit's own state, a view of
that unit.
-/

namespace Sys2Proof.Machine

/-- STn_STATUS (Table 3-9). -/
def stStatusView (s : State) (t n : Nat) : Nat :=
  let x := stOf s t n
  let r := match x.run with | .reset => 0 | .running => 1 | .waiting => 2 | .halted => 3 | .stopped => 4
  let w := match x.waitKind with
    | .none => 0 | .msend => 1 | .mrecv => 2 | .qpush => 3 | .qpop => 4 | .issue => 5 | .waitc => 6 | .vxrun => 7 | .fence => 8 | .fenceG => 8 | .waypoint => 9
  r + w <<< 4 + (decide (x.mode = .machine)).toNat <<< 8 + x.intrap.toNat <<< 9

/-- Registers of a steward's window. -/
def stView (s : State) (t n o raw : Nat) : Nat :=
  let x := stOf s t n
  if o = 0 then stStatusView s t n
  else if o = 8 then x.pc.toNat
  else if o = 0x10 then x.stopCause
  else if o = 0x18 then x.halt.toNat + x.stepBit.toNat <<< 1 + x.ebreakHalt.toNat <<< 2
  else if 0x100 ≤ o ∧ o < 0x200 then gprOf x ((o - 0x100) / 8)
  else if o = 0x200 then x.csrSel.toNat
  else if o = 0x208 then (csrRead s t n x.csrSel.toNat).1
  else raw

/-- Registers of tile t's control block. -/
def tileView (s : State) (t w o raw : Nat) : Nat :=
  if w < 2 then stView s t w o raw
  else if w < 4 then (if o = 0x10 then maStatusView s t (w - 2) else raw)
  else if w = 4 then
    (if o = 0 then vxeStatusView s t raw
     else if o = 0x18 then (tgetD (0 : Word) (vxeOf s t).mc (regRaw s (aTile t 4 0x10))).toNat
     else raw)
  else if w = 5 then
    (if o = 0 then ftqStatusView s t 0 else if o = 4 then ftqStatusView s t 1
     else if 0x100 ≤ o then ftqSlotView s t ((o - 0x100) / 0x20) ((o - 0x100) / 8 % 4) else raw)
  else if w = 6 then (if o = 8 then cpyStatusView s t else raw)
  else if w = 10 then flitView s (aTile t w o) raw
  else if w = 7 then
    (if o = 0 then spdStatusView s t
     else if o = 0x200 then (tgetD (0 : Word) s.fuses.repair t).toNat
     else if 0x800 ≤ o ∧ o < 0x900 ∧ o % 0x20 = 8 then vsStateView s t ((o - 0x800) / 0x20) else raw)
  else raw

/-- Registers of the edge and global range. -/
def globView (s : State) (o raw : Nat) : Nat :=
  if o = 0 then ctxFreeView s
  else if o = 8 then tileUsableView s 0
  else if o = 0x10 then tileUsableView s 64
  else if 0x1000 ≤ o ∧ o < 0x2000 then
    let c := (o - 0x1000) / 0x100
    match o % 0x100 with
    | 0x00 => ctxStateView s c
    | 0x08 => (ctxOf s c).gen.toNat
    | 0x88 => mbStatusView s c
    | _ => raw
  else if 0x1001000 ≤ o ∧ o < 0x1002000 ∧ o % 0x100 = 4 then fnStateView s ((o - 0x1001000) / 0x100)
  else if 0x1201000 ≤ o ∧ o < 0x1202000 ∧ o % 0x100 = 0x28 then colHeldView s ((o - 0x1201000) / 0x100)
  else if o = 0x1300000 then fceStatusView s
  else if 0x1401000 ≤ o ∧ o < 0x1402000 ∧ o % 0x100 = 4 then bookStatusView s ((o - 0x1401000) / 0x100)
  else raw

/-- The register at a device address as it stands; of a store wider than 64 bits, its aligned 64-bit word. -/
def regView (s : State) (a : Nat) : Nat :=
  let raw := regRaw s a
  if a < tcbBase + 0x800000 then tileView s ((a - tcbBase) / 0x10000) ((a - tcbBase) / 0x1000 % 16) (a % 0x1000) raw
  else if a < globBase then
    let d := (a - dieBase) / 0x1000000 % 4
    let o := a % 0x1000000
    if 0x200000 ≤ o ∧ o < 0x214000 ∧ o % 0x1000 = 0 then mruStatusView s d ((o - 0x200000) / 0x1000)
    else if o < 0x800 then flitView s a raw
    else raw
  else globView s (a - globBase) raw

end Sys2Proof.Machine
end

