-- ==== Sys2Proof/Machine/Datum.lean ====
section
/-!
DEFINITION. Datum triggers, the latch and the snapshot areas (R529–R533, R537, R538).
-/

namespace Sys2Proof.Machine

/-- Register at offset off of the module DAT window. -/
def aDat (off : Nat) : Nat := aGlob (0x300000 + off)
def datCtl (s : State) : Nat := regRaw s (aDat 0)

/-- Enable bit of a source (Table 17-2); a command and a chip reset need none. -/
def srcEnabled (s : State) (src : Nat) : Bool :=
  match src with
  | 1 => bit (datCtl s) 9
  | 2 => bit (datCtl s) 10
  | 3 => bit (datCtl s) 11
  | 4 => bit (datCtl s) 12
  | 5 => bit (datCtl s) 13
  | _ => true

/-- A trigger of a source with latch tick L: it waits for L, or, with its enable clear, counts as missed (R531). -/
def trigger (src l : Nat) (s : State) : State :=
  if srcEnabled s src then { s with datums := { s.datums with pend := s.datums.pend ++ [(l, src)] } }
  else regCount (aDat 0x28) 1 s

/-- A fabric datum with TIME reaches this module (R533). -/
def fabricAccept (time : Nat) (s : State) : State :=
  if time ≤ now s then regCount (aDat 0x38) 1 s else trigger 5 time s

/-- A write of DAT_CMD (Table 17-4): none where OP is not one of its commands. -/
def datCmdWrite (v : Nat) (s : State) : Option State :=
  match fld v 3 0 with
  | 1 => some (trigger 0 (now s + 64) s)
  | 2 =>
    let t := regRaw s (aDat 0x20)
    let n := s.datums.number
    let s := sendOn (floodPorts s) (mgmtPacket s 0 3 n t 0) s
    some (fabricAccept t { s with datums := { s.datums with number := (n + 1) % 65536, seen := seePair s.datums.seen (ownDev s, n) } })
  | _ => none

/-- FDATUM's effect: one not seen before is acted on and goes on by every other torus and buddy port. -/
def fdatumPacket (p : Nat) (k : Packet) (s : State) : State :=
  mgmtArrive p 3 k (fun s =>
    let pair := (pSrc k, pTagOf k)
    if s.datums.seen.contains pair then s
    else
      let s := { s with datums := { s.datums with seen := seePair s.datums.seen pair } }
      fabricAccept (pOp k 351 288) (sendOn ((floodPorts s).filter (· ≠ p)) k s)) s
where
  /-- TAG of a MGMT packet (R526). -/
  pTagOf (k : Packet) : Nat := pOp k 287 272

/-- A write of DAT_MATCH (R537): one at or before the present time fires in the next tick. -/
def datMatchWrite (v : Nat) (s : State) : State :=
  regPut (aDat 0x18) v { s with datums := { s.datums with matched := false, lateMatch := decide (v ≤ now s) } }

/-- TIME_MATCH's effect: the counter reaches DAT_MATCH, once. -/
def timeMatch (s : State) : State :=
  let m := regRaw s (aDat 0x18)
  if s.datums.matched ∨ (!s.datums.lateMatch ∧ m < now s) then s
  else
    let l := if s.datums.lateMatch then now s + 1 else m
    let s := advanceTo l { s with datums := { s.datums with matched := true, lateMatch := false } }
    regFld (aDat 0) 11 11 0 (trigger 3 l s)

/-- DATUM_IN's effect: the edge that PIN_EDGE selects. -/
def datumIn (rising : Bool) (s : State) : State := if bit (datCtl s) 20 == rising then trigger 4 (now s + 64) s else s

/-! ### The latch (Table 17-1) -/

/-- Contents of tile t's area as (offset, value). -/
def tileSnap (s : State) (t : Nat) : List (Nat × Nat) :=
  let v (w o : Nat) : Nat := regView s (aTile t w o)
  let run (off : Nat) (l : List Nat) : List (Nat × Nat) := (List.range l.length).map (fun i => (off + 8 * i, l.getD i 0))
  let ma (a : Nat) : List Nat := [v (2 + a) 0x10, v (2 + a) 0x18 + v (2 + a) 0x1C <<< 32]
  let cyc (a : Nat) : List Nat := (List.range 5).map (fun k => v (2 + a) (0x20 + 8 * k))
  let two (i : Nat) : Nat := countCsr s t i + countCsr s t (i + 1) <<< 32
  run 0x100 [v 0 0, v 0 8, v 1 0, v 1 8]
  ++ run 0x120 (ma 0 ++ ma 1)
  ++ run 0x140 (cyc 0 ++ cyc 1)
  ++ run 0x190 [two 0, two 2, two 4, v 4 0, v 4 8]
  ++ run 0x1B8 ((List.range 6).map (fun k => v 4 (0x20 + 8 * k)))
  ++ run 0x1E8 [v 6 0x10, v 6 8, v 7 0]
  ++ run 0x200 ((List.range 8).map (fun k => v 7 (0x10 + 8 * k)))
  ++ run 0x240 [v 7 0x50, v 7 0x58]
  ++ run 0x250 ((List.range 8).map (fun k => v 7 (0x808 + 0x20 * k)))
  ++ run 0x290 [match tileCtx s t with | some c => stepOf s c | none => 0, wtileid s t 0]

/-- Contents of compute die d's area. -/
def dieSnap (s : State) (d : Nat) : List (Nat × Nat) :=
  (List.range 5).map (fun i => (8 * i, regView s (aHbmc (5 * d + i) 0) + regView s (aHbmc (5 * d + i) 8) <<< 32))
  ++ [(0x28, regView s (aDie d 0x100000))]
  ++ (List.range 20).map (fun u => (0x100 + 8 * u, regView s (aDie d (0x200000 + 0x1000 * u))))

/-- Contents of E0's and E1's areas. -/
def e0Snap (s : State) (l : Nat) : List (Nat × Nat) :=
  (List.range 8).map (fun p => (8 * p, regView s (aBlw p 4)))
  ++ [(0x40, regView s (aMer 8)), (0x48, regView s (aMer 0x10)), (0x50, l)]
  ++ (List.range 16).map (fun c => (0x100 + 8 * c, ctxStateView s c + (ctxOf s c).gen.toNat <<< 32))
  ++ [(0x180, regView s (aGlob 0x100000)), (0x188, regView s (aGlob 0x100010)), (0x190, regView s (aHost 4))]
def e1Snap (s : State) : List (Nat × Nat) :=
  (List.range 8).map (fun i => (8 * i, regView s (aBlw (8 + i) 4)))
  ++ (List.range 16).map (fun c => (0x100 + 8 * c, colHeldView s c))
  ++ [(0x200, fceStatusView s)]
  ++ (List.range 16).map (fun b => (0x208 + 8 * b, bookStatusView s b))

/-- Write an area's contents. -/
def putArea (base : Nat) (l : List (Nat × Nat)) (s : State) : State := l.foldl (fun s p => regPut (base + p.1) p.2 s) s

/-- All areas copy their registers at tick L, for a set of sources; ARM clears. -/
def latchAll (l sources : Nat) (s : State) : State :=
  let seq := (regRaw s (aDat 0x40) + 1) % 2 ^ 32
  let before := s
  let s := (List.range 128).foldl (fun s t => regPut (aTile t 8 0) seq (putArea (aTile t 8 0) (tileSnap before t) s)) s
  let s := (List.range 4).foldl (fun s d => putArea (aDat (0x10000 + d * 0x10000)) (dieSnap before d) s) s
  let s := putArea (aDat 0x60000) (e1Snap before) (putArea (aDat 0x50000) (e0Snap before l) s)
  regFld (aDat 0) 0 0 0 (regPut (aDat 4) (1 + sources <<< 8) (regPut (aDat 0x10) l (regPut (aDat 0x40) seq s)))

/-- Triggers whose L is the earliest pending one. -/
def nextTriggers (s : State) : Option (Nat × List Nat) :=
  match s.datums.pend with
  | [] => none
  | p :: r =>
    let l := r.foldl (fun m q => min m q.1) p.1
    some (l, (s.datums.pend.filter (fun q => q.1 = l)).map (·.2))

/-- LATCH's effect: at L the triggers of that tick make one latch; with ARM at 0 only a chip reset latches and the others count as
missed (R531, R532, R538). -/
def latch (s : State) : State :=
  match nextTriggers s with
  | none => s
  | some (l, srcs) =>
    let s := advanceTo l { s with datums := { s.datums with pend := s.datums.pend.filter (fun q => q.1 ≠ l) } }
    if bit (datCtl s) 0 then latchAll l (srcs.foldl (fun v i => setBit v i true) 0) s
    else
      let s := regCount (aDat 0x28) (srcs.filter (· ≠ 6)).length s
      if srcs.contains 6 then latchAll l 64 s else s

/-! ### Commands -/

def execFdatum (p : Nat) (pkt : Packet) (s : State) : Host.Outcome State Fault Refusal := act (portOk p) s (fdatumPacket p pkt)
def execTimeMatch (s : State) : Host.Outcome State Fault Refusal := act true s timeMatch
def execDatumIn (rising : Bool) (s : State) : Host.Outcome State Fault Refusal := act true s (datumIn rising)
def execLatch (s : State) : Host.Outcome State Fault Refusal := actPowered true s latch

end Sys2Proof.Machine
end

