-- ==== Sys2Proof/Machine/Fault.lean ====
section
/-!
DEFINITION. FLT: the record as it is filed, actions, watchdogs, the decision of a chip reset and its first phases (R476–R495, R501, R502).
-/

namespace Sys2Proof.Machine

/-- Register at offset off of the FLT window. -/
def aFlt (off : Nat) : Nat := aGlob (0x100000 + off)

/-! ### The record (Table 15-1) -/

/-- A filed record's bits. -/
def recordBits (r : FaultRec) (seq action : Nat) : Nat :=
  let addr := match r.addr with | some (d, a) => 2 ^ 127 + (d % 4096) <<< 104 + (a % 2 ^ 40) <<< 64 | none => 0
  let ctx := match r.ctx with | some (c, g, k) => 2 ^ 160 + (k % 4096) <<< 148 + g.toNat <<< 132 + c <<< 128 | none => 0
  let tile := match r.tile with | some t => 2 ^ 168 + t <<< 161 | none => 0
  r.time % 2 ^ 64 + addr + ctx + tile + (r.die % 16) <<< 169 + (r.unit % 256) <<< 173 + r.half <<< 181 + r.cls <<< 184 + action <<< 188
    + r.code <<< 192 + seq <<< 200 + r.supp <<< 216 + r.step.toNat <<< 256 + r.detail.toNat <<< 320

/-- Order in which FLT takes records: time of detection, then that of R501. -/
def recordKey (r : FaultRec) : Nat :=
  (((r.time * 16 + r.die) * 256 + (match r.tile with | some t => t + 1 | none => 0)) * 256 + r.unit) * 4 + r.half

/-- The record that FLT takes next. -/
def nextRecord (s : State) : Option FaultRec :=
  s.faults.foldl (fun m r => match m with | some x => if recordKey r < recordKey x then some r else m | none => some r) none

/-! ### Actions (R480, R481, R491) -/

/-- The action that FLT_ACT assigns: 0 LOG, 1 ABORT, 2 TEARDOWN, 3 RESET; a reserved value acts as RESET. -/
def assignedAction (s : State) (cls code : Nat) : Nat :=
  if cls = 9 ∨ cls = 10 then 3
  else min 3 (fld (regRaw s (aFlt (0x2000 + cls * 0x80 + code / 8 * 4))) (4 * (code % 8) + 3) (4 * (code % 8)))

/-- The context a record names still exists and is not in TEARDOWN. -/
def namedLive (s : State) (r : FaultRec) : Option Nat :=
  match r.ctx with
  | some (c, g, _) => if (ctxOf s c).gen = g ∧ (ctxOf s c).state ≠ .free ∧ (ctxOf s c).state ≠ .teardown then some c else none
  | none => none

/-- A port record of a torus or buddy port, with the contexts it acts on (R491). -/
def portRecord (s : State) (r : FaultRec) : Option (List Nat) :=
  if r.cls = 8 ∧ r.code = 1 then
    let role := roleOf s (fld r.detail.toNat 3 0)
    if 1 ≤ role ∧ role ≤ 7 then
      some ((List.range 16).filter (fun c => decide ((ctxOf s c).state ≠ .free ∧ (ctxOf s c).state ≠ .teardown ∧ 1 < (ctxOf s c).members)))
    else none
  else none

/-- The action a record takes (R480). -/
def takenAction (s : State) (r : FaultRec) : Nat :=
  let a := if r.logOnly then 0 else assignedAction s r.cls r.code
  if a = 1 ∨ a = 2 then
    match portRecord s r with
    | some l => if l = [] then 0 else a
    | none => if (namedLive s r).isSome then a else 0
  else a

/-- TEARDOWN of a context that FLT issues: no command, it waits for none (R492). -/
def fltTeardown (c : Nat) (s : State) : State :=
  if (ctxOf s c).state = .free ∨ (ctxOf s c).state = .teardown then s else teardownStart c s

/-- The die whose memory path a cause lies in (R496). -/
def memPath (r : FaultRec) : Option Nat :=
  if r.die < 4 ∧ (r.unit = 0x10 ∨ r.unit = 0x12 ∨ (r.cls = 10 ∧ 1 ≤ r.code ∧ r.code ≤ 4)) then some r.die else none

/-- A RESET action: the chip reset is decided, or, in phases 1–5 of one, its cause counts for what is lost (R495, R496). -/
def decideReset (r : FaultRec) (bits : Nat) (s : State) : State :=
  let lost := (memPath r).toList
  let fresh : Reset := {
    phase := 0, t0 := now s, cause := BitVec.ofNat 512 bits, lost := lost, dump := none, reached := 0, bad := [],
    nonFree := (List.range 16).filter (fun c => decide ((ctxOf s c).state ≠ .free)), start := 0 }
  match s.rst with
  | some x => if x.phase ≤ 5 then { s with rst := some { x with lost := lost.foldl (fun l d => sinsert d l) x.lost } }
    else { s with rst := some { fresh with lost := lost.foldl (fun l d => sinsert d l) x.lost } }
  | none => { s with rst := some fresh }

/-- What an action does beyond the record. -/
def performAction (r : FaultRec) (bits action : Nat) (s : State) : State :=
  if action = 3 then decideReset r bits s
  else if action = 0 then s
  else match portRecord s r with
    | some l =>
      let s := sendFlood 4 r.time 0 0 true (l.foldl (fun s c => abortCtx c s) s)
      if action = 2 then l.foldl (fun s c => fltTeardown c s) s else s
    | none =>
      match r.ctx with
      | some (c, g, _) =>
        let s := sendFlood 1 r.time c g.toNat false (abortCtx c s)
        if action = 2 then fltTeardown c s else s
      | none => s

/-- The function whose event queue a record is posted to. -/
def recordFn (s : State) (r : FaultRec) : Nat :=
  match r.ctx with
  | some (c, g, _) => if (ctxOf s c).gen = g ∨ (ctxOf s c).state = .free then (ctxOf s c).func else 0
  | none => 0

/-- The internal cause in DETAIL that Table 15-3 gives the other units is stated only for some records; elsewhere it is free. -/
def openCause (r : FaultRec) : Bool :=
  !([1, 2, 3, 4, 5, 6, 7, 0x10, 0x11, 0x12, 0x20, 0x23, 0x24].contains r.unit) && r.detail == 0 && r.cls != 9 && r.cls != 12
    && !(r.cls == 10 && r.code == 6)
def withCause (r : FaultRec) (s : State) : FaultRec × State :=
  if openCause r then
    let (v, s) := freeBits 8 s
    (withDetail v r, s)
  else (r, s)

/-- FLT files a record: the store, FLT_STATUS, FAULTED, the event, the Atlas, the alert, the Datum trigger; then its action. -/
def fileRecord (r : FaultRec) (s : State) : State :=
  let st := regRaw s (aFlt 0)
  let seq := fld st 15 0
  let action := takenAction s r
  let bits := recordBits r seq action
  let s := regPutWords (aFlt (0x4000 + 64 * (seq % 256))) (words64 bits 8) s
  let wrapped := bit st 16 || decide (256 ≤ seq)
  let s := regPut (aFlt 0) ((seq + 1) % 65536 + wrapped.toNat <<< 16) s
  let s := match r.ctx with
    | some (c, g, _) => if (ctxOf s c).gen = g ∧ (ctxOf s c).state ≠ .free then regMod (aFlt 0x10) (fun v => setBit v c true) s else s
    | none => s
  let unit := r.unit % 256 + (match r.tile with | some t => t <<< 8 + 2 ^ 15 | none => 0)
  let (c, g) := match r.ctx with | some (c, g, _) => (c, g.toNat) | none => (0, 0)
  let s := postEvent (recordFn s r) 2 c g (r.code + r.cls <<< 8 + unit <<< 16 + bits <<< 384) s
  let s := atlCount (0x1D40 + 4 * r.cls) 1 s
  let s := if r.cls = 9 ∨ r.cls = 10 then healthCount 9 1 s else s
  let s := if action = 3 then { s with pins := { s.pins with alert := true } } else s
  let s := if fld (datCtl s) 17 16 ≤ action then trigger 2 (now s + 64) s else s
  performAction r bits action s

/-- FAULT_RECORD's effect (R478, R501). -/
def faultRecord (s : State) : State :=
  match nextRecord s with
  | none => s
  | some r =>
    let (q, s) := withCause r { s with faults := s.faults.filter (fun x => x ≠ r) }
    fileRecord q s

/-! ### Watchdogs (R483, R485) -/

/-- The tile's context is RUNNING. -/
def tileRunning (s : State) (t : Nat) : Bool :=
  match tileCtx s t with | some c => decide ((ctxOf s c).state = .running) | none => false

/-- A unit's wait watchdog expires: it stops with its code and raises WAIT_ST to WAIT_OTHER. -/
def waitWatchdog (u : WaitUnit) (s : State) : State :=
  match u with
  | .st t n =>
    let x := stOf s t n
    if tileRunning s t && x.run == .waiting && x.waitKind != .waypoint && x.waitKind != .fenceG then stStop t n 5 none s else s
  | .ma t a st =>
    let x := strOf (maOf s t a) st
    match x.decoded with
    | p :: _ =>
      if tileRunning s t && !x.stopped then settleAll t a (stopStream t a st 5 p.off 0 (dHalf p.desc.toNat st) none 0 false [] s) else s
    | [] => s
  | .vxe t => if tileRunning s t && (vxeOf s t).waiting && !(vxeOf s t).stopped then vxeStop t ⟨6, 6, 3, none⟩ s else s
  | .cpy t =>
    let c := cpyOf s t
    let waits (d : CpyDesc) : Bool := s.accs.any (fun a => match a.origin with | .cpy t' no _ _ => t' == t && no == d.no | _ => false)
    match (if tileRunning s t && !c.stopped then c.decoded.find? (fun d => d.started && waits d) else none) with
    | some d =>
      cpyStop t d.no d.off (d.row - 1) 8 0 (6, 4) none (match tileCtx s t with | some c => scrambleRow t c d.no (d.row - 1) s | none => s)
    | none => s
  | .hostQueue f q =>
    match qOf s (qKey f q) with
    | some x =>
      let running := !x.bound || decide ((ctxOf s x.ctx).state = .running)
      if x.error || !running then s
      else
        let r := blankFault s 6 5 0x22 4
        raise (if x.bound then namesCtx s x.ctx r else r) (setQ (qKey f q) { x with error := true } s)
    | none => s

/-- HANG's effect: the record names the handshake by its unit and an internal cause. -/
def hang (unit die cause : Nat) (s : State) : State := raise (withDetail (cause % 256) (blankFault s 9 1 unit die)) s

/-! ### The die-to-die edges (R32, R33) -/

/-- FLIT_CRC_FAILURE's effect: the flit is resent from die d's end; only its arrival changes. -/
def flitCrcFailure (e d : Nat) (s : State) : State := if edgeAt e d then regCount (aDnet d e 0x18) 1 s else s

/-- EDGE_LANE's effect: a lane of an edge that is UP fails while the module runs. The record names the compute die at the end; the one of the lower number
where both ends are compute dies (DESIGN CHOICE: log entry 124). -/
def edgeLane (e : Nat) (s : State) : State :=
  match (List.range 4).filter (edgeAt e) with
  | [] => s
  | d :: r =>
    if fld (regRaw s (aDnet d e 0)) 2 0 ≠ 2 then s
    else
      let s := (d :: r).foldl (fun s k => regMod (aDnet k e 0) (fun v => setFld (setFld v 19 16 3) 2 0 3) s) s
      raise (blankFault s 8 3 0x14 d) s

/-! ### The decision and phases 1 and 2 (R495, R497, R503) -/

/-- A write of FLT_CMD: none where OP is reserved. -/
def fltCmdWrite (v : Nat) (s : State) : Option State :=
  if fld v 3 0 = 1 then some (raise (blankFault s 10 8 0x2C 4) s) else none

/-- Dies whose HBM is lost with those of a list (R333). -/
def lostDies (s : State) (l : List Nat) : List Nat := if l = [] then [] else if s.legend.uniform then [0, 1, 2, 3] else l

/-- First address of a dump slot. -/
def slotBase (s : State) (i : Nat) : Nat := fld (regRaw s (aFlt (0x28 + 8 * i))) 39 26 <<< 26

/-- A slot lies in a domain that the reset loses, or that has a stack that is not READY (R325). -/
def slotLost (s : State) (lost : List Nat) (i : Nat) : Bool :=
  let d := slotBase s i / 0x3C00000000
  (lostDies s lost).contains d ||
    (List.range 20).any (fun k => (s.legend.uniform || decide (k / 5 = d)) && decide (stackState s k ≠ 1))

/-- The slot of a dump: the one not written last, unless it is lost; none when both are. -/
def dumpSlot (s : State) (lost : List Nat) : Option Nat :=
  let last := fld (regRaw s (aFlt 8)) 32 32
  if !slotLost s lost (1 - last) then some (1 - last) else if !slotLost s lost last then some last else none

/-- Phases 1 and 2: the cause is copied, the Datum trigger and the abort go out, the module freezes; then the dump begins, or is not
written. -/
def resetBegin (x : Reset) (s : State) : State :=
  let s := regPutWords (aFlt 0x100) (words64 x.cause.toNat 8) s
  let s := sendFlood 2 x.t0 0 0 true (trigger 6 (x.t0 + 64) s)
  let s := regMod (aFlt 8) (fun v => setBit (setFld v 31 0 (satAdd 32 (fld v 31 0) 1)) 36 (!x.lost.isEmpty)) s
  let s := atlCount 0x4C 1 s
  match dumpSlot s x.lost with
  | some i => { s with rst := some { x with phase := 3, dump := some i, start := now s } }
  | none => regFld (aFlt 8) 35 34 3 { s with rst := some { x with phase := 4 } }

/-! ### The dump (R497–R499) -/

/-- Records of the store in SEQ order, oldest first. -/
def storedRecords (s : State) : List Nat :=
  let st := regRaw s (aFlt 0)
  let next := fld st 15 0
  let idx := if bit st 16 then (List.range 256).map (fun i => (next + i) % 256) else List.range next
  idx.map (fun i => (List.range 8).foldl (fun v w => v + regRaw s (aFlt (0x4000 + 64 * i + 8 * w)) <<< (64 * w)) 0)

/-- Lines of tile t that records of the store name, oldest first, at most 64. -/
def namedLines (s : State) (t : Nat) : List Nat :=
  let hits := (storedRecords s).filterMap (fun v =>
    if bit v 127 && decide (fld v 115 104 = ownDev s) then
      match spdOf (fld v 103 64) with
      | some (t', o) => if t' = t then some (o / 64 * 64) else none
      | none => none
    else none)
  (hits.foldl (fun l o => if l.contains o then l else l ++ [o]) []).take 64

/-- A steward's state as the dump lists it (DEDUCED: log entry 28). -/
def stewardDump (s : State) (t n : Nat) : List Byte :=
  let x := stOf s t n
  ((List.range 31).map (fun i => gprOf x (i + 1)) ++ [x.pc.toNat] ++ csrOrder.map (fun k => (csrRead s t n k).1)).flatMap (toBytes 8)

/-- 64-bit registers of n bytes from an address. -/
def regBytes (s : State) (a n : Nat) : List Byte := (List.range (n / 8)).flatMap (fun i => toBytes 8 (regRaw s (a + 8 * i)))

/-- Vector registers, mask registers and entry slots of tile t. -/
def vectorDump (s : State) (t : Nat) : List Byte :=
  let v := vxeOf s t
  (List.range 32).flatMap (fun i => toBytes 512 (tgetD 0#4096 v.vreg i).toNat)
    ++ (List.range 8).flatMap (fun i => toBytes 16 (tgetD 0#128 v.mreg i).toNat)
    ++ (List.range 4).flatMap (fun i => toBytes 32 ((slotOf s t i).getD 0))

/-- A part of the dump: unit, die, tile, offset in the slot, bytes, and which of its lines carry the poison pattern. -/
structure DumpPart where
  unit : Nat
  die  : Nat
  tile : Option Nat
  off  : Nat
  data : List Byte
  bad  : List Nat
  deriving DecidableEq, Repr

/-- The part of directory entry i (DEDUCED: log entry 28): the six die and edge windows, then each tile's parts in the order of its section. -/
def dumpPart (s : State) (i : Nat) : DumpPart :=
  if i < 6 then
    let base := if i < 4 then aDat (0x10000 + i * 0x10000) else aDat (0x50000 + (i - 4) * 0x10000)
    { unit := 0x2A, die := i, tile := none, off := 0x10000 + i * 0x10000, data := regBytes s base 0x10000, bad := [] }
  else
    let t := (i - 6) / 5
    let o := 0x100000 + t * 0x40000
    let part (unit off : Nat) (d : List Byte) (bad : List Nat) : DumpPart :=
      { unit := unit, die := tileDie t, tile := some t, off := o + off, data := d, bad := bad }
    match (i - 6) % 5 with
    | 0 =>
      let ls := namedLines s t
      let bad (l : Nat) : Bool := (tileOf s t).eccBad.any (fun w => w * 8 / 64 * 64 == l)
      part 7 0 (spdRead s t 0 0x20000 ++ fitBytes 0x1000 (ls.flatMap (fun l => spdRead s t l 64)) ++ fitBytes 0x200 (ls.flatMap (toBytes 8)))
        (((List.range 2048).filter (fun k => bad (64 * k))) ++ ((List.range ls.length).filter (fun k => bad (ls.getD k 0))).map (· + 2048))
    | 1 => part 1 0x21400 (stewardDump s t 0) []
    | 2 => part 2 0x21800 (stewardDump s t 1) []
    | 3 => part 0x2A 0x22000 (regBytes s (aTile t 8 0) 0x1000) []
    | _ => part 5 0x23000 (vectorDump s t) []

/-- Directory entry of a part. -/
def dumpEntry (s : State) (p : DumpPart) (len status : Nat) : List Byte :=
  let bad := (p.bad.filter (fun l => decide (64 * l < len))).length
  toBytes 32 (p.unit + (match p.tile with | some t => t <<< 8 + 2 ^ 15 | none => 0) + p.die <<< 16 + status <<< 20 + bad <<< 32
    + p.off <<< 64 + len <<< 96 + now s <<< 128)

/-- Part i is written into the slot at base, with its directory entry: whole, or up to where a read was not answered, or not at all. -/
def writePart (before : State) (base limit i : Nat) (bad : List (Nat × Nat)) (s : State) : State :=
  let p := dumpPart before i
  let (len, status) := if limit ≤ i then (0, 2) else match bad.find? (fun b => b.1 = i) with
    | some b => (min b.2 p.data.length, 1)
    | none => (p.data.length, 0)
  let s := ownWrite dieE0 16 (base + p.off) (p.data.take len) s
  let s := { s with poison := (p.bad.filter (fun l => decide (64 * l < len))).foldl (fun l k => sinsert (base + p.off + 64 * k) l) s.poison }
  ownWrite dieE0 16 (base + 0x1000 + 32 * i) (dumpEntry before p len status) s

/-- The dump ends: parts before `limit` were begun; the store, the header and FLT_RESET_INFO are written. -/
def dumpEnd (limit : Nat) (expired : Bool) (x : Reset) (s : State) : State :=
  match x.dump with
  | none => s
  | some slot =>
    let base := slotBase s slot
    let before := s
    let s := { s with poison := s.poison.filter (fun l => decide (l < base ∨ base + 0x4000000 ≤ l)) }
    let s := (List.range 646).foldl (fun s i => writePart before base limit i x.bad s) s
    let s := ownWrite dieE0 16 (base + 0x1000 + 32 * 646) (List.replicate (0x7000 - 32 * 646) 0#8) s
    let s := ownWrite dieE0 16 (base + 0x8000) (regBytes before (aFlt 0x4000) 0x4000) s
    let info := regRaw s (aFlt 8)
    let steps := (List.range 16).foldl (fun v c => v + stepOf before c <<< (64 * c)) 0
    let free := x.nonFree.foldl (fun v c => setBit v c true) 0
    let hdr := 0x504D5544 + 1 <<< 32 + 646 <<< 48 + x.start <<< 64 + now s <<< 128 + fld info 31 0 <<< 192 + (!expired).toNat <<< 224
      + expired.toNat <<< 225 + x.cause.toNat <<< 256 + steps <<< 768 + free <<< 1792
    let s := ownWrite dieE0 16 base (toBytes 4096 hdr) s
    let status := if expired || !x.bad.isEmpty then 2 else 1
    regMod (aFlt 8) (fun v => setFld (setFld v 32 32 slot) 35 34 status) { s with rst := some { x with phase := 4 } }

/-- DUMP_READ_TIMEOUT's effect: parts before this one are done; of this one `done` bytes were read. -/
def dumpReadTimeout (part done : Nat) (s : State) : State :=
  match s.rst with
  | some x =>
    if x.phase = 3 ∧ x.reached ≤ part then { s with rst := some { x with reached := part + 1, bad := x.bad ++ [(part, done)] } } else s
  | none => s

/-- DUMP_EXPIRY's effect: 250 ms after phase 2, parts from `begun` on were not begun. -/
def dumpExpiry (begun : Nat) (s : State) : State :=
  match s.rst with
  | some x => if x.phase = 3 ∧ x.reached ≤ begun then dumpEnd begun true x (advanceTo (x.start + 250000000) s) else s
  | none => s

/-- DUMP_COMPLETE's effect. -/
def dumpComplete (s : State) : State :=
  match s.rst with
  | some x => if x.phase = 3 then dumpEnd 646 false x s else s
  | none => s

/-- WRITE_BACK_BUDGET's effect (R332, Table 10-5b): the die's domain is lost. -/
def writeBackBudget (d : Nat) (s : State) : State :=
  match s.rst with
  | some x => if x.phase = 4 ∨ x.phase = 5 then { s with rst := some { x with lost := sinsert d x.lost } } else s
  | none => s

/-! ### Register writes (R481, R502) -/

/-- A write of a register of the FLT window by the Compass firmware, or of its W1C bits: none where the value is refused. -/
def fltWrite (off v : Nat) (s : State) : Option State :=
  if off = 0x38 then fltCmdWrite v s
  else if off = 0x10 then some (regMod (aFlt 0x10) (fun x => Nat.land x (0xFFFFFFFF - fld v 15 0)) s)
  else if 0x18 ≤ off ∧ off ≤ 0x24 then (if v = 0 then none else some (regPut (aFlt off) v s))
  else if 0x2480 ≤ off ∧ off < 0x2580 then some s
  else match regSpec (aFlt off) with
    | some r => some (regPut (aFlt off) (Nat.land v r.rw) s)
    | none => none

/-! ### Commands -/

def execFaultRecord (s : State) : Host.Outcome State Fault Refusal := actPowered true s faultRecord

def execWaitWatchdog (u : WaitUnit) (s : State) : Host.Outcome State Fault Refusal := act (unitOk u) s (waitWatchdog u)
def execHang (unit die cause : Nat) (s : State) : Host.Outcome State Fault Refusal :=
  actPowered (decide (unit < 256 ∧ die < 6)) s (hang unit die cause)
def execFlitCrcFailure (edge die : Nat) (s : State) : Host.Outcome State Fault Refusal :=
  act (decide (edge < 8 ∧ die < 4)) s (flitCrcFailure edge die)
def execEdgeLane (edge : Nat) (s : State) : Host.Outcome State Fault Refusal := act (decide (edge < 8)) s (edgeLane edge)
def execDumpReadTimeout (part done : Nat) (s : State) : Host.Outcome State Fault Refusal :=
  actPowered (decide (part < 646)) s (dumpReadTimeout part done)
def execDumpExpiry (begun : Nat) (s : State) : Host.Outcome State Fault Refusal :=
  actPowered (decide (begun < 647)) s (dumpExpiry begun)
def execDumpComplete (s : State) : Host.Outcome State Fault Refusal := actPowered true s dumpComplete
def execWriteBackBudget (die : Nat) (s : State) : Host.Outcome State Fault Refusal := actPowered (dieOk die) s (writeBackBudget die)

end Sys2Proof.Machine
end

