-- ==== Sys2Proof/Machine/Power.lean ====
section
/-!
DEFINITION. Power domains, rails, the power cap, die temperature, clocks, and the ends of a module's power (R548–R559, R565, R566).
-/

namespace Sys2Proof.Machine

/-! ### Tile-pair domains (R548, R549) -/

/-- The domain, tiles of bit 16d + k of PWRC_TILE_EN. -/
def pairDomain (i : Nat) : Nat := 18 * (i / 16) + i % 16
def pairTiles (i : Nat) : List Nat := (List.range 128).filter (fun t => decide (tileDomain t = pairDomain i))

/-- Neither tile of pair i belongs to a context, and no CREATE that waits names one. -/
def pairFree (s : State) (i : Nat) : Bool :=
  (pairTiles i).all (fun t => (tileCtx s t).isNone && s.ctxQueue.all (fun x => decide (fld x.cmd 3 0 ≠ 1) || (match createOf x s with | some (c, s') => !bit (ctxTiles s' c) t | none => true)))

/-- Domain i of PWRC_DOMAIN reads on or off. -/
def setDomain (i : Nat) (on : Bool) (s : State) : State :=
  if i < 64 then regMod (aPwrc 0x08) (fun v => setBit v i on) s else regMod (aPwrc 0x10) (fun v => setBit v (i - 64) on) s

/-- A write of PWRC_TILE_EN is performed: none where a bit is cleared that may not be. Each changed bit starts a switch. -/
def enPerform (v : Nat) (s : State) : Option State :=
  let old := regRaw s (aPwrc 0x18)
  let v := v % 2 ^ 64
  let changed := (List.range 64).filter (fun i => bit old i != bit v i)
  if changed.all (fun i => bit v i || pairFree s i) then
    some (changed.foldl (fun s i =>
      { s with power := { s.power with
          switching := s.power.switching.filter (fun x => x.1 ≠ pairDomain i) ++ [(pairDomain i, bit v i)] } }) (regPut (aPwrc 0x18) v s))
  else none

/-- A survey step is in progress on a tile of a pair whose bit the value clears. -/
def enHeld (s : State) (v : Nat) : Bool :=
  (List.range 64).any (fun i => bit (regRaw s (aPwrc 0x18)) i && !bit v i && (pairTiles i).any (fun t => (tileOf s t).ports.walk != 0))

/-- A write of PWRC_TILE_EN: it lets the survey steps of the pairs it clears finish, behind the writes that already wait (R549, R298;
DEDUCED: log entry 130). -/
def tileEnWrite (who : Who) (v : Nat) (s : State) : Option State :=
  if s.power.enWait = [] ∧ (enHeld s v = false ∨ (enPerform v s).isNone) then enPerform v s
  else some { s with power := { s.power with enWait := s.power.enWait ++ [(who, v)] } }

/-- Waiting writes of PWRC_TILE_EN go on, in order. -/
def enDrain : Nat → State → State
  | 0, s => s
  | n + 1, s =>
    match s.power.enWait with
    | [] => s
    | (who, v) :: l =>
      if enHeld s v then s
      else
        let s := { s with power := { s.power with enWait := l } }
        enDrain n (match enPerform v s with | some s => s | none => accessFault who 5 (aPwrc 0x18) s)
def enNext (s : State) : State := enDrain s.power.enWait.length s

/-- A tile whose domain comes on: its registers and units as at power-on, the two Legend fields as they were, its scratchpad zero (R293;
DEDUCED: log entry 29). Its router lies in another domain (R548). -/
def tileFresh (t : Nat) (s : State) : State :=
  let s := regClear (aTile t 0 0) (aTile t 7 0x100) s
  let s := regClear (aTile t 7 0x108) (aTile t 7 0x900) s
  let s := regClear (aTile t 7 0x908) (aTile t 10 0) s
  { s with
    spd := memZero s.spd (t * spdSize) ((t + 1) * spdSize)
    tiles := tdel s.tiles t
    stewards := tdel (tdel s.stewards (2 * t)) (2 * t + 1) }

/-- DOMAIN_SWITCH_END's effect: pair k of die d reaches on or off. -/
def domainSwitchEnd (d k : Nat) (s : State) : State :=
  let i := 18 * d + k
  match s.power.switching.find? (fun x => x.1 = i) with
  | none => s
  | some (_, on) =>
    let s := { s with power := { s.power with switching := s.power.switching.filter (fun x => x.1 ≠ i) } }
    let s := if on then (pairTiles (16 * d + k)).foldl (fun s t => tileFresh t s) s else s
    setDomain i on s

/-! ### Rails and the cap (R552–R555) -/

/-- A supply or clock fault: its unit, and the cause in DETAIL. -/
def supplyFault (unit cause : Nat) (s : State) : State := raise (withDetail cause (blankFault s 10 6 unit 4)) s

/-- A measured voltage lies more than 50 mV or 5 % from the set-point, whichever is larger. -/
def railOut (set mv : Nat) : Bool := decide (max 1000 set < 20 * ((mv - set) + (set - mv)))

/-- One rail of a sample: the register, the count of consecutive samples out of tolerance, the fault. -/
def railSample (r : Nat) (x : RailSample) (s : State) : State :=
  let a := aPwrc (0x100 + 8 * r)
  let v := regRaw s a
  let n := if railOut (fld v 15 0) x.mV then (tget s.power.outOf r).getD 0 + 1 else 0
  let bad := x.fault || decide (3 ≤ n)
  let s := { s with power := { s.power with outOf := tset 0 s.power.outOf r n } }
  let s := regPut a (setBit (setFld (setFld v 47 32 x.mV) 63 48 x.cA) 16 (bit v 16 || bad)) s
  if bad && !bit v 16 then supplyFault 0x28 1 s else s

/-- A power in units of 10 µW as whole W: a fraction is rounded either way (DESIGN CHOICE: log entry 30). -/
def wholeWatt (p n : Nat) (s : State) : Nat × State :=
  let q := p / (100000 * n)
  if p % (100000 * n) = 0 then (q, s)
  else
    let (b, s) := freeBits 1 s
    (q + b, s)

/-- L_P after a sample of power S with the mean A = sum/n (R555). -/
def nextLevel (cap level p sum n : Nat) : Nat :=
  let limit := fld cap 11 0 * 100000
  if fld cap 23 12 * 100000 < p then min 7 (level + 2)
  else if limit * n < sum then min 7 (level + 1)
  else if sum + fld cap 31 24 * 400000 * n < limit * n ∧ 0 < level then level - 1
  else level

/-- L_T of compute die d: the level of the Legend curve for P, at least 7 from T_DIE_HARD on (R556). -/
def thermalLevel (s : State) (d : Nat) : Nat :=
  match s.power.dieTemps.getD d [] with
  | [] => 0
  | t0 :: r =>
    let p := match r[3]? with | some t4 => t0 + (t0 - t4) | none => t0
    let l := s.legend.dieCurve.foldl (fun (l : Nat) (x : Nat × Nat) => if x.1 ≤ p then x.2 else l) 0
    if s.legend.dieHard ≤ t0 then max 7 l else l

/-- PWRC_LEVEL: L_P and the level applied to each compute die. -/
def showLevels (s : State) : State :=
  let lp := s.power.level
  regPut (aPwrc 0x28) (lp + (List.range 4).foldl (fun v d => v + (max lp (thermalLevel s d)) <<< (4 + 4 * d)) 0) s

/-- RAIL_SAMPLE's effect: voltages and currents of all rails, S, A, L_P. -/
def railSamples (l : List RailSample) (s : State) : State :=
  let s := (List.range 16).foldl (fun s r => match l[r]? with | some x => railSample r x s | none => s) s
  let p := l.foldl (fun n x => n + x.mV * x.cA) 0
  let hist := (p :: s.power.samples).take 100
  let sum := hist.foldl (fun a b => a + b) 0
  let level := nextLevel (regRaw s (aPwrc 0x24)) s.power.level p sum hist.length
  let s := { s with power := { s.power with
    samples := hist
    level := level
    stepPower := s.power.stepPower.map (fun e => (e.1, (e.2.1 + p, e.2.2 + 1))) } }
  let (w, s) := wholeWatt p 1 s
  let (a, s) := wholeWatt sum hist.length s
  showLevels (regPut (aPwrc 0x20) (w % 65536 + (a % 65536) <<< 16) s)

/-- DIE_TEMPERATURE_SAMPLE's effect: the hottest sensor of C0–C3, E0, E1. -/
def dieSamples (l : List Nat) (s : State) : State :=
  let s := { s with power := { s.power with
    dieTemps := (List.range 6).map (fun d => (l.getD d 0 :: s.power.dieTemps.getD d []).take 5) } }
  let s := regPut (aPwrc 0x30) ((List.range 6).foldl (fun v d => v + (l.getD d 0 % 256) <<< (8 * d)) 0) s
  let s := showLevels s
  if l.any (fun t => decide (s.legend.dieCrit ≤ t)) then supplyFault 0x28 2 s else s

/-! ### Clocks (R559) -/

def aClkc : Nat := aGlob 0x500000

/-- REFERENCE_LOSS and SYNTHESISER_LOCK_LOSS. -/
def referenceLoss (serdes : Bool) (s : State) : State := supplyFault 0x29 3 (regMod aClkc (fun v => setBit v serdes.toNat false) s)
def lockLoss (i : Nat) (s : State) : State := supplyFault 0x29 4 (regMod aClkc (fun v => setBit v (8 + i) false) s)

/-! ### Register writes of the window (R552, R568) -/

/-- Least and greatest set-point of an adjustable rail in mV (Table 18-2). -/
def railRange (r : Nat) : Option (Nat × Nat) :=
  if r < 4 then some (650, 850) else if r = 4 then some (700, 800) else if r = 10 ∨ r = 11 then some (750, 850) else none

/-- A write by the Compass firmware, or of PWRC_TILE_EN: none where the value is refused. -/
def pwrcWrite (who : Who) (off v : Nat) (s : State) : Option State :=
  if off = 0x18 then tileEnWrite who v s
  else if off = 0x24 then (if fld v 23 12 < fld v 11 0 then none else some (regPut (aPwrc 0x24) (v % 2 ^ 32) s))
  else if 0x100 ≤ off ∧ off < 0x180 then
    match railRange ((off - 0x100) / 8) with
    | some (lo, hi) => if lo ≤ fld v 15 0 ∧ fld v 15 0 ≤ hi then some (trace 2 3 ((off - 0x100) / 8) (fld v 15 0) (regFld (aPwrc off) 15 0 v s)) else none
    | none => none
  else some s

/-! ### Power goes (R565, R566) -/

/-- Everything volatile is lost: what stays is the flash, the fuses, the straps, what went out before, and what is not the module's
(the pool's store, commands that wait). -/
def powerOff (s : State) : State :=
  { ({} : State) with
    pending := s.pending, sentPkts := s.sentPkts, sentBlks := s.sentBlks, sentHost := s.sentHost, sentRoce := s.sentRoce
    sentFrames := s.sentFrames, pool := s.pool, fuses := s.fuses
    compass := { flash := s.compass.flash }
    pins := { prsnt := s.pins.prsnt, slotId := s.pins.slotId, sbSent := s.pins.sbSent }
    nextId := s.nextId, free := s.free }

/-- SURPRISE_REMOVAL and POWER_LOSS. -/
def surpriseRemoval (s : State) : State :=
  if s.pins.pwrEn then let s := powerOff s; { s with pins := { s.pins with prsnt := false } } else s
def powerLoss (s : State) : State := if s.pins.pwrEn then powerOff s else s

/-! ### Commands -/

def execDomainSwitchEnd (die k : Nat) (s : State) : Host.Outcome State Fault Refusal :=
  actPowered (dieOk die && decide (k < 16)) s (domainSwitchEnd die k)
def execRailSample (rails : List RailSample) (s : State) : Host.Outcome State Fault Refusal :=
  actPowered (decide (rails.length = 16)) s (railSamples rails)
def execDieTemperatureSample (temps : List Nat) (s : State) : Host.Outcome State Fault Refusal :=
  actPowered (decide (temps.length = 6)) s (dieSamples temps)
def execReferenceLoss (serdes : Bool) (s : State) : Host.Outcome State Fault Refusal := actPowered true s (referenceLoss serdes)
def execSynthesiserLockLoss (i : Nat) (s : State) : Host.Outcome State Fault Refusal :=
  actPowered (decide (i < 8 ∧ i ≠ 4)) s (lockLoss i)
def execSurpriseRemoval (s : State) : Host.Outcome State Fault Refusal := actAny true s surpriseRemoval
def execPowerLoss (s : State) : Host.Outcome State Fault Refusal := actAny true s powerLoss

end Sys2Proof.Machine
end

