-- ==== Sys2Proof/Machine/RegWrite.lean ====
section
/-!
DEFINITION. The access of a register by F0, the Compass firmware or a steward: the checks of R15, R36 and Table 2-8 in one place, and the
write of every window's registers.
-/

namespace Sys2Proof.Machine

/-! ### Which register, and who (R15, R36, R60) -/

/-- The tile whose scratchpad or control block holds an address. -/
def addrTile (a : Nat) : Option Nat :=
  match spdOf a with
  | some (t, _) => some t
  | none => if tcbBase ≤ a ∧ a < tcbBase + 0x800000 then some ((a - tcbBase) / 0x10000) else none

/-- The domain of the tile that holds an address is on and not switching (R549). -/
def domainAt (s : State) (a : Nat) : Bool :=
  match addrTile a with
  | some t => domainOn s (tileDomain t) && !s.power.switching.any (fun x => x.1 == tileDomain t)
  | none => true

/-- An address at which no register starts lies within one. -/
def regNear (a : Nat) : Bool :=
  match regSpec (a / 8 * 8) with
  | some r => r.wide || decide (r.width = 64) || decide (a % 8 < 4)
  | none => (regSpec (a / 4 * 4)).isSome

/-- The register that an access of a width at an address names, or the code of class 1: 1 for a width or alignment that is not the
register's, 2 for a reserved address. -/
def regAt (s : State) (a width : Nat) : Except Nat RegSpec :=
  if !domainAt s a then .error 2
  else match regSpec a with
    | some r =>
      if r.wide then (if width = 4 ∨ (width = 8 ∧ a % 8 = 0) then .ok r else .error 1)
      else if r.width = 8 * width then .ok r else .error 1
    | none =>
      .error (if regNear a then 1 else 2)

/-- An agent is among those a register lets reach it. A steward reaches its own tile's control block only (R97). -/
def reaches (who : Who) (k : Reach) (a : Nat) : Bool :=
  match who, k with
  | .steward t _, .agents => addrTile a == some t
  | .steward t _, .context => addrTile a == some t
  | .steward _ _, _ => false
  | .compass, .nobody => false
  | .compass, .context => false
  | .compass, _ => true
  | .f0, .agents => true
  | .f0, .f0cmps => true
  | .f0, _ => false

/-- The xSPI controller, which only the Compass cores reach (R517). -/
def xspi (a : Nat) : Bool := decide (aGlob 0x2100000 ≤ a ∧ a < aGlob 0x3000000)

/-- The register an agent may access, or the code of class 1. -/
def regFor (who : Who) (write : Bool) (a width : Nat) (s : State) : Except Nat RegSpec :=
  if xspi a && who == .f0 then .error 3
  else match regAt s a width with
    | .error e => .error e
    | .ok r => if reaches who (if write then r.writes else r.reads) a then .ok r else .error 3

/-! ### The steward windows (R125, R126) -/

/-- A debug register is reached only while the steward is HALTED. -/
def debugOpen (s : State) (t n o : Nat) : Bool := decide (o < 0x100) || decide ((stOf s t n).run = .halted)

/-- A write of STn_DBG_CTL: a halted steward whose HALT is cleared goes on. STEP written while it is not HALTED, or with HALT 0, is kept until
the next halt and then cleared (DESIGN CHOICE: log entry 108). -/
def dbgCtl (v : Nat) (x : Steward) : Steward :=
  let x := { x with halt := bit v 0, stepBit := x.stepBit || bit v 1, ebreakHalt := bit v 2 }
  if x.run = .halted ∧ x.halt = false then { x with run := .running } else x

/-- A write of a register of steward n's window. STn_DBG_CSR_DATA drops the write where CSR_SEL names no CSR or a read-only one, as it reads
0 where it names none (DESIGN CHOICE: log entry 109). -/
def stWrite (t n o v : Nat) (s : State) : Option State :=
  let x := stOf s t n
  if o = 0x18 then some (setSt t n (dbgCtl v x) s)
  else if o = 0 ∨ o = 0x10 then some s
  else if x.run ≠ .halted then none
  else if o = 8 then some (setSt t n { x with pc := BitVec.ofNat 64 (setBit (aliasForm t v) 0 false) } s)
  else if o = 0x200 then some (setSt t n { x with csrSel := BitVec.ofNat 12 v } s)
  else if o = 0x208 then
    some (if csrExists x.csrSel.toNat && !csrReadOnly x.csrSel.toNat then setSt t n (csrWrite x.csrSel.toNat v x) s else s)
  else some (setSt t n (setGpr ((o - 0x100) / 8) v x) s)

/-! ### Messages (R65, R69) -/

/-- Entries of a ring between HEAD h and TAIL. -/
def mqCount (tail h depth : Nat) : Nat := (tail + 2 * depth - h % (2 * depth)) % (2 * depth)

/-- A write of a register of window 0x9000. -/
def msgWrite (t o v : Nat) (s : State) : Option State :=
  let q := (o - 0x480) / 0x20 * 0x20 + 0x480
  let base := regRaw s (aTile t 9 q)
  let cfg := regRaw s (aTile t 9 (q + 8))
  let depth := 2 ^ fld cfg 3 0
  if o < 0x480 then
    some (regMod (aTile t 9 o) (fun old => setBit (Nat.land v (mask 43 32 + mask 22 16 + 2)) 0 (bit old 0 && !bit v 0)) s)
  else if o = q then
    let b := Nat.land v (mask 22 6)
    if bit cfg 8 && decide (b ≠ base) then none else some (regPut (aTile t 9 o) b s)
  else if o = q + 8 then
    let c := Nat.land v 0x10F
    if bit cfg 8 && decide (fld c 3 0 ≠ fld cfg 3 0) then none
    else if bit c 8 && !(decide (3 ≤ fld c 3 0 ∧ fld c 3 0 ≤ 8) && decide (base + 64 * 2 ^ fld c 3 0 ≤ spdSize)) then none
    else some (regPut (aTile t 9 o) c s)
  else if o = q + 0x10 then
    let h := fld v 8 0
    let tail := regRaw s (aTile t 9 (q + 0x18))
    if 2 * depth ≤ h ∨ depth < mqCount tail h depth then none else some (regPut (aTile t 9 o) h s)
  else some s

/-! ### The other windows -/

/-- What a write of the access types of Table 0-4 leaves of a register. -/
def accessTypes (r : RegSpec) (old v : Nat) : Nat :=
  let kept := Nat.xor (2 ^ 64 - 1) (Nat.lor r.rw (Nat.land v r.w1c))
  Nat.lor (Nat.lor (Nat.land v r.rw) (Nat.land old kept)) (Nat.land v r.w1s)

/-- A write without any rule of its own. -/
def plainWrite (r : RegSpec) (a v : Nat) (s : State) : State := regPut a (accessTypes r (regRaw s a) v) s

/-- A write of a register of tile t's control block. -/
def tileWrite (r : RegSpec) (t w o v : Nat) (s : State) : Option State :=
  if w < 2 then stWrite t w o v s
  else if w < 4 ∧ o = 0 then maHeadWrite t (w - 2) 0 v s
  else if w < 4 ∧ o = 8 then maHeadWrite t (w - 2) 1 v s
  else if w = 6 ∧ o = 0 then cpyHeadWrite t v s
  else if w = 7 ∧ 0x800 ≤ o ∧ o < 0x900 ∧ o % 0x20 = 0 then vsCfgWriteCmd t ((o - 0x800) / 0x20) v s
  else if w = 7 ∧ 0x800 ≤ o ∧ o < 0x900 ∧ o % 0x20 = 0x10 then vsCmdWrite t ((o - 0x800) / 0x20) v s
  else if w = 9 then msgWrite t o v s
  else some (plainWrite r (aTile t w o) v s)

/-- A write of a register of die d's block. -/
def dieWrite (r : RegSpec) (d o v : Nat) (s : State) : Option State :=
  let k := 5 * d + (o - 0x400000) / 0x100000
  let p := (o - 0x400000) % 0x100000
  if o = 0x100004 then some (scacheCmdWrite d v s)
  else if o = 0x100020 then pinCtlWrite d v s
  else if o = 0x3F0000 ∧ v = 0 then none
  else if 0x400000 ≤ o ∧ o < 0x900000 ∧ p = 0 then
    some (if bit v 8 then regMod (aHbmc k 0) (fun x => setBit x 8 true) (quarantine k 5 s) else s)
  else if 0x400000 ≤ o ∧ o < 0x900000 ∧ 0x100 ≤ p ∧ p ≤ 0x180 then regulatorWrite k ((p - 0x100) / 8) v s
  else some (plainWrite r (aDie d o) v s)

/-- COL_Cc_QUOTA and COL_Cc_WINi (R377, R404). -/
def colWrite (c p v : Nat) (s : State) : Option State :=
  let st := (ctxOf s c).state
  if st ≠ .free ∧ st ≠ .created ∧ st ≠ .done then none
  else if p = 0 then
    let sum := (List.range 16).foldl (fun n d => n + (if d = c then fld v 18 0 else regRaw s (aCol d 0))) 0
    if 258048 < sum then none else some (regPut (aCol c 0) (fld v 18 0) s)
  else
    let v := Nat.land v (mask 63 60 + mask 57 20)
    let lo := fld v 38 20
    let hi := fld v 57 39
    let apart : Bool := [8, 0x10, 0x18, 0x20].all (fun q =>
      let w := regRaw s (aCol c q)
      decide (q = p) || !bit w 63 || decide (hi < fld w 38 20 ∨ fld w 57 39 < lo))
    if bit v 63 && !(decide (lo ≤ hi) && inPartition s c (lo <<< 21) ((hi + 1 - lo) <<< 21) && apart) then none
    else some (regPut (aCol c p) v s)

/-- A write of CMPS_REQ_CTL, CMPS_REQ or another register of the CMPS window (R518). -/
def cmpsWrite (r : RegSpec) (o v : Nat) (s : State) : Option State :=
  if o = 8 then
    if bit v 0 then
      if bit (regRaw s (aGlob 0x2000008)) 0 || s.compass.busy then none
      else some (regFld (aGlob 0x2000000) 0 0 1 (regPut (aGlob 0x2000008) 1 { s with compass := { s.compass with busy := true } }))
    else some s
  else if 0x100 ≤ o ∧ o < 0x200 ∧ s.compass.busy then none
  else some (plainWrite r (aGlob (0x2000000 + o)) v s)

/-- HOLD_IN_SERVICE, with its copies (R545, R546). -/
def holdInService (v : Nat) (s : State) : State :=
  regFld (aImg 0x58) 0 0 v (regFld (aAtl 0x10) 20 20 v (regPut (aAtl 0x14) (fld v 0 0) s))

/-- A write of a context's register by F0 or the Compass firmware (R52, R57). -/
def ctxWindow (who : Who) (c p v : Nat) (s : State) : Option State :=
  if p = 4 then some (ctxCommand { src := .reg who, ctx := c, cmd := v } s)
  else if p = 0 ∨ p = 8 ∨ p = 0x88 then some s
  else ctxRegWrite c p v s

/-- A write of a register of book b (R474). -/
def fbkWrite (r : RegSpec) (b p v : Nat) (s : State) : Option State :=
  if p = 0 then bookCtlWrite b v s
  else if p = 8 then some (bookCommand b (fld v 3 0) s)
  else if 0x10 ≤ p ∧ p < 0x58 then (if bookCfgFree s b then some (plainWrite r (aFbk b p) v s) else none)
  else some (plainWrite r (aFbk b p) v s)

/-- A write of a register of the host port (R433, R437). -/
def hostWrite (r : RegSpec) (o v : Nat) (s : State) : Option State :=
  if o = 0 then hostCfgWrite v s
  else if o = 8 then (if s.sessions = [] then some (plainWrite r (aHost 8) v s) else none)
  else if o = 0xC then some (fresetWrite v s)
  else if 0x1000 ≤ o then
    let f := (o - 0x1000) / 0x100
    let p := o % 0x100
    if p = 0 then fnCfgWrite f v s
    else if p = 4 then some s
    else if fnRegFree s f p then some (plainWrite r (aFn f p) v s) else none
  else some s

/-- A write of a register of the edge and global range. -/
def globWrite (who : Who) (r : RegSpec) (o v : Nat) (s : State) : Option State :=
  if o < 0x100000 then (if o < 0x1000 then some s else ctxWindow who ((o - 0x1000) / 0x100) (o % 0x100) v s)
  else if o < 0x200000 then fltWrite (o - 0x100000) v s
  else if o = 0x200020 ∧ (fld v 4 0 < 16 ∨ 24 < fld v 4 0) then none
  else if o = 0x300008 then datCmdWrite v s
  else if o = 0x300018 then some (datMatchWrite v s)
  else if 0x400000 ≤ o ∧ o < 0x500000 then pwrcWrite who (o - 0x400000) v s
  else if o = 0x600000 then (if fld v 15 0 < 60 then none else some (regPut (aAtl 0) (fld v 15 0) s))
  else if o = 0x600014 then some (holdInService v s)
  else if 0x1000000 ≤ o ∧ o < 0x1100000 then hostWrite r (o - 0x1000000) v s
  else if 0x1100000 ≤ o ∧ o < 0x1200000 ∧ o % 0x10000 = 0 then blwCfgWrite ((o - 0x1100000) / 0x10000) v s
  else if o = 0x1200000 ∧ v = 0 then none
  else if 0x1201000 ≤ o ∧ o < 0x1202000 ∧ o % 0x100 ≤ 0x20 then colWrite ((o - 0x1201000) / 0x100) (o % 0x100) v s
  else if 0x1401000 ≤ o ∧ o < 0x1402000 then fbkWrite r ((o - 0x1401000) / 0x100) (o % 0x100) v s
  else if 0x2000000 ≤ o then cmpsWrite r (o - 0x2000000) v s
  else some (plainWrite r (aGlob o) v s)

/-- A write of the whole register, or of an aligned 64-bit word of a wide store. -/
def unitWrite (who : Who) (r : RegSpec) (a v : Nat) (s : State) : Option State :=
  if a < dieBase then tileWrite r ((a - tcbBase) / 0x10000) ((a - tcbBase) / 0x1000 % 16) (a % 0x1000) v s
  else if a < globBase then dieWrite r ((a - dieBase) / 0x1000000) (a % 0x1000000) v s
  else globWrite who r (a - globBase) v s

/-- The write of v with a width at a register: the state it leaves, or the code of class 1 (Table 15-4) of the refusal. -/
def writeReg (who : Who) (a width v : Nat) (s : State) : Except Nat State :=
  match regFor who true a width s with
  | .error e => .error e
  | .ok r =>
    let a8 := if r.wide then a / 8 * 8 else a
    let old := regRaw s a8
    let v := v % 2 ^ (8 * width)
    let v := if r.wide && decide (width = 4) then setFld old (8 * (a % 8) + 31) (8 * (a % 8)) v else v
    match unitWrite who r a8 v s with
    | some s => .ok s
    | none => .error 5

/-- The read of a register with a width: its value with the state that has read it, or the code of the refusal. -/
def readReg (who : Who) (a width : Nat) (s : State) : Except Nat (Nat × State) :=
  match regFor who false a width s with
  | .error e => .error e
  | .ok r =>
    let t := (a - tcbBase) / 0x10000
    let n := (a - tcbBase) / 0x1000 % 16
    if a < dieBase ∧ n < 2 then
      if !(debugOpen s t n (a % 0x1000)) then .error 5
      else if a % 0x1000 = 0x208 then .ok (csrRead s t n (stOf s t n).csrSel.toNat)
      else .ok (regView s a, s)
    else if r.wide && decide (width = 4) then .ok (fld (regView s (a / 8 * 8)) (8 * (a % 8) + 31) (8 * (a % 8)), s)
    else .ok (regView s a, s)

/-! ### Writes and reads from the fabric (R47, R364) -/

/-- The tile of the packet's context whose control block holds an address. -/
def packetTile (s : State) (k : Packet) (a : Nat) : Option Nat :=
  if tcbBase ≤ a ∧ a < tcbBase + 0x800000 ∧ bit (ctxTiles s (pCtx k)) ((a - tcbBase) / 0x10000) = true then some ((a - tcbBase) / 0x10000) else none

/-- WRITE's effect: a checked write becomes an access in flight; one to a register of a tile of the context is performed as an agent of that
tile would (Table 2-8), or refused. -/
def writePacket (p : Nat) (k : Packet) (s : State) : State :=
  arriving p 0x01 k (checked p k (refuse k 2) (fun s =>
    let n := pOp k 267 256 + 1
    match packetTile s k (pAddr k) with
    | some t =>
      match writeReg (.steward t 0) (pAddr k) n (ofBytes (k.pay.take n)) s with
      | .ok s => refuse k 2 0 s
      | .error _ => refuse k 2 2 s
    | none =>
      if !pktReach s k (pAddr k) n then refuse k 2 2 s
      else
        let add (a : Nat) (d : List Byte) (s : State) : State :=
          if d = [] then s
          else (addAcc (.packet p k.hdr 0 0) (pCtx k) (BitVec.ofNat 16 (pGen k)) (gAt (ownDev s) a) (.write d) .todo s).2
        let m := if pAddr k < hbmTop then hbmTop - pAddr k else n
        add (pAddr k + m) ((k.pay.take n).drop m) (add (pAddr k) ((k.pay.take n).take m) s))) s

/-- READ's effect. -/
def readPacket (p : Nat) (k : Packet) (s : State) : State :=
  arriving p 0x03 k (checked p k (refuse k 4) (fun s =>
    let n := pOp k 267 256 + 1
    match packetTile s k (pAddr k) with
    | some t =>
      match readReg (.steward t 0) (pAddr k) n s with
      | .ok (v, s) => sendPacket (answerPacket s k 4 0 (fitBytes 64 (toBytes n v))) s
      | .error _ => refuse k 4 2 s
    | none =>
      if !pktReach s k (pAddr k) n then refuse k 4 2 s
      else (addAcc (.packet p k.hdr 0 0) (pCtx k) (BitVec.ofNat 16 (pGen k)) (gAt (ownDev s) (pAddr k)) (.read n [] 0 none) .todo s).2)) s

def execWrite (p : Nat) (pkt : Packet) (s : State) : Host.Outcome State Fault Refusal := act (portOk p) s (writePacket p pkt)

def execRead (p : Nat) (pkt : Packet) (s : State) : Host.Outcome State Fault Refusal := act (portOk p) s (readPacket p pkt)

end Sys2Proof.Machine
end

