-- ==== Sys2Proof/Machine/Rv.lean ====
section
/-!
DEFINITION. RV64IMAC without state (R89, R103): immediates, the arithmetic of each instruction, and the instruction that a compressed one
stands for. Values are numbers below 2^64; none means that the encoding is no instruction.
-/

namespace Sys2Proof.Machine

/-- A value of w bits sign-extended to 64. -/
def sx (w v : Nat) : Nat := wrap 64 (sgn w v)
/-- A signed number as a 64-bit value. -/
def u64 (i : Int) : Nat := wrap 64 i
/-- A 64-bit value as a signed number. -/
def s64 (v : Nat) : Int := sgn 64 v

/-! ### Fields and immediates -/

def rvOp (w : Nat) : Nat := fld w 6 0
def rvRd (w : Nat) : Nat := fld w 11 7
def rvF3 (w : Nat) : Nat := fld w 14 12
def rvRs1 (w : Nat) : Nat := fld w 19 15
def rvRs2 (w : Nat) : Nat := fld w 24 20
def rvF7 (w : Nat) : Nat := fld w 31 25
def immI (w : Nat) : Nat := sx 12 (fld w 31 20)
def immS (w : Nat) : Nat := sx 12 (fld w 31 25 <<< 5 + fld w 11 7)
def immB (w : Nat) : Nat := sx 13 (fld w 31 31 <<< 12 + fld w 7 7 <<< 11 + fld w 30 25 <<< 5 + fld w 11 8 <<< 1)
def immU (w : Nat) : Nat := sx 32 (fld w 31 12 <<< 12)
def immJ (w : Nat) : Nat := sx 21 (fld w 31 31 <<< 20 + fld w 19 12 <<< 12 + fld w 20 20 <<< 11 + fld w 30 21 <<< 1)

/-- a + b modulo 2^64. -/
def add64 (a b : Nat) : Nat := (a + b) % 2 ^ 64
def sub64 (a b : Nat) : Nat := (a + 2 ^ 64 - b % 2 ^ 64) % 2 ^ 64

/-! ### Integer arithmetic and the M extension -/

/-- Signed and unsigned division and remainder of w bits, with the results RISC-V gives for a zero divisor and an overflow. -/
def divS (w a b : Nat) : Nat :=
  let x := sgn w a
  let y := sgn w b
  if y = 0 then 2 ^ 64 - 1 else u64 (sgn w (wrap w (x.tdiv y)))
def divU (w a b : Nat) : Nat := if b % 2 ^ w = 0 then 2 ^ 64 - 1 else sx w (a % 2 ^ w / (b % 2 ^ w))
def remS (w a b : Nat) : Nat :=
  let y := sgn w b
  if y = 0 then sx w a else u64 ((sgn w a).tmod y)
def remU (w a b : Nat) : Nat := if b % 2 ^ w = 0 then sx w a else sx w (a % 2 ^ w % (b % 2 ^ w))

/-- OP: funct7, funct3. -/
def opReg (f7 f3 a b : Nat) : Option Nat :=
  let sh := b % 64
  match f7, f3 with
  | 0x00, 0 => some (add64 a b)
  | 0x20, 0 => some (sub64 a b)
  | 0x00, 1 => some (a <<< sh % 2 ^ 64)
  | 0x00, 2 => some (decide (s64 a < s64 b)).toNat
  | 0x00, 3 => some (decide (a < b)).toNat
  | 0x00, 4 => some (Nat.xor a b)
  | 0x00, 5 => some (a >>> sh)
  | 0x20, 5 => some (u64 (s64 a >>> sh))
  | 0x00, 6 => some (Nat.lor a b)
  | 0x00, 7 => some (Nat.land a b)
  | 0x01, 0 => some (a * b % 2 ^ 64)
  | 0x01, 1 => some (u64 ((s64 a * s64 b) >>> 64))
  | 0x01, 2 => some (u64 ((s64 a * (b : Int)) >>> 64))
  | 0x01, 3 => some ((a * b) >>> 64)
  | 0x01, 4 => some (divS 64 a b)
  | 0x01, 5 => some (divU 64 a b)
  | 0x01, 6 => some (remS 64 a b)
  | 0x01, 7 => some (remU 64 a b)
  | _, _ => none

/-- OP-32. -/
def opRegW (f7 f3 a b : Nat) : Option Nat :=
  let sh := b % 32
  match f7, f3 with
  | 0x00, 0 => some (sx 32 (a + b))
  | 0x20, 0 => some (sx 32 (sub64 a b))
  | 0x00, 1 => some (sx 32 (a <<< sh))
  | 0x00, 5 => some (sx 32 ((a % 2 ^ 32) >>> sh))
  | 0x20, 5 => some (u64 (sgn 32 a >>> sh))
  | 0x01, 0 => some (sx 32 (a * b))
  | 0x01, 4 => some (divS 32 a b)
  | 0x01, 5 => some (divU 32 a b)
  | 0x01, 6 => some (remS 32 a b)
  | 0x01, 7 => some (remU 32 a b)
  | _, _ => none

/-- OP-IMM of instruction w. -/
def opImm (w a : Nat) : Option Nat :=
  match rvF3 w with
  | 1 => if fld w 31 26 = 0 then opReg 0 1 a (fld w 25 20) else none
  | 5 => if fld w 31 26 = 0 then opReg 0 5 a (fld w 25 20) else if fld w 31 26 = 0x10 then opReg 0x20 5 a (fld w 25 20) else none
  | f3 => opReg 0 f3 a (immI w)

/-- OP-IMM-32. -/
def opImmW (w a : Nat) : Option Nat :=
  match rvF3 w with
  | 0 => opRegW 0 0 a (immI w)
  | 1 => if rvF7 w = 0 then opRegW 0 1 a (rvRs2 w) else none
  | 5 => if rvF7 w = 0 ∨ rvF7 w = 0x20 then opRegW (rvF7 w) 5 a (rvRs2 w) else none
  | _ => none

/-- Whether a branch of funct3 is taken. -/
def branchTaken (f3 a b : Nat) : Option Bool :=
  match f3 with
  | 0 => some (decide (a = b))
  | 1 => some (decide (a ≠ b))
  | 4 => some (decide (s64 a < s64 b))
  | 5 => some (decide (s64 b ≤ s64 a))
  | 6 => some (decide (a < b))
  | 7 => some (decide (b ≤ a))
  | _ => none

/-- Bytes of a load or store of funct3, and the value of the bytes loaded. -/
def rvWidth (f3 : Nat) : Nat := 2 ^ (f3 % 4)
def rvLoaded (f3 v : Nat) : Nat := if f3 < 4 then sx (8 * rvWidth f3) v else v

/-- What an AMO of funct5 on w bits stores. -/
def amoValue (f5 w old src : Nat) : Option Nat :=
  let a := old % 2 ^ w
  let b := src % 2 ^ w
  match f5 with
  | 0x01 => some b
  | 0x00 => some ((a + b) % 2 ^ w)
  | 0x04 => some (Nat.xor a b)
  | 0x0C => some (Nat.land a b)
  | 0x08 => some (Nat.lor a b)
  | 0x10 => some (if sgn w a ≤ sgn w b then a else b)
  | 0x14 => some (if sgn w a ≤ sgn w b then b else a)
  | 0x18 => some (min a b)
  | 0x1C => some (max a b)
  | _ => none

/-! ### Compressed instructions -/

def encR (f7 rs2 rs1 f3 rd op : Nat) : Nat := f7 <<< 25 + rs2 <<< 20 + rs1 <<< 15 + f3 <<< 12 + rd <<< 7 + op
def encI (imm rs1 f3 rd op : Nat) : Nat := (imm % 4096) <<< 20 + rs1 <<< 15 + f3 <<< 12 + rd <<< 7 + op
def encS (imm rs2 rs1 f3 : Nat) : Nat := fld imm 11 5 <<< 25 + rs2 <<< 20 + rs1 <<< 15 + f3 <<< 12 + fld imm 4 0 <<< 7 + 0x23
def encB (imm rs1 f3 : Nat) : Nat :=
  fld imm 12 12 <<< 31 + fld imm 10 5 <<< 25 + rs1 <<< 15 + f3 <<< 12 + fld imm 4 1 <<< 8 + fld imm 11 11 <<< 7 + 0x63
def encJ (imm : Nat) : Nat := fld imm 20 20 <<< 31 + fld imm 10 1 <<< 21 + fld imm 11 11 <<< 20 + fld imm 19 12 <<< 12 + 0x6F

/-- Quadrant 0. -/
def expand0 (c : Nat) : Option Nat :=
  let rd := 8 + fld c 4 2
  let rs := 8 + fld c 9 7
  let iw := fld c 12 10 <<< 3 + fld c 6 6 <<< 2 + fld c 5 5 <<< 6
  let id := fld c 12 10 <<< 3 + fld c 6 5 <<< 6
  match fld c 15 13 with
  | 0 =>
    let i := fld c 12 11 <<< 4 + fld c 10 7 <<< 6 + fld c 6 6 <<< 2 + fld c 5 5 <<< 3
    if i = 0 then none else some (encI i 2 0 rd 0x13)
  | 2 => some (encI iw rs 2 rd 0x03)
  | 3 => some (encI id rs 3 rd 0x03)
  | 6 => some (encS iw rd rs 2)
  | 7 => some (encS id rd rs 3)
  | _ => none

/-- Quadrant 1. -/
def expand1 (c : Nat) : Option Nat :=
  let rd := fld c 11 7
  let rs := 8 + fld c 9 7
  let r2 := 8 + fld c 4 2
  let i6 := sx 6 (fld c 12 12 <<< 5 + fld c 6 2)
  let sh := fld c 12 12 <<< 5 + fld c 6 2
  let ib := sx 9 (fld c 12 12 <<< 8 + fld c 11 10 <<< 3 + fld c 6 5 <<< 6 + fld c 4 3 <<< 1 + fld c 2 2 <<< 5)
  match fld c 15 13 with
  | 0 => some (encI i6 rd 0 rd 0x13)
  | 1 => if rd = 0 then none else some (encI i6 rd 0 rd 0x1B)
  | 2 => some (encI i6 0 0 rd 0x13)
  | 3 =>
    if i6 = 0 then none
    else if rd = 2 then
      some (encI (sx 10 (fld c 12 12 <<< 9 + fld c 6 6 <<< 4 + fld c 5 5 <<< 6 + fld c 4 3 <<< 7 + fld c 2 2 <<< 5)) 2 0 2 0x13)
    else some ((i6 % 2 ^ 20) <<< 12 + rd <<< 7 + 0x37)
  | 4 =>
    match fld c 11 10 with
    | 0 => some (encI sh rs 5 rs 0x13)
    | 1 => some (encI (0x400 + sh) rs 5 rs 0x13)
    | 2 => some (encI i6 rs 7 rs 0x13)
    | _ =>
      match fld c 12 12, fld c 6 5 with
      | 0, 0 => some (encR 0x20 r2 rs 0 rs 0x33)
      | 0, 1 => some (encR 0 r2 rs 4 rs 0x33)
      | 0, 2 => some (encR 0 r2 rs 6 rs 0x33)
      | 0, _ => some (encR 0 r2 rs 7 rs 0x33)
      | _, 0 => some (encR 0x20 r2 rs 0 rs 0x3B)
      | _, 1 => some (encR 0 r2 rs 0 rs 0x3B)
      | _, _ => none
  | 5 =>
    some (encJ (sx 12 (fld c 12 12 <<< 11 + fld c 11 11 <<< 4 + fld c 10 9 <<< 8 + fld c 8 8 <<< 10 + fld c 7 7 <<< 6 + fld c 6 6 <<< 7
      + fld c 5 3 <<< 1 + fld c 2 2 <<< 5)))
  | 6 => some (encB ib rs 0)
  | _ => some (encB ib rs 1)

/-- Quadrant 2. -/
def expand2 (c : Nat) : Option Nat :=
  let rd := fld c 11 7
  let r2 := fld c 6 2
  match fld c 15 13 with
  | 0 => some (encI (fld c 12 12 <<< 5 + r2) rd 1 rd 0x13)
  | 2 => if rd = 0 then none else some (encI (fld c 12 12 <<< 5 + fld c 6 4 <<< 2 + fld c 3 2 <<< 6) 2 2 rd 0x03)
  | 3 => if rd = 0 then none else some (encI (fld c 12 12 <<< 5 + fld c 6 5 <<< 3 + fld c 4 2 <<< 6) 2 3 rd 0x03)
  | 4 =>
    if fld c 12 12 = 0 then
      if r2 = 0 then (if rd = 0 then none else some (encI 0 rd 0 0 0x67)) else some (encR 0 r2 0 0 rd 0x33)
    else if r2 = 0 then (if rd = 0 then some 0x00100073 else some (encI 0 rd 0 1 0x67))
    else some (encR 0 r2 rd 0 rd 0x33)
  | 6 => some (encS (fld c 12 9 <<< 2 + fld c 8 7 <<< 6) r2 2 2)
  | 7 => some (encS (fld c 12 10 <<< 3 + fld c 9 7 <<< 6) r2 2 3)
  | _ => none

/-- The instruction that a compressed one stands for. -/
def expand (c : Nat) : Option Nat :=
  match fld c 1 0 with
  | 0 => expand0 c
  | 1 => expand1 c
  | _ => expand2 c

/-! ### Which command an instruction belongs to -/

/-- The instructions that are commands of their own; `base` stands for all others and for what is no instruction. -/
inductive RvRow where
  | base | fenceI | lr | sc | amo | mret | wfi | ecall | ebreak
  | msend | mrecv | qpush | qpop | issue | waitc | vxrun | fenceL | fenceD | fenceF | fenceG | waypoint | pmark | datum
  deriving DecidableEq, Repr

/-- Rows of custom-0 (Table 3-2): funct3, funct7, and the operand fields that must be x0. -/
def customRow (w : Nat) : RvRow :=
  let rd0 := decide (rvRd w = 0)
  let r10 := decide (rvRs1 w = 0)
  let r20 := decide (rvRs2 w = 0)
  match rvF3 w, rvF7 w with
  | 0, 0 => .msend
  | 0, 1 => .mrecv
  | 0, 2 => .qpush
  | 0, 3 => .qpop
  | 1, 0 => .issue
  | 1, 1 => .waitc
  | 1, 2 => .vxrun
  | 2, 0 => if rd0 && r10 && r20 then .fenceL else .base
  | 2, 1 => if rd0 && r10 && r20 then .fenceD else .base
  | 2, 2 => if rd0 && r10 && r20 then .fenceF else .base
  | 2, 3 => if rd0 && r10 && r20 then .fenceG else .base
  | 3, 0 => if rd0 && r20 then .waypoint else .base
  | 3, 1 => if rd0 && r20 then .pmark else .base
  | 3, 2 => if rd0 && r10 && r20 then .datum else .base
  | _, _ => .base

/-- The row of an instruction. -/
def rvRow (w : Nat) : RvRow :=
  match rvOp w with
  | 0x0F => if rvF3 w = 1 then .fenceI else .base
  | 0x2F =>
    if rvF3 w = 2 ∨ rvF3 w = 3 then
      if fld w 31 27 = 2 then (if rvRs2 w = 0 then .lr else .base)
      else if fld w 31 27 = 3 then .sc
      else if (amoValue (fld w 31 27) 64 0 0).isSome then .amo else .base
    else .base
  | 0x73 =>
    if w = 0x00000073 then .ecall else if w = 0x00100073 then .ebreak else if w = 0x30200073 then .mret
    else if w = 0x10500073 then .wfi else .base
  | 0x0B => customRow w
  | _ => .base

end Sys2Proof.Machine
end

