-- ==== Sys2Proof/Machine/Steward.lean ====
section
/-!
DEFINITION. The stewards' standard instructions: fetch, halting, loads and stores, LR, SC and AMO, CSR accesses, traps and the return from
one (R89–R102, R118–R126). An instruction is one step; a waiting one is a step that may be tried again.
-/

namespace Sys2Proof.Machine

/-! ### Fetch (R91, R92, R95, R97) -/

/-- A fetched instruction: as 32 bits, its length, and its own bits; or the access fault at an address, or an uncorrectable error. -/
inductive Fetched where
  | word (w : Option Nat) (len raw : Nat)
  | fault (addr : Nat)
  | ue (off : Nat)
  deriving DecidableEq, Repr

/-- Lines of the 16 KiB instruction cache (R91). -/
def icacheLines : Nat := 256

/-- A filled line goes into the cache; into a full one in place of a line that the spec does not choose (DESIGN CHOICE: log entry 10). -/
def icacheFill (t n l : Nat) (d : List Byte) (s : State) : State :=
  let c := (stOf s t n).icache
  if (tget c l).isSome ∨ c.length < icacheLines then modSt t n (fun x => { x with icache := tput x.icache l d }) s
  else
    let (k, s) := freeBits 8 s
    modSt t n (fun x => { x with icache := tput (x.icache.eraseIdx k) l d }) s

/-- A line of code as the instruction cache gives it, with the state that has read it: a cached line that memory no longer equals is either
read or replaced (DESIGN CHOICE: log entry 10). An error is the offset of an uncorrectable word that the fill meets. -/
def codeLine (t n off : Nat) (s : State) : Except Nat (List Byte) × State :=
  let l := off / 64 * 64
  let x := stOf s t n
  let cur := spdRead s t l 64
  let fill (s : State) : Except Nat (List Byte) × State :=
    match firstUe s t [(l, 64)] with
    | some w => (.error w, s)
    | none => (.ok cur, icacheFill t n l cur s)
  match tget x.icache l with
  | none => fill s
  | some old =>
    if old = cur then (.ok old, s)
    else
      let (b, s) := freeBits 1 s
      if b = 0 then (.ok old, s) else fill s

/-- A fetch of two bytes from an short address is allowed. -/
def fetchAllowed (x : Steward) (a : Nat) : Bool := decide (a + 2 ≤ spdSize) && pmpAllows x x.mode .fetch a 2

/-- Fetch at the program counter. -/
def stFetch (t n : Nat) (s : State) : Fetched × State :=
  let x := stOf s t n
  let pc := x.pc.toNat
  if !fetchAllowed x pc then (.fault pc, s)
  else match codeLine t n pc s with
    | (.error u, s) => (.ue u, s)
    | (.ok l, s) =>
      let lo := ofBytes ((l.drop (pc % 64)).take 2)
      if lo % 4 ≠ 3 then (.word (expand lo) 2 lo, s)
      else if !fetchAllowed x (pc + 2) then (.fault (pc + 2), s)
      else if pc % 64 ≤ 60 then
        let w := ofBytes ((l.drop (pc % 64)).take 4)
        (.word (some w) 4 w, s)
      else match codeLine t n (pc + 2) s with
        | (.error u, s) => (.ue u, s)
        | (.ok m, s) =>
          let w := lo + 65536 * ofBytes (m.take 2)
          (.word (some w) 4 w, s)

/-! ### Issue and halt (R125, R126) -/

/-- The context runs or is held, so that a halt request may take effect. -/
def haltable (s : State) (t : Nat) : Bool :=
  match tileCtx s t with
  | some c => decide ((ctxOf s c).state = .running ∨ (ctxOf s c).state = .held)
  | none => false

/-- After a single step the steward halts again. -/
def stepEnd (t n : Nat) (stepped : Bool) (s : State) : State :=
  modSt t n (fun x => if stepped ∧ x.run = .running then { x with run := .halted, stepBit := false } else x) s

/-- Steward n of tile t executes its next instruction if that belongs to row k: f gets the instruction, its length and its own bits, and
`bad` acts on what is no instruction. A halt request takes effect instead. -/
def stRow (k : RvRow) (t n : Nat) (bad : Fetched → State → State) (f : Nat → Nat → Nat → State → State) (s : State) : State :=
  let x := stOf s t n
  let go (stepped : Bool) (s1 : State) : State :=
    match stFetch t n s1 with
    | (.word (some w) len raw, s') => if rvRow w = k then stepEnd t n stepped (f w len raw s') else s
    | (r, s') => if k = .base then stepEnd t n stepped (bad r s') else s
  match x.run with
  | .waiting => if rvRow x.waitWord.toNat = k then f x.waitWord.toNat 4 x.waitWord.toNat s else s
  | .running =>
    if x.halt && haltable s t then setSt t n { x with run := .halted, stepBit := false } s else go false s
  | .halted => if x.stepBit && haltable s t then go true (setSt t n { x with run := .running } s) else s
  | _ => s

/-- What is no instruction traps or stops (Table 3-6). -/
def stBadFetch (t n : Nat) (r : Fetched) (s : State) : State :=
  match r with
  | .word _ _ raw => stTrap t n 2 raw none s
  | .fault a => stTrap t n 1 a (some (1, 3)) s
  | .ue o => stUe t n 1 o s

/-! ### Completion -/

/-- The instruction retires: rd takes v and the next one follows. -/
def stDone (t n len rd v : Nat) (s : State) : State :=
  modSt t n (fun x => setGpr rd v { x with
    pc := x.pc + BitVec.ofNat 64 len, run := .running, waitKind := .none, send := .none, instret := x.instret + 1 }) s

/-- The instruction retires and jumps. -/
def stJump (t n rd link target : Nat) (s : State) : State :=
  modSt t n (fun x => setGpr rd link { x with pc := BitVec.ofNat 64 (aliasForm t target), instret := x.instret + 1 }) s

/-- The instruction waits (R103). -/
def stWait (t n : Nat) (k : WaitKind) (w : Nat) (s : State) : State :=
  modSt t n (fun x => { x with run := .waiting, waitKind := k, waitWord := BitVec.ofNat 32 w }) s

def illegal (t n raw : Nat) (s : State) : State := stTrap t n 2 raw none s

/-! ### What a steward addresses (Table 3-1) -/

/-- Bytes of the own scratchpad, by offset; a device address of the own control block; nothing that may be reached. -/
inductive StTarget where
  | spd (off : Nat)
  | ctl (a : Nat)
  | none
  deriving DecidableEq, Repr

def stTarget (t a n : Nat) : StTarget :=
  let v := aliasForm t a
  if v + n ≤ spdSize then .spd v
  else if 0x1000000 ≤ v ∧ v + n ≤ 0x100B000 then .ctl (aTile t 0 (v - 0x1000000))
  else .none

/-- The value of a load of funct3, or the trap or stop it meets instead. -/
def stLoadValue (t n f3 a : Nat) (s : State) : Except State (Nat × State) :=
  let x := stOf s t n
  let k := rvWidth f3
  if !pmpAllows x (dataMode x) .load a k then .error (stTrap t n 5 a (some (1, 3)) s)
  else match stTarget t a k with
    | .spd o =>
      match firstUe s t [(o, k)] with
      | some w => .error (stUe t n 2 w s)
      | none => .ok (ofBytes (spdRead (portView t (portSt n) s) t o k), portTake t (portSt n) o k s)
    | .ctl d =>
      match readReg (.steward t n) d k s with
      | .ok r => .ok r
      | .error e => .error (stTrap t n 5 a (some (1, e)) s)
    | .none => .error (stTrap t n 5 a (some (1, 3)) s)

/-- A store of k bytes of a value: the state, or the trap. -/
def stStoreTo (t n k a v : Nat) (s : State) : Except State State :=
  let x := stOf s t n
  if !pmpAllows x (dataMode x) .store a k then .error (stTrap t n 7 a (some (1, 3)) s)
  else match stTarget t a k with
    | .spd o =>
      if portMayWrite s t (portSt n) o (toBytes k v) then .ok (portStore t (portSt n) o (toBytes k v) s)
      else .error (stTrap t n 7 a (some (1, 7)) (portTake t (portSt n) o k s))
    | .ctl d =>
      match writeReg (.steward t n) d k v s with
      | .ok s => .ok s
      | .error e => .error (stTrap t n 7 a (some (1, e)) s)
    | .none => .error (stTrap t n 7 a (some (1, 3)) s)

/-- Address of a store or load. -/
def loadAddr (x : Steward) (w : Nat) : Nat := add64 (gprOf x (rvRs1 w)) (immI w)
def storeAddr (x : Steward) (w : Nat) : Nat := add64 (gprOf x (rvRs1 w)) (immS w)

/-! ### The base instructions -/

/-- CSR instructions (R94, R118, R119). -/
def stCsr (t n w len raw : Nat) (s : State) : State :=
  let x := stOf s t n
  let k := fld w 31 20
  let f3 := rvF3 w
  let src := if f3 < 4 then gprOf x (rvRs1 w) else rvRs1 w
  let writes := decide (f3 % 4 = 1 ∨ rvRs1 w ≠ 0)
  if f3 % 4 = 0 ∨ !csrExists k ∨ !csrAllowed x k ∨ (writes && csrReadOnly k) then illegal t n raw s
  else
    let (old, s) := csrRead s t n k
    let new := match f3 % 4 with
      | 1 => src
      | 2 => Nat.lor old src
      | _ => Nat.land old (2 ^ 64 - 1 - src)
    let s := stDone t n len (rvRd w) old s
    if writes then modSt t n (csrWrite k new) s else s

/-- Every instruction without a command of its own. -/
def stBase (t n w len raw : Nat) (s : State) : State :=
  let x := stOf s t n
  let pc := x.pc.toNat
  let a := gprOf x (rvRs1 w)
  let b := gprOf x (rvRs2 w)
  let rd := rvRd w
  let put (v : Option Nat) : State := match v with | some v => stDone t n len rd v s | none => illegal t n raw s
  match rvOp w with
  | 0x37 => stDone t n len rd (immU w) s
  | 0x17 => stDone t n len rd (add64 pc (immU w)) s
  | 0x6F => stJump t n rd (add64 pc len) (add64 pc (immJ w)) s
  | 0x67 => if rvF3 w = 0 then stJump t n rd (add64 pc len) (setBit (add64 a (immI w)) 0 false) s else illegal t n raw s
  | 0x63 =>
    match branchTaken (rvF3 w) a b with
    | some true => stJump t n 0 0 (add64 pc (immB w)) s
    | some false => stDone t n len 0 0 s
    | none => illegal t n raw s
  | 0x03 =>
    if rvF3 w = 7 then illegal t n raw s
    else match stLoadValue t n (rvF3 w) (loadAddr x w) s with
      | .ok (v, s) => stDone t n len rd (rvLoaded (rvF3 w) v) s
      | .error s => s
  | 0x23 =>
    if 3 < rvF3 w then illegal t n raw s
    else match stStoreTo t n (rvWidth (rvF3 w)) (storeAddr x w) b s with
      | .ok s => stDone t n len 0 0 s
      | .error s => s
  | 0x13 => put (opImm w a)
  | 0x1B => put (opImmW w a)
  | 0x33 => put (opReg (rvF7 w) (rvF3 w) a b)
  | 0x3B => put (opRegW (rvF7 w) (rvF3 w) a b)
  | 0x0F => if rvF3 w = 0 then stDone t n len 0 0 s else illegal t n raw s
  | 0x73 => stCsr t n w len raw s
  | _ => illegal t n raw s

/-- RV64_INSTRUCTION. -/
def rvInstruction (t n : Nat) (s : State) : State := stRow .base t n (stBadFetch t n) (stBase t n) s

/-- The store that the steward executes next: the device address it means, or its own address where it means none; bytes, value. -/
def nextStore (s : State) (t n : Nat) : Option (Nat × Nat × Nat) :=
  let x := stOf s t n
  match (stFetch t n s).1 with
  | .word (some w) _ _ =>
    if rvOp w = 0x23 ∧ rvF3 w ≤ 3 ∧ x.run = .running then
      let k := rvWidth (rvF3 w)
      let a := storeAddr x w
      let d := match stTarget t a k with
        | .ctl d => d
        | .spd o => spdAddr t o
        | .none => a
      some (d, k, gprOf x (rvRs2 w) % 2 ^ (8 * k))
    else none
  | _ => none

/-! ### LR, SC, AMO (R101) -/

/-- Offset of an access of k bytes that only the own scratchpad serves, or none. -/
def spdOnly (t a k : Nat) : Option Nat := match stTarget t a k with | .spd o => some o | _ => none

/-- Bytes of an atomic instruction: W 4, D 8. -/
def amoWidth (w : Nat) : Nat := if rvF3 w = 2 then 4 else 8

/-- LR: the line is reserved. -/
def stLr (t n w len _raw : Nat) (s : State) : State :=
  let x := stOf s t n
  let a := gprOf x (rvRs1 w)
  let k := amoWidth w
  if a % k ≠ 0 then stTrap t n 4 a none s
  else match (if pmpAllows x (dataMode x) .load a k then spdOnly t a k else none) with
    | none => stTrap t n 5 a (some (1, 3)) s
    | some o =>
      match firstUe s t [(o, k)] with
      | some u => stUe t n 2 u s
      | none =>
        stDone t n len (rvRd w) (sx (8 * k) (ofBytes (spdRead (portView t (portSt n) s) t o k)))
          (modSt t n (fun x => { x with resv := some (o / 64 * 64) }) (portTake t (portSt n) o k s))

/-- SC: the store happens while the reservation of its line stands; the reservation ends. -/
def stSc (t n w len _raw : Nat) (s : State) : State :=
  let x := stOf s t n
  let a := gprOf x (rvRs1 w)
  let k := amoWidth w
  if a % k ≠ 0 then stTrap t n 6 a none s
  else match (if pmpAllows x (dataMode x) .store a k then spdOnly t a k else none) with
    | none => stTrap t n 7 a (some (1, 3)) s
    | some o =>
      if x.resv = some (o / 64 * 64) ∨ portWrote s t (portSt n) o then
        if portMayWrite s t (portSt n) o (toBytes k (gprOf x (rvRs2 w))) then
          stDone t n len (rvRd w) 0 (portStore t (portSt n) o (toBytes k (gprOf x (rvRs2 w))) (modSt t n (fun x => { x with resv := none }) s))
        else stTrap t n 7 a (some (1, 7)) (portTake t (portSt n) o k s)
      else stDone t n len (rvRd w) 1 (modSt t n (fun x => { x with resv := none }) s)

/-- AMO. -/
def stAmo (t n w len raw : Nat) (s : State) : State :=
  let x := stOf s t n
  let a := gprOf x (rvRs1 w)
  let k := amoWidth w
  if a % k ≠ 0 then stTrap t n 6 a none s
  else match (if pmpAllows x (dataMode x) .load a k && pmpAllows x (dataMode x) .store a k then spdOnly t a k else none) with
    | none => stTrap t n 7 a (some (1, 3)) s
    | some o =>
      if !portMayWrite s t (portSt n) o (toBytes k 0) then stTrap t n 7 a (some (1, 7)) (portTake t (portSt n) o k s)
      else match firstUe s t [(o, k)] with
        | some u => stUe t n 2 u s
        | none =>
          let old := ofBytes (spdRead (portView t (portSt n) s) t o k)
          match amoValue (fld w 31 27) (8 * k) old (gprOf x (rvRs2 w)) with
          | some v => stDone t n len (rvRd w) (sx (8 * k) old) (portStore t (portSt n) o (toBytes k v) s)
          | none => illegal t n raw s

/-! ### System instructions -/

/-- MRET, of machine mode. -/
def stMret (t n _w _len raw : Nat) (s : State) : State :=
  let x := stOf s t n
  if x.mode = .machine then setSt t n { trapReturn t x with instret := x.instret + 1 } s else illegal t n raw s

/-- ECALL. -/
def stEcall (t n _w _len _raw : Nat) (s : State) : State :=
  stTrap t n (match (stOf s t n).mode with | .user => 8 | .machine => 11) 0 none s

/-- EBREAK: a trap, or a halt at it while EBREAK_HALT is 1. -/
def stEbreak (t n _w _len _raw : Nat) (s : State) : State :=
  let x := stOf s t n
  if x.ebreakHalt then setSt t n { x with run := .halted, halt := true, stepBit := false } s
  else stTrap t n 3 x.pc.toNat none s

/-- FENCE.I: the cache is empty. -/
def stFenceI (t n _w len _raw : Nat) (s : State) : State := stDone t n len 0 0 (modSt t n (fun x => { x with icache := [] }) s)

/-- WFI: a no-op (R93). -/
def stWfi (t n _w len _raw : Nat) (s : State) : State := stDone t n len 0 0 s

/-! ### Commands -/

/-- A row of a steward that is no base instruction. -/
def stOwn (k : RvRow) (t n : Nat) (f : Nat → Nat → Nat → Nat → Nat → State → State) (s : State) : State :=
  stRow k t n (fun _ s => s) (f t n) s

def execRv64Instruction (t n : Nat) (s : State) : Host.Outcome State Fault Refusal := act (tileOk t && decide (n < 2)) s (rvInstruction t n)
def execFenceI (t n : Nat) (s : State) : Host.Outcome State Fault Refusal := act (tileOk t && decide (n < 2)) s (stOwn .fenceI t n stFenceI)
def execLr (t n : Nat) (s : State) : Host.Outcome State Fault Refusal := act (tileOk t && decide (n < 2)) s (stOwn .lr t n stLr)
def execSc (t n : Nat) (s : State) : Host.Outcome State Fault Refusal := act (tileOk t && decide (n < 2)) s (stOwn .sc t n stSc)
def execAmo (t n : Nat) (s : State) : Host.Outcome State Fault Refusal := act (tileOk t && decide (n < 2)) s (stOwn .amo t n stAmo)
def execMret (t n : Nat) (s : State) : Host.Outcome State Fault Refusal := act (tileOk t && decide (n < 2)) s (stOwn .mret t n stMret)
def execWfi (t n : Nat) (s : State) : Host.Outcome State Fault Refusal := act (tileOk t && decide (n < 2)) s (stOwn .wfi t n stWfi)
def execEcall (t n : Nat) (s : State) : Host.Outcome State Fault Refusal := act (tileOk t && decide (n < 2)) s (stOwn .ecall t n stEcall)
def execEbreak (t n : Nat) (s : State) : Host.Outcome State Fault Refusal := act (tileOk t && decide (n < 2)) s (stOwn .ebreak t n stEbreak)

end Sys2Proof.Machine
end

