-- ==== Sys2Proof/Machine/Arbitration.lean ====
section
/-!
DEFINITION. One cycle of a scratchpad's ports and banks (R281–R292, R298, R301), the write-back of a corrected word and the survey walk's step.
A unit's own row performs its access as granted without contention, unless a cycle has performed it: then the row takes what the cycle
left (DESIGN CHOICE: log entry 21).
-/

namespace Sys2Proof.Machine

/-! ### Stewards -/

/-- The scratchpad write of the store, SC or AMO that a steward executes next: the address it uses, its offset, its bytes. -/
def nextSpdWrite (s : State) (t n : Nat) : Option (Nat × Nat × List Byte) :=
  let x := stOf s t n
  let at' (a k v : Nat) : Option (Nat × Nat × List Byte) :=
    if pmpAllows x (dataMode x) .store a k then (spdOnly t a k).map (fun o => (a, o, toBytes k v)) else none
  match x.run, (stFetch t n s).1 with
  | .running, .word (some w) _ _ =>
    let a := gprOf x (rvRs1 w)
    let b := gprOf x (rvRs2 w)
    match rvRow w with
    | .base => if rvOp w = 0x23 ∧ rvF3 w ≤ 3 then at' (storeAddr x w) (rvWidth (rvF3 w)) b else none
    | .sc =>
      if a % amoWidth w = 0 then (at' a (amoWidth w) b).filter (fun p => x.resv == some (p.2.1 / 64 * 64)) else none
    | .amo =>
      if a % amoWidth w = 0 then
        match spdOnly t a (amoWidth w) with
        | some o => match amoValue (fld w 31 27) (8 * amoWidth w) (ofBytes (spdRead s t o (amoWidth w))) b with
          | some v => at' a (amoWidth w) v
          | none => none
        | none => none
      else none
    | _ => none
  | _, _ => none

/-- A write of steward n's agent is the write of its next instruction, and an inbound access comes in its turn; other agents' requests are what they
present. -/
def agentPresents (s : State) (t : Nat) (a : Nat × PortHeld) : Bool :=
  match a.2.req with
  | .write o d =>
    if a.1 = 1 ∨ a.1 = 2 then (nextSpdWrite s t (a.1 - 1)).map (·.2) == some (o, d)
    else decide (a.1 ≠ 4) || !inboundEarly s t a.2.req
  | .read _ _ => true

/-! ### Inbound accesses -/

/-- A granted request of the inbound agent does its part of its access (R344, R274, R51); an uncorrectable word ends a read (R291). -/
def inboundServe (t : Nat) (r : PortReq) (s : State) : State :=
  match inboundAcc s t r with
  | none => s
  | some a =>
    match r, a.op with
    | .write _ d, .write e =>
      if e.length = d.length then accDone a 0 0 [] s
      else { s with accs := s.accs.map (fun x => if x.id = a.id then { x with addr := x.addr + d.length, op := .write (e.drop d.length) } else x) }
    | .read o n, .read m g _ _ =>
      if (firstUe s t [(o, n)]).isSome then accDone a 7 0 [] s
      else
        let g' := g ++ spdRead s t o n
        if g'.length = m then accDone a 0 0 g' s else readGoes a (spdRead s t o n) s
    | _, _ => s

/-- An inbound request that is not performed: its generation is not current (R51), or a version slot refuses its write (R274). -/
def inboundRefuse (t : Nat) (r : PortReq) (s : State) : State :=
  match inboundAcc s t r with
  | some a => if current s a.ctx a.gen then accDone a 3 0 [] s else accStale a s
  | none => s

/-- The inbound request's access belongs to a context that is gone. -/
def inboundStale (s : State) (t : Nat) (r : PortReq) : Bool :=
  match inboundAcc s t r with
  | some a => !current s a.ctx a.gen
  | none => false

/-! ### The cycle -/

/-- A request of the cycle: its port, the key it stands under, and what stands. -/
structure CycleReq where
  port : Nat
  key  : Nat
  held : PortHeld
  deriving DecidableEq, Repr

/-- What is presented in a cycle (R281–R284): the feeds, the vector engine, and one agent of XFER. -/
def presented (s : State) (t : Nat) (c : BankCycle) : List CycleReq :=
  let tl := tileOf s t
  let own := [(0, c.feedA), (1, c.feedB), (2, c.vec)].filterMap (fun p =>
    (standing tl p.1 p.2).map (fun h => (⟨p.1, p.1, h⟩ : CycleReq)))
  match xferPick tl ((xferStanding tl c.xfer).filter (agentPresents s t)) with
  | some (k, h) => own ++ [⟨3, 3 + k, h⟩]
  | none => own

/-- A request that is not performed at all: a write into a buffer that is not OPEN (R274), an access of a context that is gone (R301). -/
def cycleRefused (s : State) (t : Nat) (q : CycleReq) : Bool :=
  (q.key == portIn && inboundStale s t q.held.req)
  || (match q.held.req with
    | .write o d => decide (2 ≤ q.port) && !vsWritable s t o d.length
    | .read _ _ => false)

/-- Change the ports of a tile. -/
def modPorts (t : Nat) (f : Ports → Ports) (s : State) : State := modTile t (fun x => { x with ports := f x.ports }) s

/-- What a granted or refused request leaves for its unit's own row, in place of an older one there. -/
def leaveGot (t : Nat) (g : PortGot) (s : State) : State :=
  modPorts t (fun p => { p with
    got := p.got.filter (fun x => !(x.port == g.port && x.write == g.write && overlap x.off x.data.length g.off g.data.length)) ++ [g] }) s

/-- A refused request ends: the inbound access is answered, another unit's own row reports the refusal (R274). -/
def cycleRefuse (t : Nat) (q : CycleReq) (s : State) : State :=
  let s := modPorts t (fun p => { p with reqs := tdel p.reqs q.key }) s
  if q.key = portIn then inboundRefuse t q.held.req s
  else match q.held.req with
    | .write o d => leaveGot t ⟨q.key, o, d, true, true⟩ s
    | .read _ _ => s

/-- What the loser of a collision is told beside SPD (Table 9-2). A steward's store loses whole: STORE_COLLIDE at its address (R102). -/
def collideReport (t : Nat) (q : CycleReq) (s : State) : State :=
  if q.key = portVec then regCount (aTile t 4 0x48) 1 (regFld (aTile t 4 0) 11 11 1 s)
  else if q.key = portCpy then regFld (aTile t 6 8) 11 11 1 s
  else if q.key = portSt 0 ∨ q.key = portSt 1 then
    match nextSpdWrite s t (q.key - 4) with
    | some w => stTrap t (q.key - 4) 24 w.1 none (modPorts t (fun p => { p with reqs := tdel p.reqs q.key }) s)
    | none => s
  else s

/-- A request that loses words to others (R287, R288): it keeps what it lost; it is told and counted once. -/
def cycleLose (t : Nat) (lost : List Nat) (q : CycleReq) (s : State) : State :=
  if lost = [] ∨ q.held.told then s
  else collideReport t q (regCount (aSpd t (0x30 + 8 * q.port)) 1 (regFld (aSpd t 0) (4 + q.port) (4 + q.port) 1 s))

/-- ECC errors that the granted requests of a cycle meet (R289, R291, R292), as (port, word, what): a word that holds an uncorrectable error
shows it to every read; a partial write corrects a correctable one and is not told of the other. -/
def cycleErrors (s : State) (t : Nat) (c : BankCycle) (rs : List CycleReq) : List (Nat × Nat × EccFind) :=
  let bad := (tileOf s t).eccBad
  rs.flatMap (fun q => (heldWords q.held).filterMap (fun w =>
    let cell := (c.ecc.find? (fun e => e.1 == w)).map (·.2)
    if reqWrites q.held.req then
      (if !coversWord q.held w && !bad.contains w && cell == some .ce then some (q.port, w, .ce) else none)
    else if bad.contains w then some (q.port, w, .ue) else cell.map (fun e => (q.port, w, e))))

/-- Words in which a granted partial write meets an uncorrectable error of the cells: they stay uncorrectable (R292). -/
def cycleSpoilt (c : BankCycle) (rs : List CycleReq) : List Nat :=
  rs.flatMap (fun q => if reqWrites q.held.req then
    (heldWords q.held).filter (fun w => !coversWord q.held w && c.ecc.any (fun e => e.1 == w && e.2 == .ue)) else [])

/-- A request is granted: it is performed, and the next request of its access stands. -/
def cycleGrant (t : Nat) (q : CycleReq) (s : State) : State :=
  let s := modTile t (fun y => { y with age := tdel y.age q.port
                                        ports := { y.ports with reqs := match q.held.rest with
                                          | [] => tdel y.ports.reqs q.key
                                          | r :: l => tput y.ports.reqs q.key ⟨r, l, [], false⟩ } }) s
  let known := q.key = portIn ∧ (inboundAcc s t q.held.req).isSome
  let s := match q.held.req with
    | .write o d =>
      -- an AMO's row takes the bytes that stood before its write
      let s := if q.key = portSt 0 ∨ q.key = portSt 1 then leaveGot t ⟨q.key, o, spdRead s t o d.length, false, false⟩ s else s
      let s := endReservations t o d.length (portWrite t q.held.lost o d s)
      if known then s else leaveGot t ⟨q.key, o, d, true, false⟩ s
    | .read o n => if known ∨ q.key = portDump then s else leaveGot t ⟨q.key, o, spdRead s t o n, false, false⟩ s
  if q.key = portIn then inboundServe t q.held.req s else s

/-- A request stalls and stands (R284, R285). -/
def cycleStall (t : Nat) (q : CycleReq) (s : State) : State :=
  modTile t (fun y => { y with age := tput y.age q.port ((tget y.age q.port).getD 0 + 1)
                               ports := { y.ports with reqs := tput y.ports.reqs q.key q.held
                                                       lock := if q.port = 3 then some (q.key - 3) else y.ports.lock } })
    (regCount (aSpd t (0x10 + 8 * q.port)) 1 s)

/-- The survey walk has the banks of its region in this cycle: within a step, or at the start of one (R296, R298). -/
def cycleWalk (s : State) (t : Nat) (c : BankCycle) : Bool :=
  let w := (tileOf s t).ports.walk
  decide (0 < w ∧ w < 8) || (c.survey && decide (w = 0) && surveyActive s t)

/-- BANK_ARBITRATION's effect: refusals, collisions, grants, errors, the accesses, and a pending write-back of each bank still free. -/
def bankArbitration (t : Nat) (c : BankCycle) (s : State) : State :=
  let tl := tileOf s t
  let all := presented s t c
  let waiting := (xferStanding tl c.xfer).filter (agentPresents s t)
  let gone := all.filter (cycleRefused s t)
  let rs := all.filter (fun q => !cycleRefused s t q)
  let pairs := rs.map (fun q => (q.port, q.held))
  let lostOf (q : CycleReq) : List Nat := lostWords pairs q.port q.held
  let out (q : CycleReq) : Bool := (q.key == portSt 0 || q.key == portSt 1) && lostOf q != []
  let walks := cycleWalk s t c
  let taken := (if walks then surveyBanks s t else []) ++ tl.ports.busy
  let after (q : CycleReq) : CycleReq :=
    { q with held := { q.held with lost := q.held.lost ++ lostOf q, told := q.held.told || lostOf q != [] } }
  let stay := (rs.filter (fun q => !out q)).map after
  let g := grants tl taken (stay.map (fun q => (q.port, q.held)))
  let yes := stay.filter (fun q => g.contains q.port)
  let no := stay.filter (fun q => !g.contains q.port)
  -- what waits at the other agents of XFER stands; passed-over counts
  let picked := (all.find? (fun q => q.port == 3)).map (fun q => q.key - 3)
  let s := modTile t (fun y => { y with
    passed := match picked with | some k => xferPassed tl waiting k | none => y.passed
    ports := { y.ports with
      reqs := (waiting.filter (fun a => some a.1 != picked)).foldl (fun r a => tput r (3 + a.1) a.2) y.ports.reqs
      lock := none
      busy := yes.flatMap (fun q => partialBanks q.held)
      walk := if walks then y.ports.walk + 1 else y.ports.walk } }) s
  let s := gone.foldl (fun s q => cycleRefuse t q s) s
  let s := rs.foldl (fun s q => cycleLose t (lostOf q) q s) s
  let s := (cycleErrors s t c yes).foldl (fun s e => eccFound t e.1 e.2.1 e.2.2 s) s
  let s := (cycleSpoilt c yes).foldl (fun s w => modTile t (fun x => { x with eccBad := sinsert w x.eccBad }) s) s
  let s := no.foldl (fun s q => cycleStall t q s) (yes.foldl (fun s q => cycleGrant t q s) s)
  let used := taken ++ yes.flatMap (fun q => reqBanks q.held.req)
  if tl.wbPend = [] then s
  else modTile t (fun x => { x with wbPend := x.wbPend.filter (fun p => used.contains p.1 || (tget tl.wbPend p.1).isNone) }) s

/-- WRITE_BACK's effect (R290): in a cycle in which no access to the bank is granted it writes its corrected word. -/
def writeBack (t bank : Nat) (s : State) : State :=
  let p := (tileOf s t).ports
  if p.busy.contains bank ∨ (0 < p.walk ∧ p.walk < 8 ∧ (surveyBanks s t).contains bank) then s
  else modTile t (fun x => { x with wbPend := tdel x.wbPend bank }) s

/-! ### The survey walk -/

/-- SURVEY_REGION_STEP's effect (R296–R298): one region is tested, to the end of the step; its bytes stay, and its uncorrectable words show
themselves. A CREATE that waits for the step begins. -/
def surveyRegionStep (t : Nat) (failing : List Nat) (ecc : List (Nat × EccFind)) (s : State) : State :=
  if !surveyActive s t && (tileOf s t).ports.walk == 0 then s
  else
    let r := surveyNext s t
    let inRegion (w : Nat) : Bool := decide (512 * r ≤ w * 8 ∧ w * 8 < 512 * r + 512)
    let plain (cls code : Nat) (s : State) : FaultRec := { blankFault s cls code 7 (tileDie t) with tile := some t }
    let bad := (tileOf s t).eccBad
    let found := (ecc.filter (fun e => inRegion e.1 && !bad.contains e.1)) ++ (bad.filter inRegion).map (fun w => (w, EccFind.ue))
    let s := found.foldl (fun s e =>
      let s := eccFound t 4 e.1 e.2 s
      match e.2 with
      | .ce => s
      | .ue => raise (withDetail (regRaw s (aSpd t 0x60)) (atAddr s (spdAddr t (e.1 * 8)) (plain 3 1 s))) s) s
    let fl := ((List.range 8).filter (fun k => failing.contains k)).map (fun k => 512 * r + 64 * k)
    let s := fl.foldl (fun s o =>
      let s := regMod (aSpd t 0x110) (fun v =>
        let v := setFld v 63 32 (satAdd 32 (fld v 63 32) 1)
        if bit v 31 then v else setFld (setBit v 31 true) 22 6 (o / 64)) s
      healthCount 11 1 (raise (withDetail (o / 64) (plain 11 1 s)) s)) s
    let s := regMod (aSpd t 0x108) (fun v =>
      if r = 16383 then setFld (setFld v 13 0 0) 47 16 (satAdd 32 (fld v 47 16) 1) else setFld v 13 0 (r + 1)) s
    if (tileOf s t).ports.walk = 0 then s else ctxNext (enNext (modPorts t (fun p => { p with walk := 0 }) s))

/-- BANK_ARBITRATION. -/
def execBankArbitration (t : Nat) (cycle : BankCycle) (s : State) : Host.Outcome State Fault Refusal :=
  act (tileOk t) s (bankArbitration t cycle)
/-- WRITE_BACK. -/
def execWriteBack (t bank : Nat) (s : State) : Host.Outcome State Fault Refusal := act (tileOk t && decide (bank < 32)) s (writeBack t bank)
/-- SURVEY_REGION_STEP. -/
def execSurveyRegionStep (t : Nat) (failing : List Nat) (ecc : List (Nat × EccFind)) (s : State) : Host.Outcome State Fault Refusal :=
  act (tileOk t) s (surveyRegionStep t failing ecc)

end Sys2Proof.Machine
end

