-- ==== Sys2Proof/Machine/Crypto.lean ====
section
/-!
DEFINITION. The published algorithms that R509, R523 and R525 name: SHA-256 (FIPS 180-4), HMAC and HKDF (RFC 5869), ECDSA on P-256
(FIPS 186-5) with the deterministic nonce of RFC 6979. Byte strings are big-endian (the exception to R11 that chapter 16 states).
-/

namespace Sys2Proof.Machine

/-- A byte string as a big-endian integer, and an integer as n bytes, big-endian. -/
def ofBe (d : List Byte) : Nat := ofBytes d.reverse
def toBe (n v : Nat) : List Byte := (toBytes n v).reverse

/-! ### SHA-256 -/

/-- Greatest r below 2^n on top of a start with r to the power k at most v. -/
def rootFrom (k v : Nat) : Nat → Nat → Nat
  | 0, r => r
  | n + 1, r => rootFrom k v n (if (r + 2 ^ n) ^ k ≤ v then r + 2 ^ n else r)

/-- The primes up to 311: the first 64. -/
def smallPrimes : List Nat :=
  (List.range 312).filter (fun n => decide (2 ≤ n) && (List.range 18).all (fun d => decide (d < 2 ∨ n ≤ d ∨ n % d ≠ 0)))

/-- The first 32 bits of the fraction of the k-th root of a prime: FIPS 180-4 draws every constant of the hash so. -/
def rootFraction (k p : Nat) : BitVec 32 := BitVec.ofNat 32 (rootFrom k (p * 2 ^ (32 * k)) 37 0)

/-- A word turned right by i and by j places, mixed with a third word. -/
def shaMix (x : BitVec 32) (i j : Nat) (y : BitVec 32) : BitVec 32 := x.rotateRight i ^^^ x.rotateRight j ^^^ y

/-- The schedule of a block, latest word first, lengthened by n words. -/
def shaSpread : Nat → List (BitVec 32) → List (BitVec 32)
  | 0, w => w
  | n + 1, w =>
    let back (i : Nat) : BitVec 32 := w.getD (i - 1) 0
    shaSpread n ((back 16 + back 7 + shaMix (back 15) 7 18 (back 15 >>> 3) + shaMix (back 2) 17 19 (back 2 >>> 10)) :: w)

/-- One round on the eight working words; kw is the sum of the round's constant and its schedule word. -/
def shaTurn (x : List (BitVec 32)) (kw : BitVec 32) : List (BitVec 32) :=
  let at' (i : Nat) : BitVec 32 := x.getD i 0
  let pick := at' 6 ^^^ (at' 4 &&& (at' 5 ^^^ at' 6))
  let most := (at' 0 &&& at' 1) ||| (at' 2 &&& (at' 0 ||| at' 1))
  let t := at' 7 + kw + pick + shaMix (at' 4) 6 11 ((at' 4).rotateRight 25)
  (t + most + shaMix (at' 0) 2 13 ((at' 0).rotateRight 22)) :: x.take 3 ++ (at' 3 + t) :: (x.drop 4).take 3

/-- A block of 64 bytes is taken into the hash. -/
def shaBlock (h : List (BitVec 32)) (d : List Byte) : List (BitVec 32) :=
  let w := (List.range 16).map (fun i => BitVec.ofNat 32 (ofBe ((d.drop (4 * i)).take 4)))
  let kws := List.zipWith (fun p x => rootFraction 3 p + x) smallPrimes (shaSpread 48 w.reverse).reverse
  List.zipWith (fun x y => x + y) h (kws.foldl shaTurn h)

/-- SHA-256 of a byte string, as 32 bytes. -/
def sha256 (d : List Byte) : List Byte :=
  let m := d ++ 0x80#8 :: List.replicate ((119 - d.length % 64) % 64) 0#8 ++ toBe 8 (8 * d.length)
  let h := (List.range (m.length / 64)).foldl (fun h i => shaBlock h ((m.drop (64 * i)).take 64)) ((smallPrimes.take 8).map (rootFraction 2))
  h.flatMap (fun x => toBe 4 x.toNat)

/-! ### HMAC and HKDF -/

/-- A key padded to a block and mixed with a byte. -/
def hmacPad (key : List Byte) (p : Byte) : List Byte :=
  let k := if 64 < key.length then sha256 key else key
  (k ++ List.replicate (64 - k.length) 0#8).map (fun b => b ^^^ p)

/-- HMAC-SHA-256. -/
def hmac (key msg : List Byte) : List Byte := sha256 (hmacPad key 0x5C#8 ++ sha256 (hmacPad key 0x36#8 ++ msg))

/-- HKDF-SHA-256 with no salt: n bytes, n at most 64. -/
def hkdf (ikm info : List Byte) (n : Nat) : List Byte :=
  let prk := hmac (List.replicate 32 0#8) ikm
  let t1 := hmac prk (info ++ [1#8])
  (t1 ++ hmac prk (t1 ++ info ++ [2#8])).take n

/-! ### P-256 -/

def p256p : Nat := 0xffffffff00000001000000000000000000000000ffffffffffffffffffffffff
def p256n : Nat := 0xffffffff00000000ffffffffffffffffbce6faada7179e84f3b9cac2fc632551
def p256b : Nat := 0x5ac635d8aa3a93e7b3ebbd55769886bc651d06b0cc53b0f63bce3c3e27d2604b
def p256gx : Nat := 0x6b17d1f2e12c4247f8bce6e563a440f277037d812deb33a0f4a13945d898c296
def p256gy : Nat := 0x4fe342e2fe1a7f9b8ee7eb4a7c0f9e162bce33576b315ececbb6406837bf51f5

/-- Subtraction modulo m of reduced values. -/
def subMod (m a b : Nat) : Nat := (a + m - b) % m

/-- b to the power given by bits, highest first, modulo m. -/
def powBits (m b : Nat) : List Bool → Nat → Nat
  | [], acc => acc
  | x :: r, acc => let q := acc * acc % m; powBits m b r (if x then q * b % m else q)

/-- The low 256 bits of a number, highest first. -/
def bits256 (v : Nat) : List Bool := (List.range 256).map (fun i => bit v (255 - i))

/-- The inverse modulo a prime. -/
def invMod (m a : Nat) : Nat := powBits m (a % m) (bits256 (m - 2)) 1

/-- A point in Jacobian coordinates; z = 0 is the point at infinity. -/
structure Point where
  x : Nat
  y : Nat
  z : Nat
  deriving DecidableEq, Repr

/-- Twice a point. -/
def pointDouble (p : Point) : Point :=
  let m := p256p
  if p.z = 0 ∨ p.y = 0 then ⟨1, 1, 0⟩
  else
    let yy := p.y * p.y % m
    let zz := p.z * p.z % m
    let s := 4 * p.x * yy % m
    let k := 3 * (subMod m p.x zz) * (p.x + zz) % m
    let x := subMod m (k * k % m) (2 * s % m)
    ⟨x, subMod m (k * (subMod m s x) % m) (8 * yy * yy % m), 2 * p.y * p.z % m⟩

/-- The sum of two points. -/
def pointAdd (p q : Point) : Point :=
  let m := p256p
  if p.z = 0 then q else if q.z = 0 then p
  else
    let zp := p.z * p.z % m
    let zq := q.z * q.z % m
    let u1 := p.x * zq % m
    let u2 := q.x * zp % m
    let s1 := p.y * q.z * zq % m
    let s2 := q.y * p.z * zp % m
    if u1 = u2 then (if s1 = s2 then pointDouble p else ⟨1, 1, 0⟩)
    else
      let h := subMod m u2 u1
      let r := subMod m s2 s1
      let hh := h * h % m
      let hhh := h * hh % m
      let v := u1 * hh % m
      let x := subMod m (subMod m (r * r % m) hhh) (2 * v % m)
      ⟨x, subMod m (r * (subMod m v x) % m) (s1 * hhh % m), h * p.z * q.z % m⟩

/-- The multiple of a point given by bits, highest first. -/
def pointBits (p : Point) : List Bool → Point → Point
  | [], acc => acc
  | x :: r, acc => let q := pointDouble acc; pointBits p r (if x then pointAdd q p else q)

def pointMul (k : Nat) (p : Point) : Point := pointBits p (bits256 k) ⟨1, 1, 0⟩

/-- Affine coordinates of a point that is not at infinity. -/
def affine (p : Point) : Nat × Nat :=
  let i := invMod p256p p.z
  let ii := i * i % p256p
  (p.x * ii % p256p, p.y * ii * i % p256p)

def p256g : Point := ⟨p256gx, p256gy, 1⟩

/-- The point lies on the curve. -/
def onCurve (x y : Nat) : Bool :=
  decide (x < p256p ∧ y < p256p) && decide (y * y % p256p = (x * x % p256p * x + p256b + 3 * (p256p - x)) % p256p)

/-- The signature (r, s) of a 32-byte hash verifies under the public key (X, Y). -/
def ecdsaVerify (hash pub sig : List Byte) : Bool :=
  let x := ofBe (pub.take 32)
  let y := ofBe (pub.drop 32)
  let r := ofBe (sig.take 32)
  let s := ofBe (sig.drop 32)
  decide (1 ≤ r ∧ r < p256n ∧ 1 ≤ s ∧ s < p256n) && onCurve x y &&
    (let w := invMod p256n s
     let q := pointAdd (pointMul (ofBe hash * w % p256n) p256g) (pointMul (r * w % p256n) ⟨x, y, 1⟩)
     decide (q.z ≠ 0) && decide ((affine q).1 % p256n = r))

/-- The secret scalar drawn from a unique secret (R523): 320 bits, reduced by the extra-bits method. -/
def privateKey (secret : List Byte) : Nat :=
  ofBe (hkdf secret ("WN4280 identity".toList.map (fun c => BitVec.ofNat 8 c.toNat)) 40) % (p256n - 1) + 1

/-- The public key, X then Y. -/
def publicKey (d : Nat) : List Byte := let q := affine (pointMul d p256g); toBe 32 q.1 ++ toBe 32 q.2

/-- The candidates for the nonce of RFC 6979 in turn, and the signature of the first that gives one. -/
def signLoop (d e : Nat) : Nat → List Byte → List Byte → List Byte
  | 0, _, _ => []
  | n + 1, k, v =>
    let v := hmac k v
    let t := ofBe v
    let r := (affine (pointMul t p256g)).1 % p256n
    let s := invMod p256n t * ((e + r * d) % p256n) % p256n
    if 1 ≤ t ∧ t < p256n ∧ r ≠ 0 ∧ s ≠ 0 then toBe 32 r ++ toBe 32 s
    else
      let k := hmac k (v ++ [0#8])
      signLoop d e n k (hmac k v)

/-- The signature of a 32-byte hash under secret scalar d. -/
def ecdsaSign (d : Nat) (hash : List Byte) : List Byte :=
  let e := ofBe hash % p256n
  let seed := toBe 32 d ++ toBe 32 e
  let v := List.replicate 32 1#8
  let k := hmac (List.replicate 32 0#8) (v ++ [0#8] ++ seed)
  let v := hmac k v
  let k := hmac k (v ++ [1#8] ++ seed)
  signLoop d e 64 k (hmac k v)

end Sys2Proof.Machine
end

