-- ==== Sys2Proof/Machine/Flash.lean ====
section
/-!
DEFINITION. The configuration flash (R506, R507), the boot record (R514), and what makes a slot valid (R508, R509).
-/

namespace Sys2Proof.Machine

/-! ### Bytes of the flash -/

/-- What a flash byte that is not listed reads as: erased. -/
def erased : Byte := 0xFF#8

/-- The values of keys a, a + 1, … of a sorted table that lists no key below a. -/
def takeRun {α : Type} (d : α) : Nat → Nat → Tab α → List α
  | 0, _, _ => []
  | n + 1, a, (k, v) :: r => if k = a then v :: takeRun d n (a + 1) r else d :: takeRun d n (a + 1) ((k, v) :: r)
  | n + 1, a, [] => d :: takeRun d n (a + 1) []

/-- Entries that list values from key a on, `step` apart. -/
def listed {α : Type} [DecidableEq α] (d : α) (step : Nat) : Nat → List α → Tab α
  | _, [] => []
  | a, v :: r => if v = d then listed d step (a + step) r else (a, v) :: listed d step (a + step) r

/-- A table whose keys from a on, `step` apart, hold these values. -/
def tabPutRange {α : Type} [DecidableEq α] (d : α) (step a : Nat) (l : List α) (t : Tab α) : Tab α :=
  t.filter (fun p => decide (p.1 < a)) ++ listed d step a l ++ t.filter (fun p => decide (a + step * l.length ≤ p.1))

/-- n bytes of the flash from an offset. -/
def flashRead (s : State) (a n : Nat) : List Byte := takeRun erased n a (s.compass.flash.dropWhile (fun p => decide (p.1 < a)))

/-- Bytes erased and programmed from an offset. -/
def flashWrite (a : Nat) (d : List Byte) (s : State) : State :=
  { s with compass := { s.compass with flash := tabPutRange erased 1 a d s.compass.flash } }

/-- The flash erased from lo to hi. -/
def flashErase (lo hi : Nat) (s : State) : State :=
  { s with compass := { s.compass with flash := s.compass.flash.filter (fun p => decide (p.1 < lo ∨ hi ≤ p.1)) } }

/-! ### The boot record (R514) -/

/-- A copy of the boot record when its MAGIC and CRC are right. -/
def bootCopy (s : State) (i : Nat) : Option Nat :=
  let d := flashRead s (0x8000 * i) 64
  let v := ofBytes d
  if fld v 31 0 = 0x52424E57 ∧ fld v 511 480 = (crc32c (d.take 60)).toNat then some v else none

/-- The copy in force, with its index: the later GEN modulo 2³²; without a good copy, ACTIVE is slot 0 and nothing is pending (DEDUCED: log entry 31). -/
def bootRecord (s : State) : Nat × Nat :=
  match bootCopy s 0, bootCopy s 1 with
  | some a, some b => if (fld b 63 32 + 2 ^ 32 - fld a 63 32) % 2 ^ 32 < 2 ^ 31 ∧ fld a 63 32 ≠ fld b 63 32 then (1, b) else (0, a)
  | some a, none => (0, a)
  | none, some b => (1, b)
  | none, none => (1, 0)

/-- Fields of a record. -/
def recActive (v : Nat) : Nat := fld v 64 64
def recPend (v : Nat) : Bool := bit v 76
def recPendSlot (v : Nat) : Nat := fld v 77 77
def recTries (v : Nat) : Nat := fld v 79 78

/-- PEND_VALID and PEND_SLOT of CMPS_STATUS follow the record. -/
def showPending (s : State) : State :=
  let v := (bootRecord s).2
  regMod (aCmps 0) (fun x => setFld (setBit x 17 (recPend v)) 16 16 (recPendSlot v)) s

/-- A new record is written to the other copy with GEN + 1. -/
def writeRecord (active : Nat) (pend : Bool) (slot tries : Nat) (s : State) : State :=
  let (i, v) := bootRecord s
  let body := toBytes 60 (0x52424E57 + ((fld v 63 32 + 1) % 2 ^ 32) <<< 32 + active <<< 64 + pend.toNat <<< 76 + slot <<< 77 + (tries % 4) <<< 78)
  showPending (flashWrite (0x8000 * (1 - i)) (body ++ toBytes 4 (crc32c body).toNat) s)

/-- PEND_VALID is cleared. -/
def clearPending (s : State) : State :=
  let v := (bootRecord s).2
  if recPend v then writeRecord (recActive v) false (recPendSlot v) 0 s else s

/-! ### Slots (R508, R509) -/

/-- Flash offset of a slot, and its size. -/
def flashSlot (i : Nat) : Nat := 0x40000 + i * 0x2000000
def flashSlotSize : Nat := 0x2000000

/-- The manifest of slot i. -/
def manifestOf (s : State) (i : Nat) : Nat := ofBytes (flashRead s (flashSlot i) 256)

/-- Fields of a manifest. -/
def manSvn (m : Nat) : Nat := fld m 95 64
def manVersion (m : Nat) : Nat := fld m 127 96

/-- Bytes [hi:lo] of a manifest as the byte string laid there. -/
def manBytes (m hi lo : Nat) : List Byte := toBytes ((hi + 1 - lo) / 8) (fld m hi lo)

/-- An image of a slot that the manifest places: it lies inside the slot, 64-byte aligned, and is no longer than stated. -/
def imageOk (off len limit : Nat) : Bool := decide (off % 64 = 0 ∧ len ≤ limit ∧ off + len ≤ flashSlotSize)

/-- The checks of R509 that look at the manifest alone: all but the hashes of the images and the signature. -/
def manifestOk (s : State) (m : Nat) : Bool :=
  let k := fld m 263 256
  decide (fld m 31 0 = 0x4D464E57 ∧ fld m 47 32 = 1 ∧ fld m 63 48 = 0 ∧ fld m 511 272 = 0 ∧ fld m 271 266 = 0)
    && bit m 265
    && decide (k < 4) && !(tgetD false s.fuses.revoked k)
    && decide (1 ≤ manSvn m ∧ manSvn m ≤ 64 ∧ s.fuses.fsvn ≤ manSvn m)
    && imageOk (fld m 159 128) (fld m 191 160) 0x800000 && imageOk (fld m 223 192) (fld m 255 224) 0x100000

/-- The Legend image of slot i, whose manifest is m. -/
def slotLegend (s : State) (i m : Nat) : List Byte := flashRead s (flashSlot i + fld m 223 192) (fld m 255 224)

/-- Slot i is valid (R509). -/
def slotValid (s : State) (i : Nat) : Bool :=
  let m := manifestOf s i
  manifestOk s m
    && decide (sha256 (manBytes m 1535 1024) = toBytes 32 (tgetD (0 : BitVec 256) s.fuses.rootHash (fld m 263 256)).toNat)
    && decide (sha256 (flashRead s (flashSlot i + fld m 159 128) (fld m 191 160)) = manBytes m 767 512)
    && decide (sha256 (slotLegend s i m) = manBytes m 1023 768)
    && ecdsaVerify (sha256 (manBytes m 1535 0)) (manBytes m 1535 1024) (manBytes m 2047 1536)

end Sys2Proof.Machine
end

