-- ==== Sys2Proof/Machine/Boot.lean ====
section
/-!
DEFINITION. Start-up: the boot of the Compass complex and the Legend tables (R510–R515, R580), the power-up sequence (R550, R560), phases 4–11
of a chip reset (R495, R496, R500, R331–R333), planned removal (R565), and the sideband interface (R573–R576).
-/

namespace Sys2Proof.Machine

/-! ### The Legend image (R512) -/

/-- A directory entry: TYPE, OFFSET, LENGTH. -/
structure LegendEntry where
  type : Nat
  off  : Nat
  len  : Nat
  deriving DecidableEq, Repr

/-- The directory of an image whose format holds: header, each table inside the image and each TYPE of Table 16-6 at most once (DEDUCED: log entry
32); reserved bits say nothing (R13). -/
def legendDir (img : List Byte) : Option (List LegendEntry) :=
  let h := ofBytes (img.take 64)
  let n := fld h 63 48
  let raw := (List.range n).map (fun i => ofBytes ((img.drop (64 + 16 * i)).take 16))
  let es := raw.map (fun v => ({ type := fld v 15 0, off := fld v 63 32, len := fld v 95 64 } : LegendEntry))
  if fld h 31 0 = 0x474C4E57 ∧ fld h 47 32 = 1 ∧ 64 + 16 * n ≤ img.length
      ∧ es.all (fun e => decide (1 ≤ e.type ∧ e.type ≤ 7 ∧ e.off + e.len ≤ img.length)) = true
      ∧ (es.map (·.type)).Nodup then some es
  else none

/-- The bytes of a table. -/
def legendTable (img : List Byte) (es : List LegendEntry) (type : Nat) : Option (List Byte) :=
  (es.find? (fun e => e.type = type)).map (fun e => (img.drop e.off).take e.len)

/-- A REGISTERS entry: device address, width, value; none where it breaks its layout. -/
def registerEntry (v : Nat) : Option (Nat × Nat × Nat) :=
  let w := fld v 47 40
  if (w = 4 ∨ w = 8) ∧ fld v 63 48 = 0 then some (fld v 39 0, w, fld v 127 64) else none

/-- The entries of a REGISTERS table. -/
def registerEntries (d : List Byte) : Option (List (Nat × Nat × Nat)) :=
  if d.length % 16 = 0 then
    ((List.range (d.length / 16)).map (fun i => registerEntry (ofBytes ((d.drop (16 * i)).take 16)))).foldr
      (fun (x : Option (Nat × Nat × Nat)) l => match x, l with | some e, some r => some (e :: r) | _, _ => none) (some [])
  else none

/-- The pairs of a HEALTH table, W first (R544). -/
def healthWeights (d : List Byte) : List (Nat × Nat) :=
  (List.range 13).map (fun i => (ofBytes ((d.drop (4 * i)).take 2), ofBytes ((d.drop (4 * i + 2)).take 2)))

/-- The tables whose layout the spec gives. -/
structure LegendTables where
  registers : List (Nat × Nat × Nat)
  actions   : List Byte
  health    : List (Nat × Nat)
  deriving DecidableEq, Repr

/-- The tables of an image that keeps its format and holds every required table; none is BOOT_CODE 2. -/
def legendTables (img : List Byte) : Option LegendTables :=
  match legendDir img with
  | none => none
  | some es =>
    match legendTable img es 1, legendTable img es 2, legendTable img es 3, legendTable img es 4, legendTable img es 5, legendTable img es 6 with
    | some t1, some _, some _, some _, some t5, some t6 =>
      match registerEntries t1 with
      | some r => if t5.length = 2048 ∧ t6.length = 52 then some { registers := r, actions := t5, health := healthWeights t6 } else none
      | none => none
    | _, _, _, _, _, _ => none

/-! ### Legend values (R511, R513) -/

/-- Registers with a Legend-loaded field whose released value is not zero. -/
def legendRegs : List Nat :=
  (List.range 128).flatMap (fun t => [aTile t 7 0x100, aTile t 7 0x900])
    ++ (List.range 4).map (fun d => aDie d 0x3F0000) ++ (List.range 20).map (fun k => aHbmc k 0x180)
    ++ [0x18, 0x1C, 0x20, 0x24, 0x28, 0x30].map (fun o => aGlob (0x100000 + o))
    ++ ((List.range 512).filter (fun i => decide (i / 32 ≠ 9 ∧ i / 32 ≠ 10))).map (fun i => aGlob (0x102000 + 4 * i))
    ++ [aGlob 0x200020, aPwrc 0x24] ++ [0, 1, 2, 3, 4, 10, 11].map (fun r => aPwrc (0x100 + 8 * r))
    ++ [aGlob 0x600000] ++ [0, 8, 0x1000, 0x1020, 0x1028, 0x1030, 0x1034].map aHost
    ++ (List.range 16).map (fun p => aBlw p 0) ++ [aGlob 0x1200000, aCmps 0x30]

/-- A Legend-loaded field that no entry writes holds zero (R513). -/
def legendZero (s : State) : State := legendRegs.foldl (fun s a => if regReset a = 0 then s else regPut a 0 s) s

/-- Registers that only commands act through (WO). -/
def commandReg (a : Nat) : Bool :=
  let o := a - globBase
  if a < dieBase then decide ((a - tcbBase) / 0x1000 % 16 = 7 ∧ a % 0x1000 % 0x20 = 0x10)
  else if a < globBase then decide (a % 0x1000000 = 0x100004)
  else decide (o = 0x100038 ∨ o = 0x300008 ∨ (0x1000 ≤ o ∧ o < 0x2000 ∧ o % 0x100 = 4) ∨ (0x1401000 ≤ o ∧ o < 0x1402000 ∧ o % 0x100 = 8))

/-- A register with no field that is written: an entry for it is not performed (R513). -/
def readOnlyReg (a : Nat) : Bool :=
  match regSpec a with
  | some r => decide (r.rw = 0 ∧ r.w1c = 0 ∧ r.w1s = 0) && !commandReg a
  | none => false

/-- The REGISTERS entries in table order, each as one access of the Compass firmware; none where one is not performed. -/
def writeEntries : List (Nat × Nat × Nat) → State → Option State
  | [], s => some s
  | (a, w, v) :: r, s =>
    if readOnlyReg a then none
    else match writeReg .compass a w v s with
      | .ok s => writeEntries r s
      | .error _ => none

/-- The entries with every domain taken as on: what they load stands when a domain comes on (DEDUCED: log entry 32). -/
def loadRegisters (l : List (Nat × Nat × Nat)) (s : State) : Option State :=
  let lo := regRaw s (aPwrc 0x08)
  let hi := regRaw s (aPwrc 0x10)
  let sw := s.power.switching
  let t := regPut (aPwrc 0x08) (2 ^ 64 - 1) (regPut (aPwrc 0x10) 0xFFFF { s with power := { s.power with switching := [] } })
  (writeEntries l t).map (fun t =>
    regPut (aPwrc 0x08) lo (regPut (aPwrc 0x10) hi { t with power := { t.power with switching := t.power.switching ++ sw } }))

/-- FAULT_ACTIONS: the 512 values in FLT order; those of classes 9 and 10 are fixed. -/
def loadActions (d : List Byte) (s : State) : State :=
  (List.range 512).foldl (fun s i => (fltWrite (0x2000 + 4 * i) (ofBytes ((d.drop (4 * i)).take 4)) s).getD s) s

/-- A mask of R305 keeps the rule of R306. -/
def maskOk (m : Nat) : Bool := decide (fld m 5 0 = 0 ∧ fld m 63 25 = 0)

/-- The values that no register holds keep their consumers' rules. -/
def legendOk (l : Legend) : Bool :=
  decide (l.chmask.length = 5) && l.chmask.all (fun m => maskOk m.toNat) && maskOk l.pcmask.toNat && decide (l.curve.length ≤ 8)

/-- Timeouts that may not be zero (R404, R502, R320), and the rule on the dump slots (R497). -/
def legendRules (s : State) : Bool :=
  let d0 := fld (regRaw s (aGlob 0x100028)) 39 26 <<< 26
  let d1 := fld (regRaw s (aGlob 0x100030)) 39 26 <<< 26
  ([aGlob 0x100018, aGlob 0x10001C, aGlob 0x100020, aGlob 0x100024, aGlob 0x1200000] ++ (List.range 4).map (fun d => aDie d 0x3F0000)).all
      (fun a => decide (regRaw s a ≠ 0))
    && (s.legend.uniform || decide (d0 / 0x3C00000000 ≠ d1 / 0x3C00000000 ∧ d0 / 0x3C00000000 < 4 ∧ d1 / 0x3C00000000 < 4))

/-- F0's link-local address from the base MAC address, and V6 (R513, R580). -/
def linkLocal (s : State) : State :=
  let m := s.fuses.baseMac.toNat
  let iid := (Nat.xor (fld m 47 24) 0x020000) <<< 40 + 0xFFFE <<< 24 + fld m 23 0
  regMod (aFn 0 0) (fun v => setBit v 30 true) (regPut (aFn 0 0x10) iid (regPut (aFn 0 0x18) (0xFE80 <<< 48) s))

/-- The Legend tables are applied (R513): the state, or the BOOT_CODE. -/
def applyLegend (l : Legend) (img : List Byte) (s : State) : Except Nat State :=
  match legendTables img with
  | none => .error 2
  | some t =>
    match loadRegisters t.registers (legendZero s) with
    | none => .error 3
    | some s =>
      if legendOk l then
        let s := loadActions t.actions { s with legend := { l with weights := t.health } }
        if legendRules s then .ok (linkLocal s) else .error 3
      else .error 3

/-! ### The boot (R510, R515) -/

/-- The slot that ROM chooses; a record is written where R515 says so. `cold`: at power-on, or at a chip reset with no context at t0. -/
def chooseSlot (cold : Bool) (s : State) : Nat × State :=
  let v := (bootRecord s).2
  if recPend v && decide (recTries v = 2) then (recActive v, writeRecord (recActive v) false (recPendSlot v) (recTries v) s)
  else if recPend v && cold then (recPendSlot v, writeRecord (recActive v) true (recPendSlot v) (recTries v + 1) s)
  else (recActive v, s)

/-- The slot that boots: the chosen one, or, where it is invalid, the other one; a pending slot that fails is no longer pending. -/
def validSlot (c : Nat) (s : State) : Option Nat × State :=
  if slotValid s c then (some c, s)
  else
    let v := (bootRecord s).2
    let s := if recPend v && decide (recPendSlot v = c ∧ c ≠ recActive v) then clearPending s else s
    if slotValid s (1 - c) then (some (1 - c), s) else (none, s)

/-- BOOT_CODE. -/
def bootFailed (code : Nat) (s : State) : State := regFld (aCmps 0) 31 24 code s

/-- The boot of Table 16-5, steps 1 to 4: whether it succeeds, and the state. -/
def boot (cold : Bool) (env : StartEnv) (s : State) : Bool × State :=
  if !env.flashOk then (false, bootFailed 4 s)
  else
    let (c, s) := chooseSlot cold s
    match validSlot c s with
    | (none, s) => (false, bootFailed 1 (showPending s))
    | (some i, s) =>
      let m := manifestOf s i
      let img := slotLegend s i m
      let s := { s with compass := { s.compass with booted := i, manifest := BitVec.ofNat 2048 m, legendImg := img } }
      let s := showPending (regMod (aCmps 0) (fun v => setFld (setFld v 15 15 i) 11 8 15) s)
      match applyLegend env.legend img s with
      | .ok s => (true, s)
      | .error e => (false, bootFailed e s)

/-- The module stays in start-up from a phase on (R511); dies whose HBM is to be lost stay so. -/
def stayIn (phase : Nat) (lost : List Nat) (s : State) : State :=
  { s with rst := some { phase := phase, t0 := now s, cause := 0, lost := lost, dump := none, reached := 0, bad := [], nonFree := [], start := now s } }

/-! ### Die-to-die edges and stacks (R33, R329, R331–R333) -/

/-- The eight edges train: each is UP with its repaired lanes, or FAILED. -/
def trainEdges (env : StartEnv) (s : State) : State :=
  (List.range 8).foldl (fun s e =>
    let v := match env.edgeFail.find? (fun x => x.1 = e) with
      | some x => 3 + (if x.2 then 1 else 2) <<< 16
      | none => 2 + (((env.repaired.find? (fun x => x.1 = e)).map (·.2)).getD 0 % 256) <<< 8
    ((List.range 4).filter (edgeAt e)).foldl (fun s d => regPut (aDie d (0x100 * e)) v s) s) s

def edgesFail (env : StartEnv) : Bool := env.edgeFail.any (fun x => decide (x.1 < 8))

/-- Every stack is READY, or QUARANTINED because its training failed. -/
def trainStacks (env : StartEnv) (s : State) : State :=
  (List.range 20).foldl (fun s k =>
    if env.stackFail.contains k then quarantine k 1 (regPut (aHbmc k 0) 0 s)
    else modStack k (fun x => { x with temps := [] }) (regPut (aHbmc k 0) 1 s)) s

/-- CONTENT of a die. -/
def setContent (d v : Nat) (s : State) : State := regFld (aSc d 0) 1 0 v s

/-- HBM of a die's range, or all of it in uniform mode, is zero, without poison (R333). -/
def loseDomains (dies : List Nat) (s : State) : State :=
  let hit (a : Nat) : Bool := dies.contains (a / 0x3C00000000)
  { s with hbm := s.hbm.filter (fun p => !hit p.1), poison := s.poison.filter (fun l => !hit l) }

/-! ### READY -/

/-- READY changes: the alert is asserted (R576). -/
def setReady (on : Bool) (s : State) : State :=
  let was := bit (regRaw s (aCmps 0)) 1
  let s := regMod (aCmps 0) (fun v => setBit v 1 on) s
  if was = on then s else { s with pins := { s.pins with alert := true } }

/-- The functions whose EN is set start with the queues of R424 only. -/
def restoreFunctions (s : State) : State :=
  let s := (List.range 16).foldl (fun s f => setFnState f 0 s) { s with queues := [] }
  (List.range 16).foldl (fun s f => if bit (regRaw s (aFn f 0)) 31 then enableFn f s else s) s

/-- Firmware of the pending slot reaches READY (R515). -/
def confirmPending (s : State) : State :=
  let v := (bootRecord s).2
  if recPend v && decide (recPendSlot v = s.compass.booted ∧ recPendSlot v ≠ recActive v) then writeRecord (recPendSlot v) false (recPendSlot v) 0 s else s

/-- Ports whose EN is set, and that may, train. -/
def trainPorts (s : State) : State :=
  (List.range 16).foldl (fun s p =>
    if portState s p = 0 ∧ bit (regRaw s (aBlw p 0)) 0 ∧ mayTrain s p then startTraining p s else s) s

/-- PWRC_STATUS.STEP. -/
def setStep (n : Nat) (s : State) : State := regFld (aPwrc 0) 7 4 n s

/-- A phase of a chip reset ends: the recovery manager passes its trace point (R520). -/
def phaseEnds (n : Nat) (s : State) : State := trace 3 0 n (now s) s

/-- Table 18-5 step 9 and the beginning of step 10; the last phase of a chip reset. -/
def moduleReady (s : State) : State :=
  trainPorts (setStep 9 (setReady true (confirmPending (restoreFunctions { s with rst := none }))))

/-! ### The Atlas record at start-up (R542, R545) -/

def atlasBase : Nat := 0x4040000

/-- The record in a sector of the Atlas region, if it is valid. -/
def atlasSector (s : State) (k : Nat) : Option (List Byte) :=
  let h := ofBytes (flashRead s (atlasBase + 0x10000 * k) 16)
  if fld h 31 0 = 0x4C414E57 ∧ fld h 47 32 = 1 then
    let d := flashRead s (atlasBase + 0x10000 * k) 0x10000
    if (crc32c (d.take 12 ++ List.replicate 4 0#8 ++ d.drop 16)).toNat = fld h 127 96 then some d else none
  else none

/-- RSEQ of a record. -/
def recordSeq (d : List Byte) : Nat := ofBytes ((d.drop 8).take 4)

/-- The valid record with the highest RSEQ. -/
def latestAtlas (s : State) : Option (List Byte) :=
  (List.range 512).foldl (fun (m : Option (List Byte)) k => match m, atlasSector s k with
    | some x, some y => if recordSeq x < recordSeq y then some y else some x
    | none, y => y
    | x, none => x) none

/-- The 64-bit words of bytes. -/
def wordsOf (d : List Byte) : List Word := (List.range (d.length / 8)).map (fun i => BitVec.ofNat 64 (ofBytes ((d.drop (8 * i)).take 8)))

/-- Step 6: the counts are those of the latest record, HOLD_IN_SERVICE is restored, and this power-on counts. -/
def atlasLoad (s : State) : State :=
  let s := match latestAtlas s with
    | some d =>
      let s := { s with regs := tabPutRange 0 8 (aAtl 0x10000) (wordsOf d) s.regs }
      holdInService (img32 s 0x58) (regPut (aAtl 8) (recordSeq d) (regFld (aAtl 4) 0 0 1 s))
    | none => s
  atlCount 0x48 1 s

/-! ### Power-up (R550, R560, R573) -/

/-- Step 5: every domain but those of tile pairs without a usable tile. -/
def pairUsable (s : State) (i : Nat) : Bool := (pairTiles i).any (fun t => !s.fuses.unusable.getLsbD t)
def domainsOn (s : State) : State :=
  let en := (List.range 64).foldl (fun v i => v + (pairUsable s i).toNat <<< i) 0
  let s := (List.range 80).foldl (fun s i => setDomain i true s) s
  let s := (List.range 64).foldl (fun s i => if pairUsable s i then s else setDomain (pairDomain i) false s) s
  setStep 5 (regPut (aPwrc 0x18) en s)

/-- Steps 1 to 3. -/
def powerBegin (env : StartEnv) (s : State) : State :=
  let s := powerOff s
  let s := { s with pins := { s.pins with pwrEn := true, prsnt := true, safe := true, slotId := env.straps } }
  let s := setDomain 72 true (setDomain 75 true s)
  setStep 3 (regPut aClkc 0xEF03 (regFld (aPwrc 0) 3 0 14 s))

/-- Steps 5 to 10, after a boot. -/
def powerFinish (env : StartEnv) (s : State) : State :=
  let s := setStep 6 (atlasLoad (domainsOn (setStep 4 s)))
  let s := trainEdges env s
  if edgesFail env then
    let (c, s) := freeBits 8 s
    stayIn 9 [] (bootFailed c s)
  else moduleReady (trainStacks env (setStep 7 s))

/-- POWER_UP's effect. -/
def powerUp (env : StartEnv) (s : State) : State :=
  if s.pins.pwrEn then s
  else match boot true env (powerBegin env s) with
    | (true, s) => powerFinish env s
    | (false, s) => stayIn 8 [] s

/-! ### Phases 4 to 11 of a chip reset -/

/-- Contexts end as torn down, by steps 1, 2 and 6 of Table 15-6. -/
def endContexts (s : State) : State :=
  (List.range 16).foldl (fun s c =>
    if (ctxOf s c).state = .free then s
    else freeCtx c (if (ctxOf s c).state = .teardown then s else teardownStart c s)) s

/-- Books enter HALTED (R442), and no pool record is under way any more. -/
def haltBooks (s : State) : State :=
  (List.range 16).foldl (fun s b =>
    let s := if (bookOf s b).state = .unbound ∨ (bookOf s b).state = .halted then s else haltBook b s
    if (bookOf s b).ckpt = [] then s else modBook b (fun k => { k with ckpt := [] }) s) s

/-- A register whose value stands through phase 7 (R500): those with reset "kept", the ATL block, and which domains are on, since a chip reset
switches none (DEDUCED: log entry 33). -/
def standsReset (a : Nat) : Bool :=
  (match regSpec a with | some r => r.kept | none => false) || [aPwrc 0x08, aPwrc 0x10, aPwrc 0x18].contains a

/-- What shows itself after phase 7, though its register's reset is 0: the lock of Meridian, which stays while exchanges continue (R561), the
levels of the power pins, and the clocks (Table 18-9). -/
def showLive (before : State) (s : State) : State :=
  regPut aClkc (regRaw before aClkc)
    (regPut (aPwrc 0) (fld (regRaw before (aPwrc 0)) 3 0) (regPut (aMer 8) (merLocked before).toNat s))

/-- Phase 7: what is not reset is the Meridian counter, FLT's store, kept registers, ATL, HBM and its poison, power's own state, the flash. -/
def internalReset (s : State) : State :=
  { ({} : State) with
    pending := s.pending
    regs := s.regs.filter (fun p => standsReset p.1)
    hbm := s.hbm, poison := s.poison
    ctxs := s.ctxs.filterMap (fun p => if p.2.gen = 0 then none else some (p.1, { ({} : Ctx) with gen := p.2.gen }))
    sentPkts := s.sentPkts, sentBlks := s.sentBlks, sentHost := s.sentHost, sentRoce := s.sentRoce, sentFrames := s.sentFrames
    mer := { s.mer with t1 := none }
    datums := { number := s.datums.number, seen := s.datums.seen }
    books := s.books, pool := s.pool, floodNo := s.floodNo, floods := s.floods, rst := s.rst, fuses := s.fuses
    compass := { flash := s.compass.flash, lseq := s.compass.lseq, dropped := s.compass.dropped }
    legend := s.legend
    power := { s.power with outOf := [], stepPower := [], enWait := [] }
    pins := s.pins, nextId := s.nextId, free := s.free }

/-- Areas of a book and those it holds for its partner, as ranges. -/
def bookAreas (s : State) (b : Nat) : List (Nat × Nat) := (List.range 4).filterMap (bookRange s b)

/-- A book with a part in a lost domain is LOST: its entries, maps, slots and what follows from them are absent (R442). -/
def loseBooks (dies : List Nat) (s : State) : State :=
  (List.range 16).foldl (fun s b =>
    if (bookOf s b).state ≠ .unbound
        ∧ (bookAreas s b).any (fun r => dies.any (fun d => rangesMeet r (d * 0x3C00000000, (d + 1) * 0x3C00000000))) = true then
      modBook b (fun k => { k with
        state := .halted, lost := true, present := [], slotMap0 := [], slotMap1 := [], written := [], held0 := [], held1 := []
        complete := none, unprot := true, stateAt := none }) s
    else s) s

/-- Phase 10: the stacks retrain; lost domains are zeroed, and so is a die whose stacks were never trained. -/
def retrainStacks (env : StartEnv) (lost cold : List Nat) (s : State) : State :=
  let s := trainStacks env s
  let failed := (List.range 4).filter (fun d => (List.range 5).any (fun i => env.stackFail.contains (5 * d + i)))
  let gone := lostDies s ((List.range 4).filter (fun d => lost.contains d || failed.contains d))
  let s := loseBooks gone (loseDomains gone s)
  (List.range 4).foldl (fun s d => setContent d (if gone.contains d then 2 else if cold.contains d then 0 else 1) s) s

/-- Phases 6 and 7 at the stacks: READY ones are in SELF_REFRESH; a quarantined one stays so until it retrains. -/
def selfRefresh (before : State) (s : State) : State :=
  (List.range 20).foldl (fun s k =>
    match stackState before k with
    | 0 => s
    | 3 => regPut (aHbmc k 0) (regRaw before (aHbmc k 0)) s
    | _ => regPut (aHbmc k 0) 2 s) s

/-- FLT takes every record that waits: a unit is served within 300 ns (R478), well before what phase 7 resets (DEDUCED: log entry 123). -/
def fileAll : Nat → State → State
  | 0, s => s
  | n + 1, s => fileAll n (faultRecord s)

/-- Phases 4 to 11. -/
def resetFinish (env : StartEnv) (x : Reset) (s : State) : State :=
  let s := haltBooks (endContexts (fileAll s.faults.length s))
  let lost := (s.rst.map (·.lost)).getD x.lost
  let cold := (List.range 4).filter (fun d => (List.range 5).all (fun i => decide (stackState s (5 * d + i) = 0)))
  let step := fld (regRaw s (aPwrc 0)) 7 4
  let was := bit (regRaw s (aCmps 0)) 1
  let s := selfRefresh s (showLive s (internalReset { s with dirty := [] }))
  let s := showLevels { s with pins := { s.pins with alert := s.pins.alert || was } }
  match boot x.nonFree.isEmpty env s with
  | (false, s) => stayIn 8 lost s
  | (true, s) =>
    let s := if step < 5 then domainsOn s else s
    let s := phaseEnds 8 (setStep 6 (if step < 6 then atlasLoad s else s))
    let s := setStep 7 (trainEdges env s)
    if edgesFail env then
      let (c, s) := freeBits 8 s
      stayIn 9 lost (bootFailed c s)
    else phaseEnds 11 (moduleReady (phaseEnds 10 (retrainStacks env lost cold (phaseEnds 9 s))))

/-- CHIP_RESET's effect: a reset that is decided begins; one whose dump is over goes on to its end. -/
def chipReset (env : StartEnv) (s : State) : State :=
  match s.rst with
  | some x => if x.phase = 0 then resetBegin x s else if x.phase = 4 then resetFinish env x s else s
  | none => s

/-- BOOT_TIMEOUT's effect: 10 s after a boot began that has not reached step 5. -/
def bootTimeout (s : State) : State :=
  match s.rst with
  | some x =>
    if x.phase = 8 then
      let s := advanceTo (x.start + 10000000000) s
      raise (blankFault s 10 7 0x27 4) s
    else s
  | none => s

/-- READY_TIMEOUT's effect: the start-up steps that follow the boot have not reached READY within their bounds. -/
def readyTimeout (s : State) : State :=
  match s.rst with
  | some x => if 9 ≤ x.phase then raise (blankFault s 10 7 0x27 4) s else s
  | none => s

/-! ### Planned removal (R565) -/

/-- The record that is written: the live counts with a new header, at the sector of its number. -/
def atlasRecord (s : State) (seq : Nat) : List Byte :=
  let ws := takeRun (0 : Word) 0xFFC0 (aAtl 0x10040) (s.regs.dropWhile (fun p => decide (p.1 < aAtl 0x10040)))
  let body := ((List.range 8184).map (fun i => ws.getD (8 * i) 0)).flatMap (fun w => toBytes 8 w.toNat)
  let hdr := 0x4C414E57 + 1 <<< 32 + (seq % 2 ^ 32) <<< 64 + now s <<< 128
  toBytes 64 (hdr + (crc32c (toBytes 64 hdr ++ body)).toNat <<< 96) ++ body

/-- The next Atlas record is written and read back (R542); a failed operation leaves an erased sector and FLASH_ERR. -/
def atlasStore (e : FlashEnd) (s : State) : State :=
  let n := (regRaw s (aAtl 8) + 1) % 2 ^ 32
  let at' := atlasBase + 0x10000 * (n % 512)
  match e with
  | .ok =>
    let d := atlasRecord s n
    let s := trace 0 3 at' n (trace 0 2 at' 0x10000 (trace 0 2 at' 0x10000 (flashWrite at' d s)))
    let s := { s with regs := tabPutRange 0 8 (aAtl 0x10000) (wordsOf (d.take 64)) s.regs }
    regPut (aAtl 8) n (regFld (aAtl 4) 1 1 0 s)
  | .error => regFld (aAtl 4) 1 1 1 (trace 0 2 at' 0x10000 (flashErase at' (at' + 0x10000) s))

/-- PWR_EN falls: the abort leaves on every UP port, contexts end, a final Atlas record is written, and power goes. -/
def plannedRemoval (s : State) : State :=
  if !s.pins.pwrEn then s
  else
    let step := fld (regRaw s (aPwrc 0)) 7 4
    let me := ownDev s
    let s := if (List.range 16).all (fun c => decide ((ctxOf s c).state = .free)) then s
      else
        let pkt := mkPacket s { opc := 0x30, vc := 3, dst := 0, op := opAbort 2 (now s) me 0 0 true s.floodNo } []
        endContexts { s with sentPkts := s.sentPkts ++ (floodPorts s).map (fun p => (p, pkt)) }
    powerOff (if 6 ≤ step then atlasStore .ok s else s)

/-! ### The sideband interface (R574–R576) -/

/-- A write of SB_POS is performed: the first since power-up, with even dimensions from 2 to 16 and a board position inside them. -/
def sbPosOk (s : State) (v : Nat) : Bool :=
  let dimOk (m1 b : Nat) : Bool := decide (m1 % 2 = 1 ∧ b < (m1 + 1) / 2)
  !s.pins.posWritten && dimOk (fld v 19 16) (fld v 2 0) && dimOk (fld v 23 20) (fld v 6 4) && dimOk (fld v 27 24) (fld v 10 8)

/-- BLW_POS and BLW_SHAPE from a board position, the dimensions and the straps (R370, R374). -/
def blwPos (v slot : Nat) : Nat :=
  let x := 2 * fld v 2 0 + fld slot 0 0
  let y := 2 * fld v 6 4 + fld slot 1 1
  let z := 2 * fld v 10 8 + fld slot 2 2
  x + y <<< 4 + z <<< 8 + (256 * z + 16 * y + x) <<< 16 + 2 ^ 31
def blwShape (v : Nat) : Nat :=
  let x := fld v 19 16
  let y := fld v 23 20
  let z := fld v 27 24
  x + y <<< 4 + z <<< 8 + ((x + 1) / 2 + (y + 1) / 2 + (z + 1) / 2) <<< 16

/-- SB_POS's effect. In a module that is ready the torus ports begin training. -/
def sbPos (v : Nat) (s : State) : State :=
  if !s.pins.safe then s
  else if !sbPosOk s v then { s with pins := { s.pins with posWritten := true } }
  else
    let s := { s with pins := { s.pins with posWritten := true, sbPos := BitVec.ofNat 32 (Nat.land v 0x0FFF0777) } }
    let s := regPut (aBlw 0 0x8008) (blwShape v) (regPut (aBlw 0 0x8000) (blwPos v s.pins.slotId.toNat) s)
    if s.rst.isNone then trainPorts s else s

/-- SB_STATUS. -/
def sbStatus (s : State) : Nat :=
  let c := regRaw s (aCmps 0)
  fld c 1 1 + (fld c 2 2) <<< 1 + (fld (regRaw s (aBlw 0 0x8000)) 31 31) <<< 2 + s.pins.alert.toNat <<< 3
    + (fld (regRaw s (aPwrc 0)) 7 4) <<< 8 + (fld c 31 24) <<< 24

/-- The sideband registers of Table 19-5 as they read; none at an offset that is not listed. -/
def sbView (s : State) (off : Nat) : Option Nat :=
  match off with
  | 0x00 => some (sbStatus s)
  | 0x04 => some s.pins.sbPos.toNat
  | 0x08 => some (fld s.fuses.serial.toNat 31 0)
  | 0x0C => some (fld s.fuses.serial.toNat 63 32)
  | 0x10 => some (fld (regRaw s (aAtl 0x10)) 9 0 + (img32 s 0x58 % 2) <<< 16)
  | 0x14 => some (fld (regRaw s (aPwrc 0x20)) 31 0)
  | 0x18 => some (((List.range 6).foldl (fun m d => max m (dieTemp s d)) 0) + ((List.range 20).foldl (fun m k => max m (stackTemp s k)) 0) <<< 8)
  | _ => none

/-- SB_STATUS_READ's effect: the value goes out, and the alert is released. -/
def sbStatusRead (s : State) : State :=
  if s.pins.safe then { s with pins := { s.pins with sbSent := s.pins.sbSent ++ (sbView s 0x00).toList, alert := false } } else s

/-- ALERT_RESPONSE's effect: a module that asserts SB_ALERT_N answers with its address. -/
def alertResponse (s : State) : State :=
  if s.pins.safe && s.pins.alert then { s with pins := { s.pins with sbSent := s.pins.sbSent ++ [0x58 + s.pins.slotId.toNat] } } else s

/-! ### Commands -/

def execChipReset (env : StartEnv) (s : State) : Host.Outcome State Fault Refusal := actPowered true s (chipReset env)
def execBootTimeout (s : State) : Host.Outcome State Fault Refusal := actPowered true s bootTimeout
def execReadyTimeout (s : State) : Host.Outcome State Fault Refusal := actPowered true s readyTimeout
def execPowerUp (env : StartEnv) (s : State) : Host.Outcome State Fault Refusal := actAny true s (powerUp env)
def execPlannedRemoval (s : State) : Host.Outcome State Fault Refusal := actAny true s plannedRemoval
def execSbPos (value : BitVec 32) (s : State) : Host.Outcome State Fault Refusal := actAny true s (sbPos value.toNat)
def execSbStatusRead (s : State) : Host.Outcome State Fault Refusal := actAny true s sbStatusRead
def execAlertResponse (s : State) : Host.Outcome State Fault Refusal := actAny true s alertResponse

end Sys2Proof.Machine
end

