-- ==== Sys2Proof/Machine/Commands.lean ====
section
/-!
DEFINITION. The commands that are one register access, by F0, the Compass firmware or a steward's store, and the datagrams that carry one
(R16, R52, R415).
-/

namespace Sys2Proof.Machine

/-- A register write as a command: performed, or reported as an access fault. A steward writes by the store that it executes next. -/
def regCommand (who : Who) (a width v : Nat) (s : State) : State :=
  match who with
  | .steward t n => if nextStore s t n = some (a, width, v) then rvInstruction t n s else s
  | _ =>
    match writeReg who a width v s with
    | .ok s => s
    | .error e => accessFault who e a s

/-- A context command from CTX_CMD or a submission queue (R52, R428). -/
def ctxCommandRow (src : Src) (c cmd : Nat) (s : State) : State :=
  match src with
  | .reg who => regCommand who (aCtx c 4) 4 cmd s
  | .queue f q => ctxByQueue f q c cmd s

/-! ### REG_READ and REG_WRITE (R415) -/

/-- REG_DATA. -/
def regData (id status v : Nat) (s : State) : State := sendSeq id 0x32 (toBytes 16 (status + v <<< 64)) s

/-- REG_READ's effect: F0's alone. -/
def regReadDatagram (d : Datagram) (s : State) : State :=
  datagram 0x30 d (fun n s => sequenced n d (fun x s =>
    let w := ofBytes d.body
    if n ≠ 0 then sendError x.id 0x43 0x30 (dSeq d) s
    else match readReg .f0 (fld w 39 0) (fld w 47 40) s with
      | .ok (v, s) => regData x.id 0 v s
      | .error e => regData x.id 0x43 0 (accessFault .f0 e (fld w 39 0) s)) s) s

/-- REG_WRITE's effect. -/
def regWriteDatagram (d : Datagram) (s : State) : State :=
  datagram 0x31 d (fun n s => sequenced n d (fun x s =>
    let w := ofBytes d.body
    if n ≠ 0 then sendError x.id 0x43 0x31 (dSeq d) s
    else match writeReg .f0 (fld w 39 0) (fld w 47 40) (fld w 127 64) s with
      | .ok s => regData x.id 0 0 s
      | .error e => regData x.id 0x43 0 (accessFault .f0 e (fld w 39 0) s)) s) s

/-! ### Values written -/

/-- Address of STn_DBG_CTL, and EBREAK_HALT as it stands. -/
def aDbg (t n : Nat) : Nat := aTile t n 0x18
def dbgKept (s : State) (t n : Nat) : Nat := (stOf s t n).ebreakHalt.toNat * 4

/-! ### Commands -/

def execRegisterWrite (who : Who) (addr width : Nat) (value : Word) (s : State) : Host.Outcome State Fault Refusal :=
  act (whoOk who && widthOk width && decide (addr < 2 ^ 40)) s (regCommand who addr width value.toNat)
def execRegRead (d : Datagram) (s : State) : Host.Outcome State Fault Refusal := act true s (regReadDatagram d)
def execRegWrite (d : Datagram) (s : State) : Host.Outcome State Fault Refusal := act true s (regWriteDatagram d)

def execCreate (who : Who) (c func : Nat) (nondet : Bool) (s : State) : Host.Outcome State Fault Refusal :=
  act (whoOk who && ctxOk c && fnOk func) s (regCommand who (aCtx c 4) 4 (1 + nondet.toNat <<< 8 + func <<< 12))
def execLoad (src : Src) (c : Nat) (s : State) : Host.Outcome State Fault Refusal := act (srcOk src && ctxOk c) s (ctxCommandRow src c 2)
def execStart (src : Src) (c : Nat) (s : State) : Host.Outcome State Fault Refusal := act (srcOk src && ctxOk c) s (ctxCommandRow src c 3)
def execTeardown (src : Src) (c : Nat) (s : State) : Host.Outcome State Fault Refusal := act (srcOk src && ctxOk c) s (ctxCommandRow src c 4)
def execRemap (src : Src) (c : Nat) (s : State) : Host.Outcome State Fault Refusal := act (srcOk src && ctxOk c) s (ctxCommandRow src c 5)

def execDbgHalt (who : Who) (t n : Nat) (s : State) : Host.Outcome State Fault Refusal :=
  act (whoOk who && tileOk t && decide (n < 2)) s (regCommand who (aDbg t n) 4 (dbgKept s t n + 1))
def execDbgResume (who : Who) (t n : Nat) (s : State) : Host.Outcome State Fault Refusal :=
  act (whoOk who && tileOk t && decide (n < 2)) s (regCommand who (aDbg t n) 4 (dbgKept s t n))
def execDbgStep (who : Who) (t n : Nat) (s : State) : Host.Outcome State Fault Refusal :=
  act (whoOk who && tileOk t && decide (n < 2)) s (regCommand who (aDbg t n) 4 (dbgKept s t n + 2 + (stOf s t n).halt.toNat))

def execMaDescHead (who : Who) (t a st : Nat) (value : Word) (s : State) : Host.Outcome State Fault Refusal :=
  act (whoOk who && tileOk t && decide (a < 2) && decide (st < 2)) s (regCommand who (aTile t (2 + a) (8 * st)) 8 value.toNat)
def execCpyDescHead (who : Who) (t : Nat) (value : Word) (s : State) : Host.Outcome State Fault Refusal :=
  act (whoOk who && tileOk t) s (regCommand who (aTile t 6 0) 8 value.toNat)

def execVsOpen (who : Who) (t slot buf : Nat) (s : State) : Host.Outcome State Fault Refusal :=
  act (whoOk who && tileOk t && decide (slot < 8) && decide (buf < 2)) s
    (regCommand who (aTile t 7 (0x810 + 0x20 * slot)) 4 (1 + buf <<< 4))
def execVsClose (who : Who) (t slot buf : Nat) (tag : BitVec 16) (s : State) : Host.Outcome State Fault Refusal :=
  act (whoOk who && tileOk t && decide (slot < 8) && decide (buf < 2)) s
    (regCommand who (aTile t 7 (0x810 + 0x20 * slot)) 4 (2 + buf <<< 4 + tag.toNat <<< 16))
def execVsCfgWrite (who : Who) (t slot : Nat) (value : Word) (s : State) : Host.Outcome State Fault Refusal :=
  act (whoOk who && tileOk t && decide (slot < 8)) s (regCommand who (aTile t 7 (0x800 + 0x20 * slot)) 8 value.toNat)

def execScacheFlush (who : Who) (die : Nat) (s : State) : Host.Outcome State Fault Refusal :=
  act (whoOk who && dieOk die) s (regCommand who (aSc die 4) 4 1)
def execScacheClear (who : Who) (die : Nat) (s : State) : Host.Outcome State Fault Refusal :=
  act (whoOk who && dieOk die) s (regCommand who (aSc die 4) 4 2)
def execPinCtlWrite (who : Who) (die : Nat) (value : Word) (s : State) : Host.Outcome State Fault Refusal :=
  act (whoOk who && dieOk die) s (regCommand who (aSc die 0x20) 4 (value.toNat % 2 ^ 32))
def execQuar (who : Who) (stack : Nat) (s : State) : Host.Outcome State Fault Refusal :=
  act (whoOk who && stackOk stack) s (regCommand who (aHbmc stack 0) 4 0x100)
def execRegulatorWrite (who : Who) (stack part : Nat) (value : Word) (s : State) : Host.Outcome State Fault Refusal :=
  act (whoOk who && stackOk stack && decide (part < 17)) s (regCommand who (aHbmc stack (0x100 + 8 * part)) 8 value.toNat)

def execPortEnable (who : Who) (p : Nat) (s : State) : Host.Outcome State Fault Refusal :=
  act (whoOk who && portOk p) s (regCommand who (aBlw p 0) 4 (setBit (regRaw s (aBlw p 0)) 0 true))
def execPortDisable (who : Who) (p : Nat) (s : State) : Host.Outcome State Fault Refusal :=
  act (whoOk who && portOk p) s (regCommand who (aBlw p 0) 4 (setBit (regRaw s (aBlw p 0)) 0 false))

def execFreset (who : Who) (n : Nat) (s : State) : Host.Outcome State Fault Refusal :=
  act (whoOk who && fnOk n) s (regCommand who (aHost 0xC) 4 (2 ^ n))
def execFunctionEnable (who : Who) (n : Nat) (s : State) : Host.Outcome State Fault Refusal :=
  act (whoOk who && fnOk n) s (regCommand who (aFn n 0) 4 (setBit (regRaw s (aFn n 0)) 31 true))
def execFunctionDisable (who : Who) (n : Nat) (s : State) : Host.Outcome State Fault Refusal :=
  act (whoOk who && fnOk n) s (regCommand who (aFn n 0) 4 (setBit (regRaw s (aFn n 0)) 31 false))

def execBookBind (who : Who) (b c : Nat) (s : State) : Host.Outcome State Fault Refusal :=
  act (whoOk who && bookOk b && ctxOk c) s (regCommand who (aFbk b 0) 4 (0x100 + c <<< 16))
def execBookEnable (who : Who) (b : Nat) (s : State) : Host.Outcome State Fault Refusal :=
  act (whoOk who && bookOk b) s (regCommand who (aFbk b 0) 4 (0x101 + bookCtx s b <<< 16))

/-- A write of OP to FBK_Bb_CMD. -/
def bookOp (who : Who) (b op : Nat) (s : State) : State := regCommand who (aFbk b 8) 4 op s
def execBookResume (who : Who) (b : Nat) (s : State) : Host.Outcome State Fault Refusal := act (whoOk who && bookOk b) s (bookOp who b 1)
def execAdopt (who : Who) (b : Nat) (s : State) : Host.Outcome State Fault Refusal := act (whoOk who && bookOk b) s (bookOp who b 2)
def execFetch (who : Who) (b : Nat) (s : State) : Host.Outcome State Fault Refusal := act (whoOk who && bookOk b) s (bookOp who b 3)
def execReplica (who : Who) (b : Nat) (s : State) : Host.Outcome State Fault Refusal := act (whoOk who && bookOk b) s (bookOp who b 4)
def execCkptRestore (who : Who) (b : Nat) (s : State) : Host.Outcome State Fault Refusal := act (whoOk who && bookOk b) s (bookOp who b 5)
def execBookRelease (who : Who) (b : Nat) (s : State) : Host.Outcome State Fault Refusal := act (whoOk who && bookOk b) s (bookOp who b 6)

def execTrigger (who : Who) (s : State) : Host.Outcome State Fault Refusal := act (whoOk who) s (regCommand who (aDat 8) 4 1)
def execFabricDatum (who : Who) (s : State) : Host.Outcome State Fault Refusal := act (whoOk who) s (regCommand who (aDat 8) 4 2)
def execRequestedReset (who : Who) (s : State) : Host.Outcome State Fault Refusal := act (whoOk who) s (regCommand who (aFlt 0x38) 4 1)
def execTileEn (who : Who) (value : Word) (s : State) : Host.Outcome State Fault Refusal :=
  act (whoOk who) s (regCommand who (aPwrc 0x18) 8 value.toNat)

end Sys2Proof.Machine
end

