-- ==== Sys2Proof/Machine/Custom.lean ====
section
/-!
DEFINITION. The stewards' custom instructions (R103–R117, R199, R350, R351): messages, host queues, work issue, fences, waypoints, marks.
Where two events arise from one instruction, the one listed first in Table 3-6 is taken (R122).
-/

namespace Sys2Proof.Machine

/-! ### Operands -/

/-- What keeps a buffer at a steward address from being used (R95, R104). -/
inductive BufState where
  | ok (off : Nat)
  | outside
  | misaligned
  deriving DecidableEq, Repr

/-- A 64-byte buffer for a load or a store. -/
def bufAt (s : State) (t n : Nat) (k : PmpAccess) (a : Nat) : BufState :=
  let x := stOf s t n
  match (if pmpAllows x (dataMode x) k a 64 then spdOnly t a 64 else none) with
  | none => .outside
  | some o => if a % 64 = 0 then .ok o else .misaligned

def badOperand (t n v : Nat) (s : State) : State := stTrap t n 25 v none s

/-- The context of the steward's tile. -/
def stCtx (s : State) (t : Nat) : Nat := (tileCtx s t).getD 0

/-! ### MSEND and MRECV (R105, R106, Table 3-3) -/

/-- A selector's format holds. -/
def selOk (v : Nat) (send : Bool) : Bool :=
  let target := fld v 4 0
  decide (fld v 63 44 = 0 ∧ fld v 23 23 = 0 ∧ fld v 15 5 = 0 ∧ target < 20)
    && (if send then (if target < 16 then decide (fld v 31 24 = 0) else decide (fld v 31 24 ≤ 56))
        else decide (fld v 43 24 = 0 ∧ fld v 22 16 = 0))

/-- The message leaves: it waits at a tile of this module, or a MSG packet carries it. -/
def sendMessage (t n sel off : Nat) (s : State) : State :=
  let c := stCtx s t
  let dev := fld sel 43 32
  let tile := fld sel 22 16
  let target := fld sel 4 0
  let len := fld sel 31 24
  let bytes := spdRead (portView t (portSt n) s) t off 64
  let s := portTake t (portSt n) off 64 s
  let data := if target < 16 then bytes else fitBytes 64 (bytes.take len)
  let key := ((n * 4096 + dev) * 128 + tile) * 4 + (target - 16)
  let seq := if target < 16 then 0 else (tget (tileOf s t).sendSeq key).getD 0
  let s := if target < 16 then s else modTile t (fun x => { x with sendSeq := tset 0 x.sendSeq key ((seq + 1) % 65536) }) s
  let (id, s) := freshId s
  let s := modSt t n (fun x => { x with send := .pending id }) s
  if dev = ownDev s then
    let m : Message := { id := id, target := target, srcDev := dev, srcTile := t, srcSt := n, srcRank := (ctxOf s c).rank, len := len, seq := seq,
                         data := data, port := none, hdr := 0 }
    tilesPass 64 t tile (modTile tile (fun x => { x with msgs := x.msgs ++ [m] }) s)
  else
    let e := tget (ctxOf s c).jobMap dev
    let s := match routePort s (ownDev s) dev with
      | some p => flitCount 0 (aRtr t 0x08) 64 (diesPass 64 (dieRoute (tileDie t) (portDie p)) s)
      | none => s
    let s := { s with accs := s.accs ++ [{ id := id, origin := .msg, ctx := c, gen := (ctxOf s c).gen, addr := gAt dev 0, op := .write [], stage := .remote }] }
    sendPacket (mkPacket s { opc := 8, vc := 0, dst := dev, ctx := (e.map (·.ctx)).getD 0, gen := (e.map (·.gen.toNat)).getD 0, tile := t, st := n,
                             rank := (ctxOf s c).rank, tag := id, op := target + len <<< 8 + tile <<< 16 + seq <<< 32 } data) s

/-- MSEND. -/
def stMsend (t n w _len _raw : Nat) (s : State) : State :=
  let x := stOf s t n
  let sel := gprOf x (rvRs1 w)
  let buf := gprOf x (rvRs2 w)
  let c := stCtx s t
  let dev := fld sel 43 32
  match x.send with
  | .pending _ => s
  | .answered 0 => stDone t n 4 (rvRd w) 0 s
  | .answered 6 => stDone t n 4 (rvRd w) 1 s
  | .answered _ => stTrapOp t n 7 sel (2, 7) s
  | .none =>
    let b := bufAt s t n .load buf
    if b = .outside then stTrap t n 5 buf (some (1, 3)) s
    else if dev ≠ ownDev s ∧ (tget (ctxOf s c).jobMap dev).isNone then stTrapOp t n 7 sel (1, 4) s
    else if dev = ownDev s ∧ bit (ctxTiles s c) (fld sel 22 16) = false then stTrapOp t n 7 sel (1, 3) s
    else if !selOk sel true then badOperand t n sel s
    else match b with
      | .ok o =>
        match firstUe s t [(o, 64)] with
        | some u => stUe t n 2 u s
        | none => sendMessage t n sel o (stWait t n .msend w s)
      | _ => badOperand t n buf s

/-- MRECV. -/
def stMrecv (t n w _len _raw : Nat) (s : State) : State :=
  let x := stOf s t n
  let sel := gprOf x (rvRs1 w)
  let buf := gprOf x (rvRs2 w)
  let m := fld sel 4 0
  let q := m - 16
  let on := if m < 16 then bit (regRaw s (aMbox t m)) 1 else bit (regRaw s (aMq t q 8)) 8
  let depth := 2 ^ fld (regRaw s (aMq t q 8)) 3 0
  let head := regRaw s (aMq t q 0x10)
  let ready := if m < 16 then bit (regRaw s (aMbox t m)) 0 else decide (head ≠ regRaw s (aMq t q 0x18))
  let src := fld (regRaw s (aMq t q 0)) 22 6 <<< 6 + 64 * (head % depth)
  match bufAt s t n .store buf with
  | .outside => stTrap t n 7 buf (some (1, 3)) s
  | .misaligned => badOperand t n (if selOk sel false then buf else sel) s
  | .ok o =>
    if !portMayWrite s t (portSt n) o (List.replicate 64 0) then stTrap t n 7 buf (some (1, 7)) (portTake t (portSt n) o 64 s)
    else if !selOk sel false || !on then badOperand t n sel s
    else if !ready then stWait t n .mrecv w s
    else if m < 16 then
      let d := (regWords s (aTile t 9 (0x40 * m)) 8).flatMap (fun v => toBytes 8 v)
      stDone t n 4 (rvRd w) 0 (regMod (aMbox t m) (fun v => setBit v 0 false) (portStore t (portSt n) o d s))
    else match firstUe s t [(src, 64)] with
      | some u => stUe t n 2 u s
      | none =>
        let d := spdRead (portView t (portSt n) s) t src 64
        stDone t n 4 (rvRd w) (ofBytes (d.take 8)) (regPut (aMq t q 0x10) ((head + 1) % (2 * depth)) (portStore t (portSt n) o d s))

/-! ### QPUSH and QPOP (R107, R422, R423, R581) -/

/-- The queue is enabled, in HBM, of 64-byte entries and bound to the context; a submission queue is bound to the tile. -/
def queueServes (s : State) (t : Nat) (q : Queue) (push : Bool) : Bool :=
  !q.error && !q.big && !q.host && q.bound && q.ctx == stCtx s t
    && (if push then q.kind != .submission else q.kind == .submission && q.tile == t)

/-- QPUSH. -/
def stQpush (t n w _len _raw : Nat) (s : State) : State :=
  let x := stOf s t n
  let id := gprOf x (rvRs1 w)
  let buf := gprOf x (rvRs2 w)
  let b := bufAt s t n .load buf
  if b = .outside then stTrap t n 5 buf (some (1, 3)) s
  else if fld id 15 12 ≠ (ctxOf s (stCtx s t)).func then stTrapOp t n 7 id (1, 3) s
  else if fld id 63 16 ≠ 0 then badOperand t n id s
  else match b, qOf s (id % 65536) with
    | .ok o, some q =>
      if !queueServes s t q true then badOperand t n id s
      else match firstUe s t [(o, 64)] with
        | some u => stUe t n 2 u s
        | none =>
          if qFull q then stWait t n .qpush w s
          else
            let s := qProduce (tileDie t) (stCtx s t) (id % 65536) (spdRead (portView t (portSt n) s) t o 64) (portTake t (portSt n) o 64 s)
            if (match qOf s (id % 65536) with | some q => q.error | none => true) then badOperand t n id s else stDone t n 4 (rvRd w) 0 s
    | .ok _, none => badOperand t n id s
    | _, _ => badOperand t n buf s

/-- QPOP. -/
def stQpop (t n w _len _raw : Nat) (s : State) : State :=
  let x := stOf s t n
  let id := gprOf x (rvRs1 w)
  let buf := gprOf x (rvRs2 w)
  let k := id % 65536
  if fld id 15 12 ≠ (ctxOf s (stCtx s t)).func then stTrapOp t n 5 id (1, 3) s
  else match bufAt s t n .store buf with
    | .outside => stTrap t n 7 buf (some (1, 3)) s
    | .misaligned => badOperand t n (if fld id 63 16 = 0 then buf else id) s
    | .ok o =>
      if !portMayWrite s t (portSt n) o (List.replicate 64 0) then stTrap t n 7 buf (some (1, 7)) (portTake t (portSt n) o 64 s)
      else match (if fld id 63 16 = 0 then qOf s k else none) with
        | none => badOperand t n id s
        | some q =>
          let a := qAddr q q.ci
          if !queueServes s t q false then badOperand t n id s
          else if qCount q = 0 then stWait t n .qpop w s
          else if !memAvailable s a 64 then badOperand t n id (qFail k q a s)
          else if lineOpen s a 64 then s
          else if (memPoisoned s a 64).isSome then stStopAs t n 2 (3, 6) (some a) s
          else
            let s := chargeWork (tileDie t) (stCtx s t) a 64 s
            stDone t n 4 (rvRd w) 0 (portStore t (portSt n) o (hbmRead s a 64) (setQ k { q with ci := qAdd q q.ci 1 } s))

/-! ### ISSUE, WAITC, VXRUN (R108–R112, R199, R200) -/

/-- A unit selector's format holds (Table 3-4). -/
def unitOk (v : Nat) (wait : Bool) : Bool :=
  let u := fld v 3 0
  decide (fld v 63 5 = 0 ∧ u < 4) && (wait || decide (u ≠ 3)) && (decide (u < 2) || decide (fld v 4 4 = 0))

/-- Completion count and stop of the unit that a selector names, and what was released on it. -/
def unitCount (s : State) (t v : Nat) : BitVec 32 × BitVec 32 × Bool :=
  match fld v 3 0 with
  | 2 => ((cpyOf s t).count, (cpyOf s t).released, (cpyOf s t).stopped)
  | 3 => ((vxeOf s t).count, (vxeOf s t).queued, (vxeOf s t).stopped)
  | u => let x := strOf (maOf s t u) (fld v 4 4); (x.count, x.released, x.stopped)

/-- n descriptors of a size from an offset, the part beyond the end of the scratchpad from its start (R162). -/
def releasedRuns (off n size ord : Nat) : List Released :=
  let m := min n ((spdSize - off) / size)
  if m = n then [{ off := off, n := n, ord := ord }] else [{ off := off, n := m, ord := ord }, { off := 0, n := n - m, ord := ord + m }]

/-- Release n descriptors of a stream. -/
def release (t v n : Nat) (s : State) : State :=
  let u := fld v 3 0
  let st := fld v 4 4
  if u = 2 then
    let h := regRaw s (aTile t 6 0)
    regPut (aTile t 6 0) ((h + 32 * n) % spdSize) (modCpy t (fun c => { c with
      queue := c.queue ++ releasedRuns h n 32 0, released := c.released + BitVec.ofNat 32 n }) s)
  else
    let a := aTile t (2 + u) (8 * st)
    let h := regRaw s a
    regPut a ((h + 64 * n) % spdSize) (modMa t u (fun m =>
      { modStr st (fun y => { y with
          queue := y.queue ++ releasedRuns h n 64 m.ordNext, released := y.released + BitVec.ofNat 32 n }) m with ordNext := m.ordNext + n }) s)

/-- ISSUE. -/
def stIssue (t n w _len _raw : Nat) (s : State) : State :=
  let x := stOf s t n
  let v := gprOf x (rvRs1 w)
  let k := gprOf x (rvRs2 w)
  if !unitOk v false then badOperand t n v s
  else if k = 0 ∨ 65535 < k then badOperand t n k s
  else
    let (count, rel, _) := unitCount s t v
    if 2 ^ 24 < (rel - count).toNat + k then stWait t n .issue w s
    else stDone t n 4 (rvRd w) (rel + BitVec.ofNat 32 k).toNat (release t v k s)

/-- WAITC. -/
def stWaitc (t n w _len _raw : Nat) (s : State) : State :=
  let x := stOf s t n
  let v := gprOf x (rvRs1 w)
  let tk := gprOf x (rvRs2 w)
  if !unitOk v true then badOperand t n v s
  else
    let (count, _, stopped) := unitCount s t v
    if 0 ≤ sgn 32 (count - BitVec.ofNat 32 tk).toNat then stDone t n 4 (rvRd w) 0 s
    else if stopped then stDone t n 4 (rvRd w) 1 s
    else stWait t n .waitc w s

/-- VXRUN. -/
def stVxrun (t n w _len _raw : Nat) (s : State) : State :=
  let x := stOf s t n
  let v1 := gprOf x (rvRs1 w)
  let v2 := gprOf x (rvRs2 w)
  if fld v1 63 13 ≠ 0 then badOperand t n v1 s
  else if fld v2 63 48 ≠ 0 ∨ fld v2 31 23 ≠ 0 ∨ fld v2 5 0 ≠ 0 then badOperand t n v2 s
  else if 4 ≤ (vxeOf s t).runs.length then stWait t n .vxrun w s
  else
    let off := fld v2 22 0
    let r : VRun := { start := fld v1 12 0, iterM1 := fld v2 47 32, arg := BitVec.ofNat 512 (ofBytes (spdRead s t off 64)),
                      argUe := firstUe s t [(off, 64)] }
    let q := (vxeOf s t).queued + 1
    let s := match r.argUe with | some u => unitUe t portVec u s | none => s
    stDone t n 4 (rvRd w) q.toNat (modVxe t (fun y => { y with runs := y.runs ++ [r], queued := q }) s)

/-! ### Fences (R113, R350, R351) -/

/-- Descriptors completed when the fence issued: a fence that waits keeps its mark. -/
def fenceMark (s : State) (t n : Nat) : Nat :=
  let x := stOf s t n
  if x.run = .waiting then x.fenceMark else (cpyOf s t).doneTo

/-- A fence that must wait: the mark is kept. -/
def fenceWait (t n : Nat) (k : WaitKind) (w mark : Nat) (s : State) : State :=
  modSt t n (fun x => { x with fenceMark := mark }) (stWait t n k w s)

/-- FENCE.L: the steward's own accesses are performed one at a time, and so its condition holds. -/
def stFenceL (t n _w len _raw : Nat) (s : State) : State := stDone t n len 0 0 s

/-- FENCE.D and FENCE.F. -/
def stFenceCopies (far : Bool) (t n w len _raw : Nat) (s : State) : State :=
  let m := fenceMark s t n
  if postedBefore s t m far then fenceWait t n .fence w m s else stDone t n len 0 0 s

/-- Tile t's ST0 waits at the next job waypoint already. -/
def atJobWaypoint (s : State) (t : Nat) : Bool :=
  let x := ctxOf s (stCtx s t)
  x.arrived.contains t && (match x.next with | .at i => (match x.wps[i]? with | some e => isJob e.kind | none => false) | _ => false)

/-- FENCE.G, of ST1: the next job waypoint counts as not reached until the condition of FENCE.F holds; it completes after the release. -/
def stFenceG (t n w len raw : Nat) (s : State) : State :=
  if n = 0 then illegal t n raw s
  else
    let c := stCtx s t
    let m := fenceMark s t n
    let s := if (stOf s t n).run = .waiting then s
      else modSt t n (fun x => { x with fenceJob := (ctxOf s c).jobRels, fenceGate := !atJobWaypoint s t }) (fenceWait t n .fenceG w m s)
    let x := stOf s t n
    if postedBefore s t m true then s
    else
      let s := if x.fenceGate then wpTouch c (modSt t n (fun x => { x with fenceGate := false }) s) else s
      if x.fenceJob < (ctxOf s c).jobRels then stDone t n len 0 0 s else s

/-! ### WAYPOINT, PMARK, DATUM (R114–R116) -/

/-- WAYPOINT, of ST0. -/
def stWaypoint (t n w _len raw : Nat) (s : State) : State :=
  let x := stOf s t n
  let v := gprOf x (rvRs1 w)
  let c := stCtx s t
  if n ≠ 0 then illegal t n raw s
  else if x.run = .waiting then s
  else if fld v 63 16 ≠ 0 then badOperand t n v s
  else if !wpAllowed (ctxOf s c) v || decide ((ctxOf s c).wps.length ≤ v) then stStop t n 4 none s
  else wpReach c t v (stWait t n .waypoint w s)

/-- PMARK. -/
def stPmark (t n w len _raw : Nat) (s : State) : State :=
  let v := gprOf (stOf s t n) (rvRs1 w)
  if fld v 63 8 ≠ 0 then badOperand t n v s else stDone t n len 0 0 (phaseMark t n v s)

/-- DATUM. -/
def stDatum (t n _w len _raw : Nat) (s : State) : State := stDone t n len 0 0 (trigger 1 (now s + 64) (regCount (aDat 0x30) 1 s))

/-! ### Commands -/

def execMsend (t n : Nat) (s : State) : Host.Outcome State Fault Refusal := act (tileOk t && decide (n < 2)) s (stOwn .msend t n stMsend)
def execMrecv (t n : Nat) (s : State) : Host.Outcome State Fault Refusal := act (tileOk t && decide (n < 2)) s (stOwn .mrecv t n stMrecv)
def execQpush (t n : Nat) (s : State) : Host.Outcome State Fault Refusal := act (tileOk t && decide (n < 2)) s (stOwn .qpush t n stQpush)
def execQpop (t n : Nat) (s : State) : Host.Outcome State Fault Refusal := act (tileOk t && decide (n < 2)) s (stOwn .qpop t n stQpop)
def execIssue (t n : Nat) (s : State) : Host.Outcome State Fault Refusal := act (tileOk t && decide (n < 2)) s (stOwn .issue t n stIssue)
def execWaitc (t n : Nat) (s : State) : Host.Outcome State Fault Refusal := act (tileOk t && decide (n < 2)) s (stOwn .waitc t n stWaitc)
def execVxrun (t n : Nat) (s : State) : Host.Outcome State Fault Refusal := act (tileOk t && decide (n < 2)) s (stOwn .vxrun t n stVxrun)
def execFenceL (t n : Nat) (s : State) : Host.Outcome State Fault Refusal := act (tileOk t && decide (n < 2)) s (stOwn .fenceL t n stFenceL)
def execFenceD (t n : Nat) (s : State) : Host.Outcome State Fault Refusal := act (tileOk t && decide (n < 2)) s (stOwn .fenceD t n (stFenceCopies false))
def execFenceF (t n : Nat) (s : State) : Host.Outcome State Fault Refusal := act (tileOk t && decide (n < 2)) s (stOwn .fenceF t n (stFenceCopies true))
def execFenceG (t n : Nat) (s : State) : Host.Outcome State Fault Refusal := act (tileOk t && decide (n < 2)) s (stOwn .fenceG t n stFenceG)
def execWaypoint (t n : Nat) (s : State) : Host.Outcome State Fault Refusal := act (tileOk t && decide (n < 2)) s (stOwn .waypoint t n stWaypoint)
def execPmark (t n : Nat) (s : State) : Host.Outcome State Fault Refusal := act (tileOk t && decide (n < 2)) s (stOwn .pmark t n stPmark)
def execDatum (t n : Nat) (s : State) : Host.Outcome State Fault Refusal := act (tileOk t && decide (n < 2)) s (stOwn .datum t n stDatum)

end Sys2Proof.Machine
end

