-- ==== Sys2Proof/Machine/Firmware.lean ====
section
/-!
DEFINITION. The service mailbox and its requests (R516–R518, R523–R525), the restart of a Compass core (R521, R522), and the Atlas write (R542).
-/

namespace Sys2Proof.Machine

/-! ### The request (Table 16-8) -/

/-- CMPS_REQ as a number. -/
def reqOf (s : State) : Nat := (List.range 32).foldl (fun v i => v + regRaw s (aCmps (0x100 + 8 * i)) <<< (64 * i)) 0

/-- Argument bits of a request (Table 16-9). -/
def reqArgs (op : Nat) : Nat :=
  match op with
  | 0x02 => mask 383 64
  | 0x03 => mask 127 64
  | 0x10 => mask 159 64
  | 0x11 => mask 71 64
  | 0x12 => mask 95 64
  | 0x13 => mask 191 128 + mask 79 64
  | _ => 0

def knownOps : List Nat := [0x01, 0x02, 0x03, 0x10, 0x11, 0x12, 0x13]

/-- A reserved bit of the request is set: outside OP, TAG and the arguments. -/
def reqReserved (v : Nat) : Bool :=
  decide (Nat.land v (2 ^ 2048 - 1 - (mask 31 16 + mask 7 0 + reqArgs (fld v 7 0))) ≠ 0)

/-- A request is in progress, the boot core runs, and no response waits. -/
def reqOpen (s : State) : Bool :=
  bit (regRaw s (aCmps 8)) 0 && s.compass.busy && s.compass.answer.isNone && coreRuns s 0

/-- A response: OP and TAG echoed, STATUS, results from bit 64 on. -/
def response (v status results : Nat) : List Byte :=
  toBytes 256 (fld v 7 0 + status <<< 8 + (fld v 31 16) <<< 16 + results <<< 64)

/-- The boot core serves the request: one trace point as it begins, and the response that SERVICE_RESPONSE writes. -/
def serve (op : Nat) (f : Nat → State → Nat × Nat × State) (s : State) : State :=
  let v := reqOf s
  if !reqOpen s || decide (fld v 7 0 ≠ op) then s
  else
    let s := trace 0 0 op (fld v 31 16) s
    if reqReserved v then { s with compass := { s.compass with answer := some (response v 2 0) } }
    else
      let (status, results, s) := f v s
      { s with compass := { s.compass with answer := some (response v status results) } }

/-- [a, a + n) is 64-byte aligned and lies inside F0's queue range. -/
def serviceRange (s : State) (a n : Nat) : Bool :=
  let r := qmemRange s 0
  decide (a % 64 = 0 ∧ r.1 ≤ a ∧ a + n ≤ r.2)

/-- Results are written at OUT, where memory can be (R325). -/
def putOut (a : Nat) (d : List Byte) (s : State) : State := if memAvailable s a d.length then ownWrite dieE0 16 a d s else s

/-! ### Identity (R523–R525) -/

/-- The certificate's bytes: the DER value at the start of the identity region, by its own header; none where there is none. -/
def certificate (s : State) : List Byte :=
  let h := flashRead s 0x10000 4
  let b (i : Nat) : Nat := (h.getD i 0).toNat
  let n := if b 0 ≠ 0x30 then 0
    else if b 1 < 0x80 then 2 + b 1
    else if b 1 = 0x81 then 3 + b 2
    else if b 1 = 0x82 then 4 + b 2 * 256 + b 3
    else 0
  flashRead s 0x10000 (min n 0x30000)

/-- The identity key. -/
def identityKey (s : State) : Nat := privateKey (toBytes 32 s.fuses.secret.toNat)

/-- IDENTITY: serial, stepping A1, base MAC, public key, certificate length. -/
def identityReq (_ : Nat) (s : State) : Nat × Nat × State :=
  (0, s.fuses.serial.toNat + 1 <<< 64 + s.fuses.baseMac.toNat <<< 80 + ofBytes (publicKey (identityKey s)) <<< 128
    + (certificate s).length <<< 640, s)

/-- Report bytes 0–319 (Table 16-14). -/
def reportBody (nonce : Nat) (s : State) : List Byte :=
  let m := s.compass.manifest.toNat
  let pos := regRaw s (aBlw 0 0x8000)
  let c := regRaw s (aCmps 0)
  let keyHash := ofBytes (sha256 (manBytes m 1535 1024))
  toBytes 320 (0x54414E57 + 1 <<< 32 + s.fuses.serial.toNat <<< 64 + 1 <<< 128 + s.compass.booted <<< 136 + (fld pos 27 16) <<< 160
    + (fld pos 31 31) <<< 172 + manSvn m <<< 192 + s.fuses.fsvn <<< 224 + manVersion m <<< 256
    + (fld (regRaw s (aFlt 8)) 31 0) <<< 288 + now s <<< 320 + (fld c 2 2) <<< 448 + (recPend (bootRecord s).2).toNat <<< 449
    + nonce <<< 512 + Config.romHash.toNat <<< 768 + (fld m 767 512) <<< 1024 + (fld m 1023 768) <<< 1280
    + keyHash <<< 1536)

/-- ATTEST: the report with its signature at OUT. -/
def attestReq (v : Nat) (s : State) : Nat × Nat × State :=
  let out := fld v 127 64
  if serviceRange s out 384 then
    let d := reportBody (fld v 383 128) s
    (0, 0, putOut out (d ++ ecdsaSign (identityKey s) (sha256 d)) s)
  else (3, 0, s)

/-- CERT_READ. -/
def certReq (e : FlashEnd) (v : Nat) (s : State) : Nat × Nat × State :=
  let d := certificate s
  if !serviceRange s (fld v 127 64) d.length then (3, 0, s)
  else match e with
    | .ok => (0, d.length <<< 64, putOut (fld v 127 64) d s)
    | .error => (5, 0, s)

/-! ### Updates (R516) -/

/-- The boot core's write of the boot record is one flash operation; a failed one leaves the other copy bad. -/
def recordBy (e : FlashEnd) (f : State → State) (s : State) : State :=
  let o := 0x8000 * (1 - (bootRecord s).1)
  trace 0 2 o 64 (match e with | .ok => f s | .error => flashErase o (o + 64) s)

/-- The flash sectors of a slot are erased and programmed in order. -/
def sectorTraces (base n : Nat) (s : State) : State :=
  (List.range n).foldl (fun s i => trace 0 2 (base + 0x10000 * i) 0x10000 (trace 0 2 (base + 0x10000 * i) 0x10000 s)) s

/-- STAGE: the slot that is not ACTIVE is erased, the image is written there, and the slot is checked. -/
def stageReq (e : FlashEnd) (v : Nat) (s : State) : Nat × Nat × State :=
  let src := fld v 127 64
  let len := fld v 159 128
  if flashSlotSize < len then (2, 0, s)
  else if !serviceRange s src len then (3, 0, s)
  else
    let r := (bootRecord s).2
    let i := 1 - recActive r
    let s := if recPend r && decide (recPendSlot r = i) then recordBy .ok clearPending s else s
    let s := flashErase (flashSlot i) (flashSlot i + flashSlotSize) s
    match e with
    | .error => (5, 0, trace 0 2 (flashSlot i) 0x10000 s)
    | .ok =>
      let s := sectorTraces (flashSlot i) 512 (flashWrite (flashSlot i) (hbmRead s src len) (chargeWork dieE0 16 src len s))
      let m := manifestOf s i
      if slotValid s i then (0, i <<< 96 + manSvn m <<< 128 + manVersion m <<< 160, s) else (4, 0, s)

/-- SELECT. -/
def selectReq (e : FlashEnd) (v : Nat) (s : State) : Nat × Nat × State :=
  let i := fld v 71 64
  let r := (bootRecord s).2
  let code (n : Nat) : Nat := match e with | .ok => n | .error => 5
  if i = 0xFF then (if recPend r then (code 0, 0, recordBy e clearPending s) else (0, 0, s))
  else if 1 < i then (2, 0, s)
  else if i = recActive r ∨ slotValid s i = false then (6, 0, s)
  else (code 0, 0, recordBy e (writeRecord (recActive r) true i 0) s)

/-- COMMIT_SVN. -/
def commitReq (v : Nat) (s : State) : Nat × Nat × State :=
  let n := fld v 95 64
  let r := (bootRecord s).2
  if manSvn (manifestOf s (recActive r)) < n ∨ n < s.fuses.fsvn then (6, 0, s)
  else
    let s := { s with fuses := { s.fuses with fsvn := n } }
    let s := if recPend r && decide (manSvn (manifestOf s (recPendSlot r)) < n) then recordBy .ok clearPending s else s
    (0, n <<< 32, s)

/-- LEGEND_READ: the table that the boot applied. -/
def legendReq (v : Nat) (s : State) : Nat × Nat × State :=
  let img := s.compass.legendImg
  match (legendDir img).bind (fun es => legendTable img es (fld v 79 64)) with
  | none => (2, 0, s)
  | some d => if serviceRange s (fld v 191 128) d.length then (0, d.length <<< 128, putOut (fld v 191 128) d s) else (3, 0, s)

/-- SERVICE_RESPONSE's effect: CMPS_RSP is written whole, then GO and BUSY clear. A reserved OP, and a FAILED core, are answered here. -/
def serviceResponse (s : State) : State :=
  let v := reqOf s
  if !(bit (regRaw s (aCmps 8)) 0 && s.compass.busy) then s
  else
    let answer := if coreState s 0 = 2 then some (response v 7 0)
      else if !coreRuns s 0 then none
      else if !knownOps.contains (fld v 7 0) then some (response v 1 0)
      else s.compass.answer
    match answer with
    | none => s
    | some d =>
      let s := if (d.getD 1 0).toNat = 1 then trace 0 0 (fld v 7 0) (fld v 31 16) s else s
      let s := trace 0 1 (d.getD 1 0).toNat 0 s
      let s := regPutWords (aCmps 0x200) (words64 (ofBytes d) 32) s
      regFld (aCmps 0) 0 0 0 (regPut (aCmps 8) 0 { s with compass := { s.compass with busy := false, answer := none } })

/-! ### Restarts (R521, R522) -/

/-- Three restarts counted within 600 s degrade the firmware, once (DEDUCED: log entry 34). -/
def degrade (s : State) : State :=
  let recent := s.compass.restarts.filter (fun t => decide (now s < t + 600000000000))
  if 3 ≤ recent.length ∧ bit (regRaw s (aCmps 0)) 2 = false then
    let s := regFld (aCmps 0) 2 2 1 s
    { s with faults := s.faults ++ [blankFault s 12 2 0x27 4] }
  else s

/-- A running core is taken into reset by the restart sequencer, with a cause; what it had in progress begins again. -/
def restartCore (c cause : Nat) (s : State) : State :=
  if coreState s c ≠ 0 then s
  else
    let s := regMod (aCmps (0x20 + 4 * c)) (fun v => setFld (setFld (setFld v 23 16 cause) 15 8 (satAdd 8 (fld v 15 8) 1)) 1 0 1) s
    let s := regFld (aCmps 0) (8 + c) (8 + c) 0 (regCount (aCmps 0x10) 1 s)
    let s := { s with compass := { s.compass with
      answer := if c = 0 then none else s.compass.answer
      restarts := s.compass.restarts ++ [now s] } }
    let s := healthCount 10 1 (atlCount 0x50 1 s)
    degrade (raise (withDetail (c + cause <<< 2) (blankFault s 12 1 0x27 4)) s)

/-- Erasures that waited for the memory manager (Table 16-13). -/
def markWaiting (s : State) : State :=
  (List.range 20).foldl (fun s k =>
    (stackOf s k).corrected.foldl (fun s (e : Nat × Nat) =>
      let p := e.1 / 64
      let b := fld (regRaw s (aHbmc k (0x40 + 8 * (p / 8)))) (8 * (p % 8) + 7) (8 * (p % 8))
      if s.legend.erase < e.2 ∧ bit b 7 = false then markErased k p (e.1 % 64) s else s) s) s

/-- RESTART_END's effect: the core is RUNNING, or FAILED until the next chip reset. -/
def restartEnd (c : Nat) (ok : Bool) (s : State) : State :=
  if coreState s c ≠ 1 then s
  else if ok then
    let s := regFld (aCmps 0) (8 + c) (8 + c) 1 (regFld (aCmps (0x20 + 4 * c)) 1 0 0 s)
    if c = 1 then electRoot s else if c = 2 then markWaiting s else s
  else regFld (aCmps (0x20 + 4 * c)) 1 0 2 s

/-- ATLAS_WRITE's effect: the boot core writes the next record; while it restarts, the write waits. -/
def atlasWrite (e : FlashEnd) (s : State) : State := if coreRuns s 0 then atlasStore e s else s

/-! ### Commands -/

def execIdentity (s : State) : Host.Outcome State Fault Refusal := act true s (serve 0x01 identityReq)
def execAttest (s : State) : Host.Outcome State Fault Refusal := act true s (serve 0x02 attestReq)
def execCertRead (flash : FlashEnd) (s : State) : Host.Outcome State Fault Refusal := act true s (serve 0x03 (certReq flash))
def execStage (flash : FlashEnd) (s : State) : Host.Outcome State Fault Refusal := act true s (serve 0x10 (stageReq flash))
def execSelect (flash : FlashEnd) (s : State) : Host.Outcome State Fault Refusal := act true s (serve 0x11 (selectReq flash))
def execCommitSvn (s : State) : Host.Outcome State Fault Refusal := act true s (serve 0x12 commitReq)
def execLegendRead (s : State) : Host.Outcome State Fault Refusal := act true s (serve 0x13 legendReq)
def execServiceResponse (s : State) : Host.Outcome State Fault Refusal := act true s serviceResponse
def execCoreWatchdog (core : Nat) (s : State) : Host.Outcome State Fault Refusal := act (decide (core < 4)) s (restartCore core 1)
def execCoreRestart (core cause : Nat) (s : State) : Host.Outcome State Fault Refusal :=
  act (decide (core < 4 ∧ 2 ≤ cause ∧ cause ≤ 4)) s (restartCore core cause)
def execRestartEnd (core : Nat) (ok : Bool) (s : State) : Host.Outcome State Fault Refusal := act (decide (core < 4)) s (restartEnd core ok)
def execAtlasWrite (flash : FlashEnd) (s : State) : Host.Outcome State Fault Refusal := act true s (atlasWrite flash)

end Sys2Proof.Machine
end

