-- ==== Sys2Proof/Machine/Live.lean ====
section
/-!
DEFINITION. The live fields of the tensor table after a commit (R247, R251, R252, R255).
-/

namespace Sys2Proof.Machine

/-- split of R251: exponent and 24-bit significand of a positive FP32 pattern. -/
def splitF32 (v : Nat) : Int × Nat :=
  let ex := fld v 30 23
  let mm := v % 2 ^ 23
  if ex = 0 then
    let k := 23 - Nat.log2 mm
    (1 - (k : Int) - 127, mm <<< k)
  else ((ex : Int) - 127, mm + 2 ^ 23)

/-- An exponent limited to −126 to 126. -/
def limit126 (x : Int) : Int := if x < -126 then -126 else if 126 < x then 126 else x

/-- scale_exponent of R251. -/
def scaleExponent (f a margin : Nat) : Int :=
  let (fe, fm) := splitF32 f
  let (ae, am) := splitF32 a
  limit126 (fe - ae - (if fm < am then 1 else 0) - margin)

/-- Largest finite value of FMT. -/
def fmtLargest (fmt : Nat) : Nat := if fmt = 0 then 0x43E00000 else if fmt = 1 then 0x47600000 else 0x477FE000

/-- The entry of a KIND 1 tensor after step n (R252), from its record's ELEMS and AMAX. -/
def liveScaled (e elems amax n : Nat) : Nat :=
  if elems = 0 then e
  else
    let au := amaxBits (nscale (-(sgn 8 (fld e 39 32))) (f32 amax))
    let h := fld e 51 48
    let e := setFld e (512 + 32 * h + 31) (512 + 32 * h) au
    let hv := min 16 (fld e 44 40 + 1)
    let e := setFld (setFld (setBit e 52 false) 51 48 ((h + 1) % 16)) 44 40 hv
    let ah := (List.range hv).foldl (fun m i => max m (fld e (512 + 32 * i + 31) (512 + 32 * i))) 0
    let e := setFld e 127 64 n
    if ah = 0 then e else setFld e 39 32 (wrap 8 (scaleExponent (fmtLargest (fld e 7 4)) ah (fld e 13 11)))

/-- The entry of a KIND 2 tensor after step n (R255). -/
def liveUpdate (ut : Int) (e elems nonfin amax n : Nat) : Nat :=
  if elems = 0 ∨ nonfin ≠ 0 ∨ amax = 0 then e
  else
    let u := sgn 8 (fld e 39 32)
    let u' := limit126 (ut - ((splitF32 amax).1 - u))
    if u' = u then e else setFld (setFld e 39 32 (wrap 8 u')) 127 64 n

/-- The job's maximum of the k-th tensor with SCOPE 1, from the lines that came back (R384). -/
def jobAmax (x : Ctx) (k : Nat) : Option Nat := (tget x.jobMax (k / 16)).map (fun d => ofBytes ((d.drop (4 * (k % 16))).take 4))

/-- Actions 3 and 4 of R247 for tensor i of context c: AMAX becomes the job's maximum for SCOPE 1, then the live fields follow. -/
def liveEntry (c : Nat) (tk : TensorKept) (n : Nat) (known : List Nat) (i : Nat) (s : State) : State :=
  let r := recAddr tk (n % 2) i
  let a := entryAddr tk i
  let e := ofBytes (hbmRead s a 128)
  let own := ofBytes (hbmRead s (r + 40) 4)
  let job := if bit e 9 then (jobAmax (ctxOf s c) (known.idxOf i)).getD own else own
  let s := if job = own then s else hbmWrite (r + 40) (toBytes 4 job) s
  let elems := ofBytes (hbmRead s r 8)
  let nonfin := ofBytes (hbmRead s (r + 32) 8)
  let e' := if fld e 3 0 = 1 then liveScaled e elems job n
    else if fld e 3 0 = 2 then liveUpdate tk.ut e elems nonfin job n
    else e
  if e' = e then s else hbmWrite a (toBytes 128 e') s

/-- The job's maximum is in place: every line of it came back. -/
def amaxHere (s : State) (c : Nat) (known : List Nat) : Bool := decide ((known.length + 15) / 16 ≤ (ctxOf s c).jobMax.length)

/-- LIVE_FIELD_UPDATE's effect: actions 3 to 5 of R247 for the step whose COMMIT was released last. They end at the tick, which the spec does not
give (DESIGN CHOICE: log entry 3). -/
def liveFieldUpdate (c tick : Nat) (s : State) : State :=
  let x := ctxOf s c
  match x.tensors with
  | none => s
  | some tk =>
    let known := scopeOne s tk
    if x.liveDone || !amaxHere s c known || !(x.state == .running || x.state == .held || x.state == .done) then s
    else
      let n := (stepOf s c + (2 ^ 64 - 1)) % 2 ^ 64
      let s := chargeWork dieE0 c tk.addr (64 + 128 * tk.nt) (advanceTo tick s)
      let s := (List.range tk.nt).foldl (fun s i => liveEntry c tk n known i s) s
      let b := bankAddr tk (n % 2)
      let out := fld (ofBytes (hbmRead s b 64)) 127 96
      let s := hbmWrite b (toBytes 64 (n + tk.nt <<< 64 + 1 <<< 80 + out <<< 96)) s
      wpTouch c (bookLiveDone c (modCtx c (fun x => { x with liveDone := true }) s))

def execLiveFieldUpdate (c tick : Nat) (s : State) : Host.Outcome State Fault Refusal := act (ctxOk c) s (liveFieldUpdate c tick)

end Sys2Proof.Machine
end

