-- ==== Sys2Proof/Machine/Roce.lean ====
section
/-!
DEFINITION. RoCEv2 as requester and responder (R419, R430–R432).
-/

namespace Sys2Proof.Machine

/-- A RoCEv2 packet goes to a queue pair: it is steered, its check value holds, and it comes from the queue pair's peer (R409, R430);
an ECN mark is answered by a congestion notification. -/
def roceIn (r : Roce) (f : Qp → State → State) (s : State) : State :=
  if !frameOk s r.frame then s
  else match steer s r.v6 r.dstIp r.vlan with
    | none => hostCount 0 s
    | some n =>
      match qpOf s r.qpn with
      | none => s
      | some x =>
        let v6 := decide (qpFld x 95 95 = 1)
        let peer := if v6 then qpFld x 319 192 else qpFld x 223 192
        if !r.icrcOk || decide (x.func ≠ n) || v6 != r.v6 || decide (r.srcIp.toNat ≠ peer) then s
        else
          let s := if r.ecn then hostCount 5 (sendRoce r.qpn .cnp s) else s
          f x s

/-- Answer a request of a queue pair. -/
def roceAnswer (n psn : Nat) (a : RoceAns) (s : State) : State :=
  let s := sendRoce n (.answer psn a) s
  match a with
  | .ack => s
  | _ => hostCount 4 s

/-- A PSN that was served already. -/
def pastPsn (x : Qp) (p : Nat) : Bool := decide ((x.expPsn + 2 ^ 24 - p) % 2 ^ 24 < 2 ^ 23)

/-- A request in its turn: the expected PSN goes on to f, one already served is acknowledged again, one ahead is out of sequence. -/
def inSequence (r : Roce) (x : Qp) (f : State → State) (s : State) : State :=
  if x.state ≠ .rtr ∧ x.state ≠ .rts then s
  else if r.psn = x.expPsn then f s
  else if pastPsn x r.psn then roceAnswer r.qpn r.psn .ack s
  else roceAnswer r.qpn x.expPsn .nakSequence s

/-- The queue pair expects the PSN n further on. -/
def psnOn (x : Qp) (n : Nat) : Qp := { x with expPsn := (x.expPsn + n) % 2 ^ 24 }

/-- Path MTU in bytes. -/
def qpMtu (x : Qp) : Nat := 128 <<< qpFld x 94 92

/-! ### Sends (R432) -/

/-- A kind of Send that is supported (Table 13-9a); immediate data has no use in the spec (DESIGN CHOICE: log entry 113). -/
def sendKind (k : RoceKind) : Bool :=
  match k with
  | .send | .immediate _ => true
  | .invalidate _ | .atomic => false

/-- ROCE_SEND's effect. -/
def roceSend (r : Roce) (s : State) : State :=
  roceIn r (fun x s => inSequence r x (fun s =>
    if !sendKind r.kind then roceAnswer r.qpn r.psn .nakInvalid (setQp r.qpn { psnOn x 1 with partBuf := [] } s)
    else
    let d := (if r.first then [] else x.partBuf) ++ r.pay
    if !r.last then roceAnswer r.qpn r.psn .ack (setQp r.qpn { psnOn x 1 with partBuf := d } s)
    else
      let done (s : State) : State := setQp r.qpn { psnOn x 1 with partBuf := [] } s
      let k := qKey x.func (qpFld x 399 388)
      if d.length % 64 ≠ 0 ∨ d = [] then roceAnswer r.qpn r.psn .nakInvalid (done s)
      else match qOf s k with
        | none => roceAnswer r.qpn r.psn .nakInvalid (done s)
        | some q =>
          if q.kind ≠ .submission ∨ q.host then roceAnswer r.qpn r.psn .nakInvalid (done s)
          else if q.error ∨ qDepth q < qCount q + d.length / 64 then roceAnswer r.qpn r.psn .rnr s
          else match appendEntries k q ((List.range (d.length / 64)).map (fun i => (d.drop (64 * i)).take 64)) s with
            | some s => roceAnswer r.qpn r.psn .ack (done s)
            | none => roceAnswer r.qpn r.psn .rnr (qFail k q (qAddr q q.pi) s)) s) s

/-! ### RDMA (R431) -/

/-- The region behind an rkey for a function: a registered one whose generation is current, or the queue range of the function. -/
def mrOf (s : State) (f : Nat) (rkey : Nat) : Option MemRegion :=
  if 0xFFFFFF00 ≤ rkey then
    let n := rkey - 0xFFFFFF00
    let r := qmemRange s n
    if n = f ∧ n < 16 ∧ fnState s n = 1 then
      some { func := n, ctx := 0, gen := 0, base := r.1, len := r.2 - r.1, write := true, read := true }
    else none
  else match tget s.mrs rkey with
    | some m => if m.func = f ∧ (ctxOf s m.ctx).gen = m.gen ∧ (ctxOf s m.ctx).state ≠ .free ∧ (ctxOf s m.ctx).state ≠ .teardown then some m else none
    | none => none

/-- Bytes [a, a + n) lie in a region that allows the access. -/
def mrAllows (s : State) (f rkey a n : Nat) (write : Bool) : Bool :=
  match mrOf s f rkey with
  | some m => decide (m.base ≤ a ∧ a + n ≤ m.base + m.len) && (if write then m.write else m.read)
  | none => false

/-- RDMA_WRITE's effect: a packet's bytes are written through the home stack cache; it waits while a line is open (R318) or for
copy-before-write (R454). -/
def rdmaWrite (r : Roce) (s : State) : State :=
  roceIn r (fun x s => inSequence r x (fun s =>
    let a := if r.first then r.addr else x.partAddr
    let n := r.pay.length
    if !mrAllows s x.func r.rkey.toNat a n true then roceAnswer r.qpn r.psn .nakAccess (setQp r.qpn (psnOn x 1) s)
    else if lineOpen s a n then s
    else if !memAvailable s a n then
      roceAnswer r.qpn r.psn .nakAccess (setQp r.qpn (psnOn x 1) (raise (atAddr s a (blankFault s 5 6 0x22 4)) s))
    else afterCbw a n (fun s =>
      roceAnswer r.qpn r.psn .ack (spoilTensors a n (hbmWrite a r.pay (chargeWork dieE0 16 a n <| setQp r.qpn { psnOn x 1 with partAddr := a + n } s)))) s) s) s

/-- RDMA_READ's effect: the answer takes one PSN for each packet of the path MTU; a repeated read is served again (PRESUMED: log entry 82). -/
def rdmaRead (r : Roce) (s : State) : State :=
  roceIn r (fun x s =>
    let n := r.len
    let pk := max 1 ((n + qpMtu x - 1) / qpMtu x)
    let serve (s' s : State) : State := if !mrAllows s x.func r.rkey.toNat r.addr n false then roceAnswer r.qpn r.psn .nakAccess s'
    else if lineOpen s r.addr n then s
    else if !memAvailable s r.addr n then
      roceAnswer r.qpn r.psn .nakAccess (raise (atAddr s r.addr (blankFault s 5 6 0x22 4)) s')
    else match memPoisoned s r.addr n with
      | some l => roceAnswer r.qpn r.psn .nakAccess (raise (atAddr s l (blankFault s 3 6 0x22 4)) s')
      | none => sendRoce r.qpn (.readData r.psn (hbmRead s r.addr n)) (chargeWork dieE0 16 r.addr n s')
    if x.state ≠ .rtr ∧ x.state ≠ .rts then s
    else if r.psn = x.expPsn then serve (setQp r.qpn (psnOn x pk) s) s
    else if pastPsn x r.psn then serve s s
    else roceAnswer r.qpn x.expPsn .nakSequence s) s

/-! ### As requester (R419, R430) -/

/-- A PSN at or before another. -/
def psnUpTo (a b : Nat) : Bool := decide ((b + 2 ^ 24 - a) % 2 ^ 24 < 2 ^ 23)

/-- Everything unacknowledged is sent again (go-back-N). -/
def roceResend (n : Nat) (x : Qp) (s : State) : State :=
  x.unacked.foldl (fun s u => sendRoce n (.request u) s) s

/-- A retry for lack of progress: the queue pair resends, or enters ERROR when its tries are used up. -/
def roceRetry (n : Nat) (x : Qp) (s : State) : State :=
  if qpFld x 170 168 ≤ x.retries then qpEnter n x .error s
  else roceResend n x (setQp n { x with retries := x.retries + 1 } s)

/-- RDMA_READ_RESPONSE's effect: the oldest read it answers delivers its entry; earlier writes are acknowledged with it. -/
def rdmaReadResponse (r : Roce) (s : State) : State :=
  roceIn r (fun x s =>
    match x.unacked.find? (fun u => u.psn = r.psn ∧ u.data = []) with
    | none => s
    | some u =>
      let left := x.unacked.filter (fun v => !(psnUpTo v.psn u.psn && (decide (v.psn = u.psn) || v.data != [])))
      let s := roceGo r.qpn (setQp r.qpn { x with unacked := left, retries := 0, rnr := 0 } s)
      match qOf s u.queue with
      | some q => setQ u.queue { q with hostCopy := q.hostCopy ++ [(u.idx, fitBytes 64 r.pay)] } s
      | none => s) s

/-- ROCE_ACK's effect. -/
def roceAck (r : Roce) (ans : RoceAns) (s : State) : State :=
  roceIn r (fun x s =>
    if x.state ≠ .rts then s
    else
      let upTo (p : Nat) : List RoceReq := x.unacked.filter (fun v => !(psnUpTo v.psn p && v.data != []))
      match ans with
      | .ack => setQp r.qpn { x with unacked := upTo r.psn, retries := 0, rnr := 0 } s
      | .nakSequence =>
        let before := (r.psn + 2 ^ 24 - 1) % 2 ^ 24
        roceRetry r.qpn { x with unacked := upTo before } s
      | .rnr =>
        let lim := qpFld x 173 171
        if lim ≠ 7 ∧ lim ≤ x.rnr then qpEnter r.qpn x .error s
        else roceResend r.qpn x (setQp r.qpn { x with rnr := x.rnr + 1 } s)
      | _ => qpEnter r.qpn x .error s) s

/-- ROCE_TIMEOUT's effect. -/
def roceTimeout (n : Nat) (s : State) : State :=
  match qpOf s n with
  | none => s
  | some x => if x.state ≠ .rts ∨ x.unacked = [] ∨ qpFld x 178 174 = 0 then s else roceRetry n x s

/-- CNP's effect: the reaction point changes the queue pair's rate; its parameters, and so the rate, are left open. -/
def cnpPacket (r : Roce) (s : State) : State :=
  roceIn r (fun x s =>
    let (v, s) := freeBits 64 (hostCount 6 s)
    setQp r.qpn { x with rate := v } s) s

/-! ### Commands -/

def execRoceSend (r : Roce) (s : State) : Host.Outcome State Fault Refusal := act true s (roceSend r)

def execRdmaWrite (r : Roce) (s : State) : Host.Outcome State Fault Refusal := act true s (rdmaWrite r)

def execRdmaRead (r : Roce) (s : State) : Host.Outcome State Fault Refusal := act true s (rdmaRead r)

def execRdmaReadResponse (r : Roce) (s : State) : Host.Outcome State Fault Refusal := act true s (rdmaReadResponse r)

def execRoceAck (r : Roce) (ans : RoceAns) (s : State) : Host.Outcome State Fault Refusal := act true s (roceAck r ans)

def execRoceTimeout (qpn : Nat) (s : State) : Host.Outcome State Fault Refusal := act true s (roceTimeout qpn)

def execCnp (r : Roce) (s : State) : Host.Outcome State Fault Refusal := act true s (cnpPacket r)

end Sys2Proof.Machine
end

