-- ==== Sys2Proof/Machine/Dispatch.lean ====
section
/-!
DEFINITION. One arm per command of the table: the command's meaning.
-/

namespace Sys2Proof.Machine

/-- The effect of a command on everything but the queue. -/
def exec (i : Instr) (s : State) : Host.Outcome State Fault Refusal :=
  match i with
  | .registerWrite who addr width value => Sys2Proof.Machine.execRegisterWrite who addr width value s
  | .flitCrcFailure edge die => Sys2Proof.Machine.execFlitCrcFailure edge die s
  | .edgeLane edge => Sys2Proof.Machine.execEdgeLane edge s
  | .create who c func nondet => Sys2Proof.Machine.execCreate who c func nondet s
  | .load src c => Sys2Proof.Machine.execLoad src c s
  | .loadComplete c => Sys2Proof.Machine.execLoadComplete c s
  | .start src c => Sys2Proof.Machine.execStart src c s
  | .teardown src c => Sys2Proof.Machine.execTeardown src c s
  | .remap src c => Sys2Proof.Machine.execRemap src c s
  | .contextStart c => Sys2Proof.Machine.execContextStart c s
  | .drainEnd c => Sys2Proof.Machine.execDrainEnd c s
  | .teardownTimeout c => Sys2Proof.Machine.execTeardownTimeout c s
  | .mailboxDelivery t m => Sys2Proof.Machine.execMailboxDelivery t m s
  | .messageQueueEntry t q => Sys2Proof.Machine.execMessageQueueEntry t q s
  | .waypointRelease c => Sys2Proof.Machine.execWaypointRelease c s
  | .holdRaise c => Sys2Proof.Machine.execHoldRaise c s
  | .rv64Instruction t n => Sys2Proof.Machine.execRv64Instruction t n s
  | .fenceI t n => Sys2Proof.Machine.execFenceI t n s
  | .lr t n => Sys2Proof.Machine.execLr t n s
  | .sc t n => Sys2Proof.Machine.execSc t n s
  | .amo t n => Sys2Proof.Machine.execAmo t n s
  | .mret t n => Sys2Proof.Machine.execMret t n s
  | .wfi t n => Sys2Proof.Machine.execWfi t n s
  | .ecall t n => Sys2Proof.Machine.execEcall t n s
  | .ebreak t n => Sys2Proof.Machine.execEbreak t n s
  | .msend t n => Sys2Proof.Machine.execMsend t n s
  | .mrecv t n => Sys2Proof.Machine.execMrecv t n s
  | .qpush t n => Sys2Proof.Machine.execQpush t n s
  | .qpop t n => Sys2Proof.Machine.execQpop t n s
  | .issue t n => Sys2Proof.Machine.execIssue t n s
  | .waitc t n => Sys2Proof.Machine.execWaitc t n s
  | .vxrun t n => Sys2Proof.Machine.execVxrun t n s
  | .fenceL t n => Sys2Proof.Machine.execFenceL t n s
  | .fenceD t n => Sys2Proof.Machine.execFenceD t n s
  | .fenceF t n => Sys2Proof.Machine.execFenceF t n s
  | .fenceG t n => Sys2Proof.Machine.execFenceG t n s
  | .waypoint t n => Sys2Proof.Machine.execWaypoint t n s
  | .pmark t n => Sys2Proof.Machine.execPmark t n s
  | .datum t n => Sys2Proof.Machine.execDatum t n s
  | .dbgHalt who t n => Sys2Proof.Machine.execDbgHalt who t n s
  | .dbgResume who t n => Sys2Proof.Machine.execDbgResume who t n s
  | .dbgStep who t n => Sys2Proof.Machine.execDbgStep who t n s
  | .descriptorDecode t a st => Sys2Proof.Machine.execDescriptorDecode t a st s
  | .shadowLoad t a st => Sys2Proof.Machine.execShadowLoad t a st s
  | .mac t a st ue => Sys2Proof.Machine.execMac t a st ue s
  | .l1 t a st ue => Sys2Proof.Machine.execL1 t a st ue s
  | .l2sq t a st ue => Sys2Proof.Machine.execL2sq t a st ue s
  | .maxplus t a st ue => Sys2Proof.Machine.execMaxplus t a st ue s
  | .minplus t a st ue => Sys2Proof.Machine.execMinplus t a st ue s
  | .hamm t a st ue => Sys2Proof.Machine.execHamm t a st ue s
  | .fill t a st ue => Sys2Proof.Machine.execFill t a st ue s
  | .passComplete t a st ue => Sys2Proof.Machine.execPassComplete t a st ue s
  | .maDescHead who t a st value => Sys2Proof.Machine.execMaDescHead who t a st value s
  | .runBegin t => Sys2Proof.Machine.execRunBegin t s
  | .nop t ue => Sys2Proof.Machine.execNop t ue s
  | .endIteration t ue => Sys2Proof.Machine.execEndIteration t ue s
  | .vld t ue => Sys2Proof.Machine.execVld t ue s
  | .vst t ue => Sys2Proof.Machine.execVst t ue s
  | .vldb t ue => Sys2Proof.Machine.execVldb t ue s
  | .mld t ue => Sys2Proof.Machine.execMld t ue s
  | .mst t ue => Sys2Proof.Machine.execMst t ue s
  | .vadd t ue => Sys2Proof.Machine.execVadd t ue s
  | .vsub t ue => Sys2Proof.Machine.execVsub t ue s
  | .vmul t ue => Sys2Proof.Machine.execVmul t ue s
  | .vfma t ue => Sys2Proof.Machine.execVfma t ue s
  | .vmax t ue => Sys2Proof.Machine.execVmax t ue s
  | .vmin t ue => Sys2Proof.Machine.execVmin t ue s
  | .vabs t ue => Sys2Proof.Machine.execVabs t ue s
  | .vneg t ue => Sys2Proof.Machine.execVneg t ue s
  | .vdiv t ue => Sys2Proof.Machine.execVdiv t ue s
  | .vsel t ue => Sys2Proof.Machine.execVsel t ue s
  | .viota t ue => Sys2Proof.Machine.execViota t ue s
  | .vcmp t ue => Sys2Proof.Machine.execVcmp t ue s
  | .mop t ue => Sys2Proof.Machine.execMop t ue s
  | .cvt t ue => Sys2Proof.Machine.execCvt t ue s
  | .nlu t ue => Sys2Proof.Machine.execNlu t ue s
  | .vder t ue => Sys2Proof.Machine.execVder t ue s
  | .rclr t ue => Sys2Proof.Machine.execRclr t ue s
  | .racc t ue => Sys2Proof.Machine.execRacc t ue s
  | .rget t ue => Sys2Proof.Machine.execRget t ue s
  | .smxe t ue => Sys2Proof.Machine.execSmxe t ue s
  | .smxn t ue => Sys2Proof.Machine.execSmxn t ue s
  | .smxb t ue => Sys2Proof.Machine.execSmxb t ue s
  | .topk t ue => Sys2Proof.Machine.execTopk t ue s
  | .ftqpop t ue => Sys2Proof.Machine.execFtqpop t ue s
  | .ftqEntryPoppable t a => Sys2Proof.Machine.execFtqEntryPoppable t a s
  | .accrd t ue accUe => Sys2Proof.Machine.execAccrd t ue accUe s
  | .accmsk t ue => Sys2Proof.Machine.execAccmsk t ue s
  | .accrel t ue => Sys2Proof.Machine.execAccrel t ue s
  | .contourEviction t tensor => Sys2Proof.Machine.execContourEviction t tensor s
  | .liveFieldUpdate c tick => Sys2Proof.Machine.execLiveFieldUpdate c tick s
  | .vsOpen who t slot buf => Sys2Proof.Machine.execVsOpen who t slot buf s
  | .vsClose who t slot buf tag => Sys2Proof.Machine.execVsClose who t slot buf tag s
  | .bufferOpens t slot buf => Sys2Proof.Machine.execBufferOpens t slot buf s
  | .closeTakesEffect t slot buf => Sys2Proof.Machine.execCloseTakesEffect t slot buf s
  | .versionBusy t slot buf => Sys2Proof.Machine.execVersionBusy t slot buf s
  | .vsCfgWrite who t slot value => Sys2Proof.Machine.execVsCfgWrite who t slot value s
  | .bankArbitration t cycle => Sys2Proof.Machine.execBankArbitration t cycle s
  | .writeBack t bank => Sys2Proof.Machine.execWriteBack t bank s
  | .surveyRegionStep t failing ecc => Sys2Proof.Machine.execSurveyRegionStep t failing ecc s
  | .hbmAccess id => Sys2Proof.Machine.execHbmAccess id s
  | .lineDecode addr outcome => Sys2Proof.Machine.execLineDecode addr outcome s
  | .sequencedReduction id => Sys2Proof.Machine.execSequencedReduction id s
  | .unsequencedReduction id => Sys2Proof.Machine.execUnsequencedReduction id s
  | .entryAllocation unit => Sys2Proof.Machine.execEntryAllocation unit s
  | .seqTimeout line => Sys2Proof.Machine.execSeqTimeout line s
  | .scacheFlush who die => Sys2Proof.Machine.execScacheFlush who die s
  | .scacheClear who die => Sys2Proof.Machine.execScacheClear who die s
  | .scacheCmdComplete die => Sys2Proof.Machine.execScacheCmdComplete die s
  | .pinCtlWrite who die value => Sys2Proof.Machine.execPinCtlWrite who die value s
  | .scrub addr outcome => Sys2Proof.Machine.execScrub addr outcome s
  | .quar who stack => Sys2Proof.Machine.execQuar who stack s
  | .regulatorWrite who stack part value => Sys2Proof.Machine.execRegulatorWrite who stack part value s
  | .temperatureReport stack temp => Sys2Proof.Machine.execTemperatureReport stack temp s
  | .copyDecode t => Sys2Proof.Machine.execCopyDecode t s
  | .copy t => Sys2Proof.Machine.execCopy t s
  | .toWb t => Sys2Proof.Machine.execToWb t s
  | .fromWb t => Sys2Proof.Machine.execFromWb t s
  | .gather t => Sys2Proof.Machine.execGather t s
  | .copyReduce t => Sys2Proof.Machine.execCopyReduce t s
  | .copyComplete t => Sys2Proof.Machine.execCopyComplete t s
  | .cpyDescHead who t value => Sys2Proof.Machine.execCpyDescHead who t value s
  | .linkBlock p flits trailer corrected => Sys2Proof.Machine.execLinkBlock p flits trailer corrected s
  | .retraining p => Sys2Proof.Machine.execRetraining p s
  | .retrainingEnd p => Sys2Proof.Machine.execRetrainingEnd p s
  | .retrainBudget p => Sys2Proof.Machine.execRetrainBudget p s
  | .portEnable who p => Sys2Proof.Machine.execPortEnable who p s
  | .portDisable who p => Sys2Proof.Machine.execPortDisable who p s
  | .portTrainingEnd p result => Sys2Proof.Machine.execPortTrainingEnd p result s
  | .trainingTimeout p => Sys2Proof.Machine.execTrainingTimeout p s
  | .trainingRetry => Sys2Proof.Machine.execTrainingRetry s
  | .packetSend p vc => Sys2Proof.Machine.execPacketSend p vc s
  | .transit p pkt => Sys2Proof.Machine.execTransit p pkt s
  | .write p pkt => Sys2Proof.Machine.execWrite p pkt s
  | .wack p pkt => Sys2Proof.Machine.execWack p pkt s
  | .read p pkt => Sys2Proof.Machine.execRead p pkt s
  | .rdata p pkt => Sys2Proof.Machine.execRdata p pkt s
  | .reduce p pkt => Sys2Proof.Machine.execReduce p pkt s
  | .rack p pkt => Sys2Proof.Machine.execRack p pkt s
  | .msg p pkt => Sys2Proof.Machine.execMsg p pkt s
  | .mack p pkt => Sys2Proof.Machine.execMack p pkt s
  | .contribution id => Sys2Proof.Machine.execContribution id s
  | .ccred p pkt => Sys2Proof.Machine.execCcred p pkt s
  | .arrive p pkt => Sys2Proof.Machine.execArrive p pkt s
  | .release p pkt => Sys2Proof.Machine.execRelease p pkt s
  | .hold p pkt => Sys2Proof.Machine.execHold p pkt s
  | .clear p pkt => Sys2Proof.Machine.execClear p pkt s
  | .holdDecision c => Sys2Proof.Machine.execHoldDecision c s
  | .resume p pkt => Sys2Proof.Machine.execResume p pkt s
  | .jobResume c => Sys2Proof.Machine.execJobResume c s
  | .holdWatchdog c => Sys2Proof.Machine.execHoldWatchdog c s
  | .abort p pkt => Sys2Proof.Machine.execAbort p pkt s
  | .meridianExchange t1 => Sys2Proof.Machine.execMeridianExchange t1 s
  | .msync p pkt t2 t3 => Sys2Proof.Machine.execMsync p pkt t2 t3 s
  | .mresp p pkt t4 => Sys2Proof.Machine.execMresp p pkt t4 s
  | .counterResume => Sys2Proof.Machine.execCounterResume s
  | .parentTimeout => Sys2Proof.Machine.execParentTimeout s
  | .rootClaimSend => Sys2Proof.Machine.execRootClaimSend s
  | .rootClaim p pkt => Sys2Proof.Machine.execRootClaim p pkt s
  | .fwData p pkt => Sys2Proof.Machine.execFwData p pkt s
  | .fdatum p pkt => Sys2Proof.Machine.execFdatum p pkt s
  | .prepare p pkt => Sys2Proof.Machine.execPrepare p pkt s
  | .decide p pkt => Sys2Proof.Machine.execDecide p pkt s
  | .digest p pkt => Sys2Proof.Machine.execDigest p pkt s
  | .audit p pkt => Sys2Proof.Machine.execAudit p pkt s
  | .tdNotice p pkt => Sys2Proof.Machine.execTdNotice p pkt s
  | .tdAck p pkt => Sys2Proof.Machine.execTdAck p pkt s
  | .slotBlock p pkt => Sys2Proof.Machine.execSlotBlock p pkt s
  | .bookData p pkt => Sys2Proof.Machine.execBookData p pkt s
  | .fetchReq p pkt => Sys2Proof.Machine.execFetchReq p pkt s
  | .fetchData p pkt => Sys2Proof.Machine.execFetchData p pkt s
  | .poolWrite p pkt => Sys2Proof.Machine.execPoolWrite p pkt s
  | .poolRead p pkt => Sys2Proof.Machine.execPoolRead p pkt s
  | .poolData p pkt => Sys2Proof.Machine.execPoolData p pkt s
  | .poolDone p pkt => Sys2Proof.Machine.execPoolDone p pkt s
  | .openSession d cookie => Sys2Proof.Machine.execOpenSession d cookie s
  | .closeSession d => Sys2Proof.Machine.execCloseSession d s
  | .ack d => Sys2Proof.Machine.execAck d s
  | .doorbell d => Sys2Proof.Machine.execDoorbell d s
  | .submit d => Sys2Proof.Machine.execSubmit d s
  | .regRead d => Sys2Proof.Machine.execRegRead d s
  | .regWrite d => Sys2Proof.Machine.execRegWrite d s
  | .rto session => Sys2Proof.Machine.execRto session s
  | .sessionIdle session => Sys2Proof.Machine.execSessionIdle session s
  | .notify f q => Sys2Proof.Machine.execNotify f q s
  | .queueCreate f q => Sys2Proof.Machine.execQueueCreate f q s
  | .queueDestroy f q => Sys2Proof.Machine.execQueueDestroy f q s
  | .queueQuery f q => Sys2Proof.Machine.execQueueQuery f q s
  | .ctxCreate f q => Sys2Proof.Machine.execCtxCreate f q s
  | .ctxSet f q => Sys2Proof.Machine.execCtxSet f q s
  | .ctxRead f q => Sys2Proof.Machine.execCtxRead f q s
  | .mrReg f q => Sys2Proof.Machine.execMrReg f q s
  | .mrDereg f q => Sys2Proof.Machine.execMrDereg f q s
  | .qpCreate f q => Sys2Proof.Machine.execQpCreate f q s
  | .qpModify f q => Sys2Proof.Machine.execQpModify f q s
  | .qpDestroy f q => Sys2Proof.Machine.execQpDestroy f q s
  | .roceSend r => Sys2Proof.Machine.execRoceSend r s
  | .rdmaWrite r => Sys2Proof.Machine.execRdmaWrite r s
  | .rdmaRead r => Sys2Proof.Machine.execRdmaRead r s
  | .rdmaReadResponse r => Sys2Proof.Machine.execRdmaReadResponse r s
  | .roceAck r ans => Sys2Proof.Machine.execRoceAck r ans s
  | .roceTimeout qpn => Sys2Proof.Machine.execRoceTimeout qpn s
  | .cnp r => Sys2Proof.Machine.execCnp r s
  | .freset who n => Sys2Proof.Machine.execFreset who n s
  | .fresetTeardownDone n => Sys2Proof.Machine.execFresetTeardownDone n s
  | .functionEnable who n => Sys2Proof.Machine.execFunctionEnable who n s
  | .functionDisable who n => Sys2Proof.Machine.execFunctionDisable who n s
  | .bookEnable who b => Sys2Proof.Machine.execBookEnable who b s
  | .bookResume who b => Sys2Proof.Machine.execBookResume who b s
  | .adopt who b => Sys2Proof.Machine.execAdopt who b s
  | .fetch who b => Sys2Proof.Machine.execFetch who b s
  | .replica who b => Sys2Proof.Machine.execReplica who b s
  | .ckptRestore who b => Sys2Proof.Machine.execCkptRestore who b s
  | .bookRelease who b => Sys2Proof.Machine.execBookRelease who b s
  | .bookCommandComplete b answered => Sys2Proof.Machine.execBookCommandComplete b answered s
  | .captureComplete b => Sys2Proof.Machine.execCaptureComplete b s
  | .replicatedDigest b => Sys2Proof.Machine.execReplicatedDigest b s
  | .vote b => Sys2Proof.Machine.execVote b s
  | .faultRecord => Sys2Proof.Machine.execFaultRecord s
  | .waitWatchdog u => Sys2Proof.Machine.execWaitWatchdog u s
  | .hang unit die cause => Sys2Proof.Machine.execHang unit die cause s
  | .chipReset env => Sys2Proof.Machine.execChipReset env s
  | .dumpReadTimeout part done => Sys2Proof.Machine.execDumpReadTimeout part done s
  | .dumpExpiry begun => Sys2Proof.Machine.execDumpExpiry begun s
  | .dumpComplete => Sys2Proof.Machine.execDumpComplete s
  | .writeBackBudget die => Sys2Proof.Machine.execWriteBackBudget die s
  | .requestedReset who => Sys2Proof.Machine.execRequestedReset who s
  | .bootTimeout => Sys2Proof.Machine.execBootTimeout s
  | .readyTimeout => Sys2Proof.Machine.execReadyTimeout s
  | .identity => Sys2Proof.Machine.execIdentity s
  | .attest => Sys2Proof.Machine.execAttest s
  | .certRead flash => Sys2Proof.Machine.execCertRead flash s
  | .stage flash => Sys2Proof.Machine.execStage flash s
  | .select flash => Sys2Proof.Machine.execSelect flash s
  | .commitSvn => Sys2Proof.Machine.execCommitSvn s
  | .legendRead => Sys2Proof.Machine.execLegendRead s
  | .serviceResponse => Sys2Proof.Machine.execServiceResponse s
  | .coreWatchdog core => Sys2Proof.Machine.execCoreWatchdog core s
  | .coreRestart core cause => Sys2Proof.Machine.execCoreRestart core cause s
  | .restartEnd core ok => Sys2Proof.Machine.execRestartEnd core ok s
  | .atlasWrite flash => Sys2Proof.Machine.execAtlasWrite flash s
  | .trigger who => Sys2Proof.Machine.execTrigger who s
  | .fabricDatum who => Sys2Proof.Machine.execFabricDatum who s
  | .timeMatch => Sys2Proof.Machine.execTimeMatch s
  | .datumIn rising => Sys2Proof.Machine.execDatumIn rising s
  | .latch => Sys2Proof.Machine.execLatch s
  | .atlSample rails => Sys2Proof.Machine.execAtlSample rails s
  | .bucketRotation => Sys2Proof.Machine.execBucketRotation s
  | .powerUp env => Sys2Proof.Machine.execPowerUp env s
  | .plannedRemoval => Sys2Proof.Machine.execPlannedRemoval s
  | .surpriseRemoval => Sys2Proof.Machine.execSurpriseRemoval s
  | .tileEn who value => Sys2Proof.Machine.execTileEn who value s
  | .domainSwitchEnd die k => Sys2Proof.Machine.execDomainSwitchEnd die k s
  | .railSample rails => Sys2Proof.Machine.execRailSample rails s
  | .dieTemperatureSample temps => Sys2Proof.Machine.execDieTemperatureSample temps s
  | .referenceLoss serdes => Sys2Proof.Machine.execReferenceLoss serdes s
  | .synthesiserLockLoss synth => Sys2Proof.Machine.execSynthesiserLockLoss synth s
  | .sbPos value => Sys2Proof.Machine.execSbPos value s
  | .sbStatusRead => Sys2Proof.Machine.execSbStatusRead s
  | .alertResponse => Sys2Proof.Machine.execAlertResponse s
  | .subPortDown sp => Sys2Proof.Machine.execSubPortDown sp s
  | .subPortUp sp => Sys2Proof.Machine.execSubPortUp sp s
  | .networkHousekeeping kind frame => Sys2Proof.Machine.execNetworkHousekeeping kind frame s
  | .priorityFlowControl prio pause => Sys2Proof.Machine.execPriorityFlowControl prio pause s
  | .bookBind who b c => Sys2Proof.Machine.execBookBind who b c s
  | .powerLoss => Sys2Proof.Machine.execPowerLoss s
  | .stackInterfaceFault stack => Sys2Proof.Machine.execStackInterfaceFault stack s

end Sys2Proof.Machine
end

