-- ==== Sys2Proof/Machine/Tick.lean ====
section
/-!
DEFINITION. What the passing of one Meridian tick does while no command waits (DESIGN CHOICE: log entry 1).
-/

namespace Sys2Proof.Machine

/-- Step 10 of Table 18-5 is over: after READY no port trains any more, and the module is locked or the time root. -/
def startupOver (s : State) : Bool :=
  decide (fld (regRaw s (aPwrc 0)) 7 4 = 9) && (List.range 16).all (fun p => decide (portState s p ≠ 1)) && (merLocked s || merRoot s)

/-- One tick passes on a powered module: the Meridian counter counts unless it is stopped (R389), and the buckets fill (R327). -/
def tick (s : State) : State :=
  if !s.pins.pwrEn then s
  else
    let s := if s.mer.stopTo.isSome then s else setNow ((now s + 1) % 2 ^ 64) s
    let s := refill s
    if startupOver s then regFld (aPwrc 0) 7 4 10 s else s

end Sys2Proof.Machine
end

