-- ==== Sys2Proof/Safety.lean ====
section
/-!
DEFINITION. What counts as a safe run, in the terms claims use: the canonical form of every memory, the frames of one tile, one steward, one
context, one port and the registers, and when a vector engine runs the instruction it is at.
-/

namespace Sys2Proof.Machine

/-- The memories are in canonical form: addresses strictly rising, no byte listed that an unlisted address reads as. -/
def State.memOk (s : State) : Bool := Memory.wf s.hbm && Memory.wf s.pin && Memory.wf s.spd

/-- An outcome goes on. -/
def goesOn (o : Host.Outcome State Fault Refusal) : Bool :=
  match o with
  | .next _ => true
  | .fault _ => false
  | .refused _ => false

/-- The next state of an outcome that goes on. -/
def nextOf (o : Host.Outcome State Fault Refusal) : Option State :=
  match o with
  | .next s => some s
  | .fault _ => none
  | .refused _ => none

/-- n is s but for the units of tile t. -/
def onlyTile (t : Nat) (s n : State) : Prop := { n with tiles := s.tiles } = s ∧ ∀ u, u ≠ t → tileOf n u = tileOf s u

/-- n is s but for the registers at the addresses of l. -/
def onlyRegs (l : List Nat) (s n : State) : Prop := { n with regs := s.regs } = s ∧ ∀ a, a ∉ l → regRaw n a = regRaw s a

/-- Every tile but t keeps its units, and every register outside l its value. -/
def othersKept (t : Nat) (l : List Nat) (s n : State) : Prop :=
  (∀ u, u ≠ t → tileOf n u = tileOf s u) ∧ ∀ a, a ∉ l → regRaw n a = regRaw s a

/-- A legal microinstruction of opcode op stands at the engine of tile t, and a legal opcode follows it in the store (R199–R203). -/
def vxeRuns (s : State) (t op : Nat) : Prop :=
  live s = true ∧ t < 128 ∧ vxeReady s t op = true ∧ vLegal (vxeWord s t) = true ∧ (vxeOf s t).index < 8191
    ∧ (vUses (vOpc (tgetD (0 : Word) (vxeOf s t).mc ((vxeOf s t).index + 1)).toNat)).isSome = true

/-- The engine past its instruction. -/
def stepped (v : Vxe) : Vxe := { v with index := v.index + 1, waiting := false }

/-- The engine of tile t went past its instruction with the changes of f, and nothing else changed. -/
def vxeDid (t : Nat) (f : Vxe → Vxe) (s n : State) : Prop :=
  onlyTile t s n ∧ tileOf n t = { tileOf s t with vxe := stepped (f (vxeOf s t)) }

/-- The same, where the engine also took what its port was granted for the n bytes from a (R286). -/
def vxeTook (t a n : Nat) (f : Vxe → Vxe) (s m : State) : Prop :=
  onlyTile t s m ∧ tileOf m t = { tileOf s t with vxe := stepped (f (vxeOf s t)), ports := (tileOf (portTake t portVec a n s) t).ports }

/-- What a CVT writes into its consecutive destination registers (R214, R215). -/
def cvtResults (s : State) (t w : Nat) : List Nat :=
  if cvtMx (vFn w) then
    [(mxConvert (vFn w) (vDraw s t w) (cvtSource s t w 4)).1, (mxConvert (vFn w) (vDraw s t w) (cvtSource s t w 4)).2.1]
  else if cvtNarrow (vFn w) then
    [joinLanes (cvtWidth (vFn w)) (narrow (vFn w) (bit (vMode w) 1) (vDraw s t w) (cvtSource s t w (cvtN (vFn w)))).1]
  else (List.range (cvtN (vFn w))).map (fun i =>
    joinLanes 32 ((((lanes (cvtWidth (vFn w)) (src1 s t w)).map (widen (vFn w))).drop (128 * i)).take 128))

/-- The engine with a CVT's results in its destination registers, under the predicate. -/
def cvtWritten (s : State) (t w : Nat) (x : Vxe) : Vxe :=
  ((cvtResults s t w).zip (List.range (cvtResults s t w).length)).foldl
    (fun x p => { x with vreg := tset 0 x.vreg (vVd w + p.2) (BitVec.ofNat 4096 (mergeLanes (vreg s t (vVd w + p.2)) p.1 (vEn s t w))) }) x

/-- An engine with vector register d, mask register d, accumulator d set. -/
def withVreg (d v : Nat) (x : Vxe) : Vxe := { x with vreg := tset 0 x.vreg d (BitVec.ofNat 4096 v) }
def withMreg (d v : Nat) (x : Vxe) : Vxe := { x with mreg := tset 0 x.mreg d (BitVec.ofNat 128 v) }
def withRacc (d : Nat) (r : Racc) (x : Vxe) : Vxe := { x with racc := tset {} x.racc d r }


/-! ### Stewards -/

/-- Steward n of tile t on a live module is at instruction w of len bytes whose own bits are raw, first tried or waiting, with no halt
to take first; fetching it leads from s to s'. -/
def stAt (s : State) (t n w len raw : Nat) (s' : State) : Prop :=
  live s = true ∧ t < 128 ∧ n < 2 ∧
    (((stOf s t n).run = .waiting ∧ (stOf s t n).waitWord.toNat = w ∧ len = 4 ∧ raw = w ∧ s' = s)
      ∨ ((stOf s t n).run = .running ∧ ((stOf s t n).halt && haltable s t) = false ∧ stFetch t n s = (.word (some w) len raw, s')))

/-- n is s but for steward k of tile t. -/
def onlySt (t k : Nat) (s n : State) : Prop :=
  { n with stewards := s.stewards } = s ∧ ∀ u j, j < 2 → ¬ (u = t ∧ j = k) → stOf n u j = stOf s u j

/-- A steward past an instruction of len bytes: the program counter has moved on, one more instruction has retired, and it waits for nothing. -/
def retired (len : Nat) (x : Steward) : Steward :=
  { x with pc := x.pc + BitVec.ofNat 64 len, run := .running, waitKind := .none, send := .none, instret := x.instret + 1 }

/-- Only steward k of tile t changed, and it retired the instruction with v in its register rd. -/
def stRetires (t k len rd v : Nat) (s n : State) : Prop := onlySt t k s n ∧ stOf n t k = setGpr rd v (retired len (stOf s t k))

/-- A steward that waits at instruction w. -/
def waitsAt (k : WaitKind) (w : Nat) (x : Steward) : Steward := { x with run := .waiting, waitKind := k, waitWord := BitVec.ofNat 32 w }

/-- Only steward k of tile t changed, and it took a trap of a cause. -/
def stTraps (t k cause tval : Nat) (s n : State) : Prop := onlySt t k s n ∧ stOf n t k = trapInto t (stOf s t k) cause tval

/-- Steward k of tile t may take a trap: it is in none, and has a handler. -/
def trapOk (s : State) (t k : Nat) : Prop := (stOf s t k).intrap = false ∧ (stOf s t k).mtvec ≠ 0

/-- F0 or the Compass firmware may write the register at an address with a width (Table 2-8, R15, R36). -/
def mayWrite (who : Who) (a width : Nat) (s : State) : Prop :=
  (who = .f0 ∨ who = .compass) ∧ ∃ r, regFor who true a width s = .ok r

/-! ### The module -/

/-- Commands that also act on a module that is unpowered or between the decision of a chip reset and its end. -/
def actsOffline (c : Instr) : Bool :=
  match c with
  | .chipReset _ => true
  | .bootTimeout => true
  | .readyTimeout => true
  | .powerUp _ => true
  | .plannedRemoval => true
  | .surpriseRemoval => true
  | .powerLoss => true
  | .sbPos _ => true
  | .sbStatusRead => true
  | .alertResponse => true
  | .abort _ _ => true
  | .msync _ _ _ _ => true
  | .counterResume => true
  | .latch => true
  | .faultRecord => true
  | .hang _ _ _ => true
  | .dumpReadTimeout _ _ => true
  | .dumpExpiry _ => true
  | .dumpComplete => true
  | .writeBackBudget _ => true
  | .domainSwitchEnd _ _ => true
  | .railSample _ => true
  | .dieTemperatureSample _ => true
  | .referenceLoss _ => true
  | .synthesiserLockLoss _ => true
  | _ => false

/-- No command that brings the module up waits. -/
def noPowerUp (l : List Instr) : Bool := l.all (fun c => match c with | .powerUp _ => false | _ => true)

/-- The module is unpowered: it is as the loss of its power leaves it, and nothing that waits brings it up. -/
def Off (s : State) : Prop := powerOff s = s ∧ noPowerUp s.pending = true

/-! ### Engines of a tile -/

/-- No stream of tile t's arrays has a stop that waits for its turn. -/
def maQuiet (s : State) (t : Nat) : Prop :=
  ∀ a st, a < 2 → st < 2 → (strOf (maOf s t a) st).stopped = true
    ∨ ((strOf (maOf s t a) st).fault = none ∧ ∀ p ∈ (strOf (maOf s t a) st).decoded, p.bad = none)

/-- Only array a of tile t changed, and f says how. -/
def maDid (t a : Nat) (f : MArray → MArray) (s n : State) : Prop :=
  { n with tiles := s.tiles } = s ∧ maOf n t a = f (maOf s t a) ∧ maOf n t (1 - a) = maOf s t (1 - a)
    ∧ { tileOf n t with ma0 := (tileOf s t).ma0, ma1 := (tileOf s t).ma1 } = tileOf s t ∧ ∀ u, u ≠ t → tileOf n u = tileOf s u

/-- The rows' pieces of a copy descriptor on tile t, in order. -/
def copyPieces (s : State) (t d : Nat) : List (Nat × Nat × Nat) :=
  (List.range (cRows d)).flatMap (fun i => rowPieces d i (gatherIndex s t d i))

/-- The copy engine of tile t, in context c, has x as its next descriptor to start, of a kind; nothing holds it back, and no started one of the kind
may go on with its next row. -/
def copyNext (s : State) (t c kind : Nat) (x : CpyDesc) : Prop :=
  live s = true ∧ t < 128 ∧ tileCtx s t = some c ∧ (cpyOf s t).stopped = false ∧ (cpyOf s t).fault = none
    ∧ (cpyOf s t).decoded.find? (fun d => !d.started) = some x ∧ cKind x.desc.toNat = kind
    ∧ (cOrder x.desc.toNat = true → x.no = (cpyOf s t).doneTo) ∧ x.row = 0 ∧ cpyInFlight s t x.no = false ∧ (tileOf s t).ports.got = []
    ∧ ∀ d ∈ (cpyOf s t).decoded, cKind d.desc.toNat = kind → d.row < cRows d.desc.toNat → rowReady s t d.no d.row = false

/-- The engine with descriptor x and every row of it started. -/
def copyStarted (x : CpyDesc) (y : Cpy) : Cpy :=
  { y with decoded := y.decoded.map (fun z => if z.no = x.no then { z with started := true, row := cRows x.desc.toNat } else z) }

/-- Offset in tile t's scratchpad of a device address that lies there with n bytes. -/
def ownSpd (t a n o : Nat) : Prop := a = spdAddr t o ∧ o + n ≤ spdSize

/-- Only buffer b of version slot k of tile t changed. -/
def vbufDid (t k b : Nat) (v : VBuf) (s n : State) : Prop :=
  { n with tiles := s.tiles } = s ∧ { tileOf n t with vbufs := (tileOf s t).vbufs } = tileOf s t ∧ (∀ u, u ≠ t → tileOf n u = tileOf s u)
    ∧ vbufOf n t k b = v ∧ ∀ j c, c < 2 → ¬ (j = k ∧ c = b) → vbufOf n t j c = vbufOf s t j c

/-- Nothing changed but the records that wait for the fault unit: a write that was refused. -/
def onlyRecord (s n : State) : Prop := { n with faults := s.faults } = s

/-! ### Memory -/

/-- No book's engine runs, so that no write waits for a copy to be made first. -/
def noBook (s : State) : Prop := ∀ b, (bookOf s b).state ≠ .running

/-- No entry is open for a line of [a, a + n), and no write to it waits for one (R318). -/
def hbmFree (s : State) (a n : Nat) : Prop :=
  lineOpen s a n = false ∧ ∀ w ∈ s.late, ¬ (w.1 < a + n ∧ a < w.1 + w.2.length)

/-- Access a, of id, may be served here now and its context is what it was (R24, R51). -/
def accNow (s : State) (id : Nat) (a : Acc) : Prop :=
  live s = true ∧ accOf s id = some a ∧ servable s a = true ∧ current s a.ctx a.gen = true ∧ memAvailable s (gAddr a.addr) (accLen a) = true

/-- The access lies in HBM whole, and its turn at its lines' groups has come (R326). -/
def accGoes (s : State) (id : Nat) (a : Acc) : Prop := accNow s id a ∧ gAddr a.addr + accLen a ≤ hbmTop ∧ accTurn s a = true

/-- A write of [a, a + n) touches no tensor table and no statistics bank (R241). -/
def noTensor (s : State) (a n : Nat) : Prop :=
  ∀ c tk, c < 16 → (ctxOf s c).tensors = some tk → ∀ r ∈ tensorAreas tk, ¬ (r.1 < a + n ∧ a < r.1 + r.2)

/-- No agent of the module waits for a line to close: no write, and no book (R318). -/
def noneLate (s : State) : Prop := s.late = [] ∧ ∀ b, (bookOf s b).due = []

/-- The accesses in flight without the one of id. -/
def accsWithout (s : State) (id : Nat) : List Acc := s.accs.filter (fun x => x.id ≠ id)

/-- The address is not one of the Atlas's live record. -/
def notAtlas (a : Nat) : Prop := a < aGlob 0x610000 ∨ aGlob 0x620000 ≤ a

/-! ### Links, packets and the firmware log -/

/-- n with everything that an entry of the firmware log may change as it is in s: the log's counts, the ring of queue F0:2 and what carries it. -/
def logKept (s n : State) : State :=
  { n with
    compass := s.compass, free := s.free, queues := s.queues, qps := s.qps, sentRoce := s.sentRoce, heldRoce := s.heldRoce, hbm := s.hbm, pin := s.pin
    dirty := s.dirty, poison := s.poison, pinPoison := s.pinPoison, late := s.late, stackCtl := s.stackCtl, flits := s.flits }

/-- No core writes a trace entry: none of the four runs with its level or the point's bit set (R520). -/
def quiet (s : State) : Prop := ∀ c k, c < 4 → k < 64 → traceOn s c k = false

/-- Only port p changed: its link, its registers of l, the blocks sent, the records that wait; beside the log and the Atlas's counts. -/
def portDid (p : Nat) (l : List Nat) (s n : State) : Prop :=
  { logKept s n with links := s.links, regs := s.regs, sentBlks := s.sentBlks, faults := s.faults } = s ∧ (quiet s → logKept s n = n)
    ∧ (∀ q, q ≠ p → linkOf n q = linkOf s q) ∧ ∀ a, a ∉ l → notAtlas a → regRaw n a = regRaw s a

/-- A record of a class, code and unit of die d waits in n; none of that unit waited in s. -/
def recorded (s n : State) (cls code unit d : Nat) : Prop :=
  (∀ r ∈ s.faults, ¬ (r.unit = unit ∧ r.die = d)) → ∃ r ∈ n.faults, r.cls = cls ∧ r.code = code ∧ r.unit = unit ∧ r.die = d

/-- A block arrives at port p, which is UP: 512 bytes of flits and a trailer of value t, with its FEC codewords as in cor; the CRC is right when ok. -/
def blockAt (s : State) (p : Nat) (flits : List Byte) (t : BitVec 128) (cor : Option Nat) (ok : Bool) : Prop :=
  live s = true ∧ p < 16 ∧ portState s p = 2 ∧ flits.length = 512 ∧ (∀ m, cor = some m → m ≤ 15)
    ∧ decide ((crc32c (flits ++ toBytes 12 (t.toNat % 2 ^ 96))).toNat = fld t.toNat 127 96) = ok

/-- Registers of port p's counters of symbols (R361). -/
def fecCounted (s n : State) (p : Nat) (cor : Option Nat) : Prop :=
  regRaw n (aBlw p 0x100) = satAdd 64 (regRaw s (aBlw p 0x100)) (match cor with | some m => min m 1 | none => 0)
    ∧ regRaw n (aBlw p 0x108) = satAdd 64 (regRaw s (aBlw p 0x108)) (cor.getD 0)
    ∧ regRaw n (aBlw p 0x110) = satAdd 64 (regRaw s (aBlw p 0x110)) (if cor = none then 1 else 0)

/-- A well-formed packet of an opcode, for this module, waits in the receive buffer of fabric port p, the oldest of its channel and class (R365, R373, R375). -/
def pktAt (s : State) (p opc : Nat) (k : Packet) : Prop :=
  live s = true ∧ p < 16 ∧ fabricPort s p = true ∧ pOpc k = opc ∧ packetBad k = false ∧ (linkOf s p).inbox.contains k = true ∧ mayTake s p k = true
    ∧ pDst k = ownDev s

/-- The packet names a current context and comes from a member of its job (R364). -/
def pktChecked (s : State) (k : Packet) : Prop := pktCurrent s k false = true ∧ pktMember s k = true

/-- Port p's link once packet k has left the receive buffer and its credits are owed. -/
def linkTook (p : Nat) (k : Packet) (s : State) : Link :=
  { linkOf s p with
    inbox := (linkOf s p).inbox.erase k
    owed := tput (linkOf s p).owed (vcKey (pVc k) (pClass k)) ((tget (linkOf s p).owed (vcKey (pVc k) (pClass k))).getD 0 + pFlits k) }

/-- The packet has left the receive buffer of port p, and a block with no flits has gone out that returns credits (R367); no other link changed, but for
packets queued at port o. -/
def tookIn (p o : Nat) (k : Packet) (s n : State) : Prop :=
  (linkOf n p).inbox = (linkOf s p).inbox.erase k ∧ n.sentBlks = s.sentBlks ++ [(p, makeBlock (linkTook p k s) [])]
    ∧ (linkOf n p).owed = (blockSent (linkTook p k s) [] []).owed
    ∧ (∀ q, q ≠ p → q ≠ o → linkOf n q = linkOf s q) ∧ (p ≠ o → (linkOf n p).queue = (linkOf s p).queue)

/-- One packet a was queued at port o. -/
def queuedAt (o : Nat) (a : Packet) (s n : State) : Prop := (linkOf n o).queue = (linkOf s o).queue ++ [a]

/-- Port o carries packets from this module to a device (R374, R582). -/
def wayTo (s : State) (dev o : Nat) : Prop := routePort s (ownDev s) dev = some o ∧ (portState s o = 2 ∨ portState s o = 3)

/-- A packet that answers k with an opcode and a STATUS (Table 12-5, Table 12-6). -/
def answers (s : State) (k : Packet) (opc status : Nat) (a : Packet) : Prop :=
  pOpc a = opc ∧ pOp a 259 256 = status ∧ pTag a = pTag k ∧ pDst a = pSrc k ∧ pSrc a = ownDev s ∧ pVc a = pVc k ∧ pClass a = 2

/-- The sender of a message here has learned its outcome: its MSEND was waiting for message id. -/
def toldSender (x : Message) (status : Nat) (s n : State) : Prop :=
  ∀ t k, t = x.srcTile → k = x.srcSt → stOf n t k = if (stOf s t k).send = .pending x.id then { stOf s t k with send := .answered status } else stOf s t k

/-! ### Jobs -/

/-- Context c with a child's report in place of an earlier one of its waypoint. -/
def withReport (c : Nat) (h : ChildArr) (s : State) : State :=
  modCtx c (fun x => { x with children := x.children.filter (fun o => !decide (o.idx = h.idx ∧ o.step = h.step ∧ o.rank = h.rank)) ++ [h] }) s

/-- Only context c changed, to x; beside it links and the counts of packets discarded at ports. -/
def ctxDid (c : Nat) (x : Ctx) (s n : State) : Prop :=
  ctxOf n c = x ∧ (∀ d, d ≠ c → ctxOf n d = ctxOf s d) ∧ { n with links := s.links, sentBlks := s.sentBlks, flits := s.flits, ctxs := s.ctxs, regs := s.regs } = s
    ∧ ∀ a, (∀ p, a ≠ aBlw p 0x150) → regRaw n a = regRaw s a

/-- A control packet about waypoint i of a step and a tick (Table 12-5). -/
def wpPacket (opc i step tick : Nat) (k : Packet) : Prop := pOpc k = opc ∧ kIdx k = i % 65536 ∧ kStep k = step % 65536 ∧ kTime k = tick

/-- The member of a rank of context c's job is device m, reached through port o. -/
def rankAt (s : State) (c rank m o : Nat) : Prop := (∃ e, memberOf (ctxOf s c) rank = some (m, e)) ∧ m < 4096 ∧ wayTo s m o

/-! ### Books and the pool -/

/-- Only book b changed, to x; beside it links. -/
def bookDid (b : Nat) (x : Book) (s n : State) : Prop :=
  bookOf n b = x ∧ (∀ d, d ≠ b → bookOf n d = bookOf s d) ∧ { n with links := s.links, sentBlks := s.sentBlks, flits := s.flits, books := s.books } = s

/-- A MIRROR packet of a SUB, well formed and checked, from the partner of book b of plan pl (R456). -/
def mirrorAt (s : State) (p sub : Nat) (k : Packet) (b : Nat) (pl : Plan) : Prop :=
  pktAt s p 0x40 k ∧ pktChecked s k ∧ mSub k = sub ∧ mirrorBook s k = some (b, pl)

/-- Nothing that is looked at after a mirrored page writes memory: the AUDIT region of the step stands, or is not asked for, and the context is at no COMMIT. -/
def mirrorQuiet (s : State) (c b : Nat) (pl : Plan) : Prop :=
  (audits pl = false ∨ (bookOf s b).audited = some (stepOf s c))
    ∧ ∀ i e, (ctxOf s c).next = .at i → (ctxOf s c).wps[i]? = some e → e.kind ≠ .commit

/-- The bytes d were written at a, every other byte of HBM being what it was; while an entry is open for one of their lines they wait (R318). -/
def hbmDid (a : Nat) (d : List Byte) (s n : State) : Prop :=
  (hbmFree s a d.length → hbmRead n a d.length = d ∧ ∀ x, (x < a ∨ a + d.length ≤ x) → hbmRead n x 1 = hbmRead s x 1)
    ∧ (¬ hbmFree s a d.length → n.hbm = s.hbm ∧ n.late = s.late ++ [(a, d)])

/-- A well-formed MIRROR packet of a SUB waits at pool port p (R468). -/
def poolAt (s : State) (p sub : Nat) (k : Packet) : Prop :=
  live s = true ∧ p < 16 ∧ portState s p = 2 ∧ roleOf s p = 8 ∧ pOpc k = 0x40 ∧ mSub k = sub ∧ packetBad k = false
    ∧ (linkOf s p).inbox.contains k = true ∧ mayTake s p k = true

/-! ### Meridian and the management channel -/

/-- A MGMT packet of a kind waits at a torus or buddy port, from a device of the machine (R526). -/
def mgmtAt (s : State) (p kind : Nat) (k : Packet) : Prop :=
  live s = true ∧ p < 16 ∧ fabricPort s p = true ∧ pOpc k = 0x48 ∧ packetBad k = false ∧ (linkOf s p).inbox.contains k = true
    ∧ mayTake s p k = true ∧ pOp k 271 264 = kind ∧ validDev s (pSrc k) = true

/-- Beside registers, links and the Meridian unit's own state, only the log, the count of free values and the records that wait changed. -/
def merDid (s n : State) : Prop :=
  { logKept s n with links := s.links, sentBlks := s.sentBlks, regs := s.regs, mer := s.mer, faults := s.faults } = s ∧ (quiet s → { logKept s n with free := n.free } = n)

/-- The offset that an exchange gives, in 1/16 ns (R388). -/
def exchangeOffset (t1 t2 t3 t4 : Nat) : Int := (((t2 : Int) - t1) + ((t3 : Int) - t4)) / 2

/-! ### Contexts -/

/-- A context command of code cmd comes to the CTX block from src: a write that is allowed, or the front entry of a submission queue whose turn it is (R52, R428). -/
def cmdFrom (s : State) (src : Src) (c cmd : Nat) : Prop :=
  live s = true ∧ c < 16 ∧
    (match src with
      | .reg who => mayWrite who (aCtx c 4) 4 s
      | .queue f q => f < 16 ∧ q < 4096 ∧ (f = 0 ∨ ownsCtx s f c = true)
          ∧ ∃ e, adminTake f q s = .ok e ∧ fld e 7 0 = 0x12 ∧ fld e 83 80 = cmd ∧ fld e 67 64 = c)

/-- Every context but c is as it was. -/
def ctxOthers (c : Nat) (s n : State) : Prop := ∀ d, d ≠ c → ctxOf n d = ctxOf s d

/-- Context c has become FREE with the next generation (R50). -/
def freed (c : Nat) (s n : State) : Prop :=
  (ctxOf n c).state = .free ∧ (ctxOf n c).gen = (ctxOf s c).gen + 1 ∧ aborted n c = false ∧ ctxOthers c s n ∧ n.spd = s.spd ∧ n.tiles = s.tiles

/-- The units of tile t are stopped (Table 15-6, step 2). -/
def stoppedTile (s n : State) (t : Nat) : Prop :=
  (∀ k, k < 2 → stOf n t k = { ({} : Steward) with halt := (stOf s t k).halt, ebreakHalt := (stOf s t k).ebreakHalt, csrSel := (stOf s t k).csrSel })
    ∧ (∀ a i, a < 2 → i < 2 → strOf (maOf n t a) i = {}) ∧ (vxeOf n t).runs = [] ∧ (cpyOf n t).queue = [] ∧ (cpyOf n t).decoded = []
    ∧ (tileOf n t).msgs = []

/-- The teardown of a context whose drain has ended: FREE, or the notices are out (R492). -/
def drainDone (c : Nat) (notify : Bool) (s n : State) : Prop :=
  ((notify = false ∨ (ctxOf s c).members ≤ 1 ∧ (ctxOf s c).rank = 0) → freed c s n)
    ∧ (∀ l, notify = true → l = (List.range (ctxOf s c).members).filter (· ≠ (ctxOf s c).rank) → l ≠ [] →
      ctxOf n c = { ctxOf s c with td := .notice l } ∧ ctxOthers c s n ∧ n.tiles = s.tiles ∧ n.spd = s.spd
        ∧ ∀ r m o, r ∈ l → rankAt s c r m o → ∃ j ∈ (linkOf n o).queue, pOpc j = 0x28 ∧ pOp j 259 256 = 8 ∧ pDst j = m
          ∧ ((ctxOf s c).rank < 4096 → kStep j = stepOf s c % 65536))

/-! ### The host port -/

/-- A well-formed datagram of an opcode comes to the command port in a frame that the host port takes, and is steered to function f (R406, R409 to R411). -/
def dgAt (s : State) (opc : Nat) (d : Datagram) (f : Nat) : Prop :=
  live s = true ∧ frameOk s d.frame = true ∧ steer s d.v6 d.dstIp d.vlan = some f ∧ d.dport = ctPort s ∧ dBad d f = false ∧ dOpc d = opc

/-- Datagrams of function f went out in order; while its priority is paused they are held (R406). -/
def hostOut (f : Nat) (l : List HostOut) (s n : State) : Prop :=
  if s.paused.contains (fld (fnCfg s f) 26 24) then n.heldHost = s.heldHost ++ l.map (fun o => (fld (fnCfg s f) 26 24, o)) ∧ n.sentHost = s.sentHost
  else n.sentHost = s.sentHost ++ l ∧ n.heldHost = s.heldHost

/-- Beside what went out to hosts, n is as s. -/
def hostOnly (s n : State) : Prop := { n with sentHost := s.sentHost, heldHost := s.heldHost } = s

/-- RoCEv2 packets of queue pair m, which is x, went out in order; while the function's ROCE_PRIO is paused they are held (R406). -/
def roceOut (m : Nat) (x : Qp) (l : List RoceOut) (s n : State) : Prop :=
  if s.paused.contains (fld (fnCfg s x.func) 22 20) then
    n.heldRoce = s.heldRoce ++ l.map (fun o => (fld (fnCfg s x.func) 22 20, m, o)) ∧ n.sentRoce = s.sentRoce
  else n.sentRoce = s.sentRoce ++ l.map (fun o => (m, o)) ∧ n.heldRoce = s.heldRoce

/-- It is the next of its session in order: s1 is the state once the acknowledgement it carries has acted, with the datagram accepted in session y (R413). -/
def seqAt (s : State) (opc : Nat) (d : Datagram) (f : Nat) (y : Session) (s1 : State) : Prop :=
  dgAt s opc d f ∧ ∃ x x1, namedSession s f d = some x ∧ sessionOf (takeAck x d s) x.id = some x1 ∧ dSeq d = (x1.accepted + 1) % 2 ^ 32
    ∧ x1.id = x.id ∧ y = { x1 with accepted := dSeq d } ∧ s1 = setSession y (takeAck x d s)

/-- Opcode of a datagram that the module sends. -/
def hOpc (o : HostOut) : Nat := fld o.hdr.toNat 63 56

/-- Beside sessions and what was sent, n is as s1. -/
def sessionsOnly (s1 n : State) : Prop := { n with sessions := s1.sessions, sentHost := s1.sentHost, heldHost := s1.heldHost } = s1

/-- Every session but those of an id is as in s. -/
def sessionsKept (id : Nat) (s n : State) : Prop := n.sessions.filter (fun x => x.id ≠ id) = s.sessions.filter (fun x => x.id ≠ id)

/-- The front entry e of submission queue F:q, of an opcode, is taken by the command processor (R426). -/
def takes (s : State) (f q opc e : Nat) : Prop := live s = true ∧ f < 16 ∧ q < 4096 ∧ adminTake f q s = .ok e ∧ fld e 7 0 = opc

/-- The command is complete in n, with a status and a result: the effect is s1 (R427). -/
def completes (f q e status result : Nat) (s1 n : State) : Prop := n = qComplete f q (fld e 31 16) status result s1

/-- A RoCEv2 packet is steered to queue pair x, which it comes from the peer of (R409, R430). -/
def roceAt (s : State) (r : Roce) (x : Qp) : Prop :=
  live s = true ∧ frameOk s r.frame = true ∧ steer s r.v6 r.dstIp r.vlan = some x.func ∧ qpOf s r.qpn = some x ∧ r.icrcOk = true ∧ r.ecn = false
    ∧ decide (qpFld x 95 95 = 1) = r.v6 ∧ r.srcIp.toNat = (if r.v6 then qpFld x 319 192 else qpFld x 223 192)

/-- It is the request that the queue pair expects. -/
def roceNext (s : State) (r : Roce) (x : Qp) : Prop := roceAt s r x ∧ (x.state = .rtr ∨ x.state = .rts) ∧ r.psn = x.expPsn

/-! ### Books' commands, faults, firmware, power -/

/-- Every register but the counts of packets discarded at ports is as it was. -/
def portCountsOnly (s n : State) : Prop := ∀ a, (∀ p, a ≠ aBlw p 0x150) → regRaw n a = regRaw s a

/-- Book b with a command of code op under way (Table 14-9). -/
def bookBusy (s : State) (b op : Nat) (p : Plan) : Book :=
  { bookOf s b with
    state := .busy, plan := some p
    cmd := some { op := op, arg := regRaw s (aFbk b 0x70), back := (bookOf s b).state, slotOf := none, labels := [], result := 0 } }

/-- What a MIRROR packet says (Table 14-6), with its destination. -/
def mirrorKey (j : Packet) : Nat × Nat × Nat × Nat × Nat × Nat := (pOpc j, mSub j, mSlot j, mIndex j, mStep j, pDst j)

/-- Packets l were queued at port o, in order, and nowhere else. -/
def queuedList (o : Nat) (l : List Packet) (s n : State) : Prop :=
  (linkOf n o).queue = (linkOf s o).queue ++ l ∧ ∀ q, q ≠ o → linkOf n q = linkOf s q

/-- Context c's next waypoint is not one whose arrival counts now: some participant has not reached it. -/
def wpQuiet (s : State) (c : Nat) : Prop :=
  ∀ i, (ctxOf s c).next = .at i → (ctxOf s c).aLocal = none ∧ ∃ t ∈ tilesOf s c, t ∉ (ctxOf s c).arrived

/-- A service request of an operation code waits in the mailbox, and the boot core may serve it (R518). -/
def reqAt (s : State) (op v : Nat) : Prop := live s = true ∧ reqOpen s = true ∧ reqOf s = v ∧ fld v 7 0 = op

/-- The request has a response with a status and results; nothing else changed but by f. -/
def responded (v status results : Nat) (s n : State) : Prop :=
  n = { s with compass := { s.compass with answer := some (response v status results) } }

/-- The flash lists its bytes in order. -/
def flashSorted (s : State) : Prop := (s.compass.flash.map (·.1)).Pairwise (· < ·)

/-- Record r stands in the store with its SEQ and the action taken, and FLT_STATUS counts on. -/
def recordFiled (r : FaultRec) (s n : State) : Prop :=
  regWords n (aFlt (0x4000 + 64 * (fld (regRaw s (aFlt 0)) 15 0 % 256))) 8 = words64 (recordBits r (fld (regRaw s (aFlt 0)) 15 0) (takenAction s r)) 8
    ∧ regRaw n (aFlt 0) = (fld (regRaw s (aFlt 0)) 15 0 + 1) % 65536
        + (bit (regRaw s (aFlt 0)) 16 || decide (256 ≤ fld (regRaw s (aFlt 0)) 15 0)).toNat <<< 16

/-- Every record that waited, but r, still waits; it may have counted more. -/
def recordsKept (r : FaultRec) (s n : State) : Prop :=
  ∀ x ∈ s.faults, x ≠ r → ∃ y ∈ n.faults, y.unit = x.unit ∧ y.die = x.die ∧ y.cls = x.cls ∧ y.code = x.code ∧ y.time = x.time

end Sys2Proof.Machine
end

