-- ==== Sys2Proof/Certificates/Slice0/Obligations.lean ====
section
/-!
DEFINITION. The statements about the module, for the provers. Each docstring names the rules it rests on.
-/

section

open Sys2Proof Sys2Proof.Machine

/-! ### The block as a whole -/

/-- The model's step (DESIGN CHOICE: log entry 1): it takes the command at the front of the queue and runs it on the state with the queue's rest; with no
command waiting a tick of Meridian time passes. -/
def Obligations.StepRunsFront : Prop :=
  (∀ (c : Instr) (rest : List Instr) (s : State), s.pending = c :: rest → step s = exec c { s with pending := rest })
  ∧ (∀ s : State, s.pending = [] → ∃ n, step s = .next n ∧ n.pending = []
      ∧ (s.pins.pwrEn = false → n = s)
      ∧ (s.pins.pwrEn = true → now n = (if s.mer.stopTo.isSome then now s else (now s + 1) % 2 ^ 64)
          ∧ (∀ a, a ≠ aGlob 0x200000 → a ≠ aPwrc 0 → regRaw n a = regRaw s a)
          ∧ { n with regs := s.regs, stackCtl := s.stackCtl } = s))

/-- Every command whose operands name units the module has (R21, R22) runs to a next state in every state; one that names no such unit faults;
none is ever refused. -/
def Obligations.EveryCommandCompletes : Prop :=
  ∀ (c : Instr) (s : State), (wellFormed c = true → ∃ n, exec c s = .next n) ∧ (wellFormed c = false → exec c s = .fault .noSuchUnit)

/-- R495, R563: between the decision of a chip reset and its end, and while the module is unpowered, no unit issues or takes a command: only
the rows of the reset itself, of power, clocks, sideband and the ones that reach the fault unit or the counter act. -/
def Obligations.OnlyLiveModuleActs : Prop :=
  ∀ (c : Instr) (s : State), live s = false → actsOffline c = false → wellFormed c = true → exec c s = .next s

/-- R19, Table 2-1, R324, R339, R567: the state after reset. Every context is FREE, every port is DOWN, every steward in reset, every unit idle and
every queue empty; the module is unpowered. Values of single registers are those of their tables. -/
def Obligations.ResetState : Prop :=
  (∀ c, (ctxOf State.reset c).state = .free) ∧ (∀ t n, (stOf State.reset t n).run = .reset)
  ∧ (∀ p, p < 16 → portState State.reset p = 0) ∧ (∀ t, vxeOf State.reset t = {} ∧ cpyOf State.reset t = {} ∧ maOf State.reset t 0 = {} ∧ maOf State.reset t 1 = {})
  ∧ (∀ b, (bookOf State.reset b).state = .unbound) ∧ (∀ k, qOf State.reset k = none)
  ∧ State.reset.pending = [] ∧ State.reset.pins.pwrEn = false ∧ State.reset.memOk = true
  ∧ now State.reset = 0 ∧ regRaw State.reset (aGlob 0x100018) = 1000000000 ∧ regRaw State.reset (aGlob 0x1200000) = 50000000
  ∧ regRaw State.reset (aHost 8) = 24680 ∧ (∀ t, t < 128 → regRaw State.reset (aTile t 0 0) = 0x100)

/-- R565, R566: what an unpowered module holds stays as the loss of power left it: every step from such a state that does not
bring the module up leaves another one, and changes nothing but the queue. -/
def Obligations.OffStaysOff : Prop :=
  ∀ s n : State, Off s → step s = .next n → Off n ∧ n = { s with pending := s.pending.tail }

/-- The state after reset is that of an unpowered module (DESIGN CHOICE: log entry 5). -/
def Obligations.ResetIsOff : Prop := Off State.reset

/-- R15, R16, R36, Table 2-8: a register write by F0 or the firmware that the checks allow is the write of its window: in the Meridian and the DAT windows each
RW bit takes its value, a one clears a W1C bit and sets a W1S bit, and every other bit stands (commands, DAT_MATCH and an INTERVAL_LOG2 out of bounds apart); one that the checks
refuse changes nothing but files a record of class 1. Every command that is one register access is that register write, and a steward's is the store it executes next. -/
def Obligations.RegisterAccess : Prop :=
  (∀ (s : State) (who : Who) (a width : Nat) (v : Word), live s = true → (who = .f0 ∨ who = .compass) → widthOk width = true → a < 2 ^ 40 →
    (∀ n, writeReg who a width v.toNat s = .ok n → exec (.registerWrite who a width v) s = .next n)
    ∧ (∀ e, writeReg who a width v.toNat s = .error e → ∃ n, exec (.registerWrite who a width v) s = .next n ∧ { n with faults := s.faults } = s
        ∧ (s.faults.any (sameUnit s (blankFault s 1 e (if who = .f0 then 0x22 else 0x27) 4)) = false →
            ∃ r, n.faults = s.faults ++ [r] ∧ r.cls = 1 ∧ r.code = e ∧ r.addr = some (ownDev s, a) ∧ r.ctx = none)))
  ∧ (∀ (s : State) (who : Who) (o a width x : Nat) (v : Word) (r : RegSpec), live s = true → (who = .f0 ∨ who = .compass) → widthOk width = true → a = aGlob o →
      0x200000 ≤ o → o < 0x400000 → o ≠ 0x300008 → o ≠ 0x300018 → (o = 0x200020 → 16 ≤ fld v.toNat 4 0 ∧ fld v.toNat 4 0 ≤ 24) →
      regFor who true a width s = .ok r → (r.wide = false ∨ width = 8) → x = v.toNat % 2 ^ (8 * width) →
      ∃ n, exec (.registerWrite who a width v) s = .next n
        ∧ (∀ i, i < 64 → bit (regRaw n a) i = ((bit r.rw i && bit x i) || (bit r.w1s i && bit x i)
            || (bit (regRaw s a) i && !bit r.rw i && !(bit r.w1c i && bit x i))))
        ∧ (∀ b, b ≠ a → regRaw n b = regRaw s b) ∧ { n with regs := s.regs } = s)
  ∧ (∀ (s : State) (t m a width : Nat) (v : Word), live s = true → t < 128 → m < 2 → widthOk width = true → a < 2 ^ 40 →
      (nextStore s t m = some (a, width, v.toNat) → exec (.registerWrite (.steward t m) a width v) s = exec (.rv64Instruction t m) s)
      ∧ (nextStore s t m ≠ some (a, width, v.toNat) → exec (.registerWrite (.steward t m) a width v) s = .next s))
  ∧ (∀ (s : State) (who : Who) (t a st k p b c die : Nat) (v : Word), whoOk who = true → t < 128 → a < 2 → st < 2 → k < 8 → p < 16 → b < 16 → c < 16 → die < 4 →
      exec (.maDescHead who t a st v) s = exec (.registerWrite who (aTile t (2 + a) (8 * st)) 8 v) s
      ∧ exec (.cpyDescHead who t v) s = exec (.registerWrite who (aTile t 6 0) 8 v) s
      ∧ exec (.vsCfgWrite who t k v) s = exec (.registerWrite who (aTile t 7 (0x800 + 0x20 * k)) 8 v) s
      ∧ exec (.scacheFlush who die) s = exec (.registerWrite who (aSc die 4) 4 1) s
      ∧ exec (.bookResume who b) s = exec (.registerWrite who (aFbk b 8) 4 1) s
      ∧ exec (.bookBind who b c) s = exec (.registerWrite who (aFbk b 0) 4 (BitVec.ofNat 64 (0x100 + c <<< 16))) s
      ∧ exec (.functionEnable who p) s = exec (.registerWrite who (aFn p 0) 4 (BitVec.ofNat 64 (setBit (regRaw s (aFn p 0)) 31 true))) s
      ∧ exec (.trigger who) s = exec (.registerWrite who (aDat 8) 4 1) s
      ∧ exec (.tileEn who v) s = exec (.registerWrite who (aPwrc 0x18) 8 v) s
      ∧ exec (.start (.reg who) c) s = exec (.registerWrite who (aCtx c 4) 4 3) s)

/-- R11, R312, R301: bytes written to HBM, pinned or not, read back; every other byte reads as before; the memories keep their canonical form, and so
for a scratchpad write. -/
def Obligations.MemoryReadAfterWrite : Prop :=
  (∀ (s : State) (a : Nat) (d : List Byte), hbmRead (hbmWrite a d s) a d.length = d
    ∧ (∀ b, (b < a ∨ a + d.length ≤ b) → hbmRead (hbmWrite a d s) b 1 = hbmRead s b 1)
    ∧ (s.memOk = true → (hbmWrite a d s).memOk = true)
    ∧ (hbmWrite a d s).regs = s.regs ∧ (hbmWrite a d s).spd = s.spd)
  ∧ (∀ (s : State) (t o : Nat) (d : List Byte), spdRead (spdWrite t o d s) t o d.length = d
    ∧ (∀ j, (j < t * spdSize + o ∨ t * spdSize + o + d.length ≤ j) → memByte (spdWrite t o d s).spd j = memByte s.spd j)
    ∧ (s.memOk = true → (spdWrite t o d s).memOk = true)
    ∧ (spdWrite t o d s).regs = s.regs ∧ (spdWrite t o d s).hbm = s.hbm)


/-! ### Vector engine (chapter 6) -/

/-- R205: a lane of a destination takes the new value where its mask bit is 1, and keeps its value where it is 0; a mask register likewise.
R206, lane by lane: INT32 add, subtract and multiply wrap at 32 bits, maximum and minimum compare as signed, negative and absolute value
are exact but for the one number without one; FP32 lanes each take the same function of their own operands, and so does a 16-bit format
in its half lanes. -/
def Obligations.VxeLanes : Prop :=
  (∀ old new en l : Nat, l < 128 →
    laneOf (mergeLanes old new en) l = (if bit en l then laneOf new l else laneOf old l)
      ∧ bit (mergeMask old new en) l = (if bit en l then bit new l else bit old l))
  ∧ (∀ op a b c x l : Nat, l < 128 →
    laneOf (elemOp op 3 a b c) l = laneI op (laneOf a l) (laneOf b l) (Config.int32Corner op (laneOf a l) % 2 ^ 32) % 2 ^ 32
      ∧ laneOf (elemOp op 0 a b c) l = laneF op fmtF32 (laneOf a l) (laneOf b l) (laneOf c l) % 2 ^ 32
      ∧ laneI 0x10 (laneOf a l) (laneOf b l) x = (laneOf a l + laneOf b l) % 2 ^ 32
      ∧ laneI 0x12 (laneOf a l) (laneOf b l) x = (laneOf a l * laneOf b l) % 2 ^ 32)

/-- R200: RUN_BEGIN loads AR0 to AR5 and EIX from the argument block, and the engine is at the run's start.
R200, Table 6-4: NOP only goes on; END starts the next iteration from the run's start with each address register and EIX advanced by its
stride, and after the last iteration completes the run: the queue loses it and COUNT rises by 1. -/
def Obligations.VxeRuns : Prop :=
  (∀ (s : State) (t : Nat) (r : VRun) (rest : List VRun), live s = true → t < 128 → (vxeOf s t).stopped = false → (vxeOf s t).begun = false →
    (vxeOf s t).runs = r :: rest → r.argUe = none → argBad r.arg.toNat = false →
    (vUses (vOpc (tgetD (0 : Word) (vxeOf s t).mc r.start).toNat)).isSome = true →
    ∃ n, exec (.runBegin t) s = .next n ∧ onlyTile t s n
      ∧ { tileOf n t with vxe := (vxeOf s t) } = tileOf s t
      ∧ { vxeOf n t with begun := false, iter := (vxeOf s t).iter, index := (vxeOf s t).index, ar := (vxeOf s t).ar, eix := (vxeOf s t).eix
                         waiting := (vxeOf s t).waiting } = vxeOf s t
      ∧ (vxeOf n t).begun = true ∧ (vxeOf n t).iter = 0 ∧ (vxeOf n t).index = r.start ∧ (vxeOf n t).waiting = false
      ∧ (vxeOf n t).eix.toNat = fld r.arg.toNat 423 384
      ∧ ∀ i, i < 6 → arOf n t i = fld r.arg.toNat (64 * i + 23) (64 * i))
  ∧ ((∀ (s : State) (t : Nat), vxeRuns s t 0x00 → ∃ n, exec (.nop t false) s = .next n ∧ vxeDid t id s n)
  ∧ (∀ (s : State) (t : Nat) (r : VRun) (rest : List VRun), live s = true → t < 128 → vxeReady s t 1 = true → vLegal (vxeWord s t) = true →
      (vxeOf s t).runs = r :: rest →
      ((vxeOf s t).iter < r.iterM1 → (vUses (vOpc (tgetD (0 : Word) (vxeOf s t).mc r.start).toNat)).isSome = true →
        ∃ n, exec (.endIteration t false) s = .next n ∧ onlyTile t s n
          ∧ tileOf n t = { tileOf s t with vxe := { nextIteration r.arg.toNat (vxeOf s t) with index := r.start, waiting := false } }
          ∧ (vxeOf n t).iter = (vxeOf s t).iter + 1
          ∧ (vxeOf n t).eix = (vxeOf s t).eix + BitVec.ofNat 40 (fld r.arg.toNat 447 424)
          ∧ ∀ i, i < 6 → tgetD 0 (vxeOf n t).ar i = tgetD 0 (vxeOf s t).ar i + BitVec.ofNat 24 (fld r.arg.toNat (64 * i + 47) (64 * i + 24)))
      ∧ (r.iterM1 ≤ (vxeOf s t).iter →
        ∃ n, exec (.endIteration t false) s = .next n ∧ onlyTile t s n
          ∧ tileOf n t = { tileOf s t with vxe := { vxeOf s t with runs := rest, begun := false, count := (vxeOf s t).count + 1 } })))

/-- R204, R207: a load takes 512, 4 or 16 bytes at AR + IMM × 64, 4 or 16 of the tile's scratchpad into its destination under the predicate;
VLDB gives every lane the 4 bytes. What a contended cycle granted the engine's port is what the load sees (R286); with nothing granted it is the
scratchpad.
R205, R207: VST stores the 4 bytes of each lane that its mask enables at AR + IMM × 64, MST the 16 bytes of a mask register at AR + IMM × 16;
every byte of every scratchpad outside them reads as before, and the engine goes on with its registers unchanged (what of them a contended cycle
has already granted is ScratchpadCycle's). -/
def Obligations.VxeMemory : Prop :=
  (∀ (s : State) (t a n : Nat), (tileOf s t).ports.got = [] → portView t portVec s = s ∧ portTake t portVec a n s = s) ∧
  (∀ (s : State) (t a : Nat),
    (vxeRuns s t 0x08 → vAddr s t (vxeWord s t) 64 = a → a + 512 ≤ spdSize → firstUe s t [(a, 512)] = none →
      ∃ n, exec (.vld t false) s = .next n ∧ vxeTook t a 512 (withVreg (vVd (vxeWord s t))
        (mergeLanes (vreg s t (vVd (vxeWord s t))) (ofBytes (spdRead (portView t portVec s) t a 512)) (vEn s t (vxeWord s t)))) s n)
    ∧ (vxeRuns s t 0x0A → vAddr s t (vxeWord s t) 4 = a → a + 4 ≤ spdSize → firstUe s t [(a, 4)] = none →
      ∃ n, exec (.vldb t false) s = .next n ∧ vxeTook t a 4 (withVreg (vVd (vxeWord s t))
        (mergeLanes (vreg s t (vVd (vxeWord s t))) (splat (ofBytes (spdRead (portView t portVec s) t a 4))) (vEn s t (vxeWord s t)))) s n)
    ∧ (vxeRuns s t 0x0B → vAddr s t (vxeWord s t) 16 = a → a + 16 ≤ spdSize → firstUe s t [(a, 16)] = none →
      ∃ n, exec (.mld t false) s = .next n ∧ vxeTook t a 16 (withMreg (fld (vxeWord s t) 10 8)
        (mergeMask (mreg s t (fld (vxeWord s t) 10 8)) (ofBytes (spdRead (portView t portVec s) t a 16)) (vEn s t (vxeWord s t)))) s n))
  ∧ (∀ (s : State) (t a : Nat),
    (vxeRuns s t 0x09 → vAddr s t (vxeWord s t) 64 = a → a + 512 ≤ spdSize → (tileOf s t).ports.got = [] →
      (∀ l, l < 128 → bit (vEn s t (vxeWord s t)) l = true → vsWritable s t (a + 4 * l) 4 = true) →
      ∃ n, exec (.vst t false) s = .next n ∧ vxeOf n t = stepped (vxeOf s t)
        ∧ (∀ l i, l < 128 → i < 4 → memByte n.spd (t * spdSize + a + 4 * l + i)
            = if bit (vEn s t (vxeWord s t)) l then BitVec.ofNat 8 (src1 s t (vxeWord s t) >>> (32 * l + 8 * i))
              else memByte s.spd (t * spdSize + a + 4 * l + i))
        ∧ ∀ j, (j < t * spdSize + a ∨ t * spdSize + a + 512 ≤ j) → memByte n.spd j = memByte s.spd j)
    ∧ (vxeRuns s t 0x0C → vAddr s t (vxeWord s t) 16 = a → a + 16 ≤ spdSize → (tileOf s t).ports.got = [] →
      (∀ l, l < 4 → vsWritable s t (a + 4 * l) 4 = true) →
      ∃ n, exec (.mst t false) s = .next n ∧ vxeOf n t = stepped (vxeOf s t)
        ∧ (∀ i, i < 16 → memByte n.spd (t * spdSize + a + i) = BitVec.ofNat 8 (mreg s t (fld (vxeWord s t) 15 13) >>> (8 * i)))
        ∧ ∀ j, (j < t * spdSize + a ∨ t * spdSize + a + 16 ≤ j) → memByte n.spd j = memByte s.spd j))

/-- R206: each element operation writes, under the predicate, its function of the source registers to its destination and changes nothing else
(the values that the spec does not state for INT32 |x| and −x are free: DESIGN CHOICE: log entry 20).
R206: VSEL takes each lane from the first source where its mask bit is 1 and from the second where it is 0; VIOTA, VCMP and MOP write their
results under the predicate. -/
def Obligations.VxeElement : Prop :=
  (∀ (s : State) (t op : Nat) (i : Instr),
    (op, i) ∈ [(0x10, Instr.vadd t false), (0x11, Instr.vsub t false), (0x12, Instr.vmul t false), (0x13, Instr.vfma t false),
      (0x14, Instr.vmax t false), (0x15, Instr.vmin t false), (0x16, Instr.vabs t false), (0x17, Instr.vneg t false), (0x18, Instr.vdiv t false)] →
    vxeRuns s t op →
    ∃ n, exec i s = .next n
      ∧ vxeDid t (withVreg (vVd (vxeWord s t)) (mergeLanes (vreg s t (vVd (vxeWord s t)))
          (elemOp op (vMode (vxeWord s t)) (src1 s t (vxeWord s t)) (src2 s t (vxeWord s t)) (src3 s t (vxeWord s t)))
          (vEn s t (vxeWord s t)))) s n)
  ∧ (∀ (s : State) (t : Nat),
    (vxeRuns s t 0x19 → ∃ n, exec (.vsel t false) s = .next n ∧ vxeDid t (withVreg (vVd (vxeWord s t))
      (mergeLanes (src2 s t (vxeWord s t)) (src1 s t (vxeWord s t)) (mreg s t (vMsk (vxeWord s t))))) s n)
    ∧ (vxeRuns s t 0x1A → ∃ n, exec (.viota t false) s = .next n ∧ vxeDid t (withVreg (vVd (vxeWord s t))
      (mergeLanes (vreg s t (vVd (vxeWord s t))) (viotaOp (src1 s t (vxeWord s t))) (vEn s t (vxeWord s t)))) s n)
    ∧ (vxeRuns s t 0x20 → ∃ n, exec (.vcmp t false) s = .next n ∧ vxeDid t (withMreg (fld (vxeWord s t) 10 8)
      (mergeMask (mreg s t (fld (vxeWord s t) 10 8)) (vcmpOp (vFn (vxeWord s t)) (vMode (vxeWord s t)) (src1 s t (vxeWord s t)) (src2 s t (vxeWord s t)))
        (vEn s t (vxeWord s t)))) s n)
    ∧ (vxeRuns s t 0x21 → ∃ n, exec (.mop t false) s = .next n ∧ vxeDid t (withMreg (fld (vxeWord s t) 10 8)
      (mergeMask (mreg s t (fld (vxeWord s t) 10 8)) (mopOp (vFn (vxeWord s t)) (mreg s t (fld (vxeWord s t) 15 13)) (mreg s t (fld (vxeWord s t) 20 18))
        (vCount s t (vxeWord s t))) (vEn s t (vxeWord s t)))) s n)
    ∧ ∀ a l, l < 128 → laneOf (viotaOp a) l = (laneOf a 0 + l) % 2 ^ 32)

/-- R214, R215: CVT runs to its end: with no report asked for (MODE bit 2 zero) it writes its destination registers under the predicate, the narrowed,
the MX or the widened elements of its sources, and changes nothing else; with reports asked for it writes the same registers.
R216, R217: NLU and VDER write each enabled lane's function of its own operands and change nothing else. -/
def Obligations.VxeConvert : Prop :=
  ∀ (s : State) (t w : Nat), vxeWord s t = w →
    (vxeRuns s t 0x28 → ∃ n, exec (.cvt t false) s = .next n ∧ vxeOf n t = stepped (cvtWritten s t w (vxeOf s t)) ∧ n.spd = s.spd
      ∧ (bit (vMode w) 2 = false → vxeDid t (cvtWritten s t w) s n))
    ∧ (vxeRuns s t 0x30 → ∃ n, exec (.nlu t false) s = .next n ∧ vxeDid t (withVreg (vVd w) (mergeLanes (vreg s t (vVd w))
      (mapLanes (fun _ x => toF32 (nluOf (vFn w) (f32 x))) (src1 s t w)) (vEn s t w))) s n)
    ∧ (vxeRuns s t 0x31 → ∃ n, exec (.vder t false) s = .next n ∧ vxeDid t (withVreg (vVd w) (mergeLanes (vreg s t (vVd w))
      (mapLanes (fun l y => toF32 (vderOf (vFn w) (f32 y) (f32 (laneOf (src2 s t w) l)) (f32 (src3 s t w % 2 ^ 32)))) (src1 s t w)) (vEn s t w))) s n)
    ∧ (cvtMx (vFn w) = true → cvtResults s t w = [(mxConvert (vFn w) (vDraw s t w) (cvtSource s t w 4)).1, (mxConvert (vFn w) (vDraw s t w) (cvtSource s t w 4)).2.1])
    ∧ (cvtMx (vFn w) = false → cvtNarrow (vFn w) = true → cvtResults s t w
        = [joinLanes (cvtWidth (vFn w)) (narrow (vFn w) (bit (vMode w) 1) (vDraw s t w) (cvtSource s t w (cvtN (vFn w)))).1])
    ∧ ∀ f a l, l < 128 → laneOf (mapLanes f a) l = f l (laneOf a l) % 2 ^ 32

/-- R218 to R222: RCLR empties an accumulator; RACC of a function whose kind fits folds the enabled lanes into it; RGET writes the
accumulator's value, class or scaled value to every enabled lane.
R224, R225, R227: the softmax instructions write every lane of their destination, TOPK two destinations; nothing else of the engine changes. -/
def Obligations.VxeReduceSoftmax : Prop :=
  (∀ (s : State) (t : Nat),
    (vxeRuns s t 0x38 → ∃ n, exec (.rclr t false) s = .next n ∧ vxeDid t (withRacc (vRa (vxeWord s t)) {}) s n)
    ∧ (∀ r, vxeRuns s t 0x39 →
        raccOp (vFn (vxeWord s t)) (src1 s t (vxeWord s t)) (src2 s t (vxeWord s t)) (vEn s t (vxeWord s t)) (raccOf s t (vRa (vxeWord s t))) = some r →
        ∃ n, exec (.racc t false) s = .next n ∧ vxeDid t (withRacc (vRa (vxeWord s t)) r) s n)
    ∧ (vxeRuns s t 0x3A → vFn (vxeWord s t) = 0 → ∃ n, exec (.rget t false) s = .next n ∧ vxeDid t (withVreg (vVd (vxeWord s t))
        (mergeLanes (vreg s t (vVd (vxeWord s t))) (splat (toF32 (raccValue (raccOf s t (vRa (vxeWord s t)))))) (vEn s t (vxeWord s t)))) s n)
    ∧ (∀ k, vxeRuns s t 0x3A → vFn (vxeWord s t) = 1 → raccClass (raccOf s t (vRa (vxeWord s t))) = k → ∃ n, exec (.rget t false) s = .next n
        ∧ vxeOf n t = stepped (withVreg (vVd (vxeWord s t)) (mergeLanes (vreg s t (vVd (vxeWord s t))) (splat k) (vEn s t (vxeWord s t))) (vxeOf s t))
        ∧ n.spd = s.spd
        ∧ (bit (vMode (vxeWord s t)) 2 = false → ∀ a, a ≠ aTile t 4 0x38 → a ≠ aTile t 4 0x40 → regRaw n a = regRaw s a)
        ∧ regRaw n (aTile t 4 0x38) = (if k = 1 then satAdd 64 (regRaw s (aTile t 4 0x38)) 1 else regRaw s (aTile t 4 0x38))
        ∧ regRaw n (aTile t 4 0x40) = (if k = 3 then satAdd 64 (regRaw s (aTile t 4 0x40)) 1 else regRaw s (aTile t 4 0x40)))
    ∧ (vxeRuns s t 0x3A → vFn (vxeWord s t) = 2 → ∃ n, exec (.rget t false) s = .next n ∧ vxeDid t (withVreg (vVd (vxeWord s t))
        (mergeLanes (vreg s t (vVd (vxeWord s t))) (splat (toF32 (nmul (raccValue (raccOf s t (vRa (vxeWord s t)))) (f32 (src2 s t (vxeWord s t) % 2 ^ 32)))))
          (vEn s t (vxeWord s t)))) s n))
  ∧ (∀ (s : State) (t : Nat),
    (vxeRuns s t 0x40 → ∃ n, exec (.smxe t false) s = .next n ∧ vxeDid t (withVreg (vVd (vxeWord s t))
      (mapLanes (fun l x => toF32 (smxeLane (raccOf s t (vRa (vxeWord s t))) (bit (vEn s t (vxeWord s t)) l) (f32 x))) (src1 s t (vxeWord s t)))) s n)
    ∧ (vxeRuns s t 0x41 → ∃ n, exec (.smxn t false) s = .next n ∧ vxeDid t (withVreg (vVd (vxeWord s t))
      (mapLanes (fun _ e => toF32 (smxnLane (raccValue (raccOf s t (vRa (vxeWord s t)))) (f32 e))) (src1 s t (vxeWord s t)))) s n)
    ∧ (vxeRuns s t 0x42 → 0 ≤ sgn 32 (src3 s t (vxeWord s t)) → sgn 32 (src3 s t (vxeWord s t)) ≤ 3 →
      ∃ n, exec (.smxb t false) s = .next n ∧ vxeDid t (withVreg (vVd (vxeWord s t))
        (mapLanes (fun l y => toF32 (smxbLane (raccValue (raccOf s t (vRa (vxeWord s t)))) (sgn 32 (src3 s t (vxeWord s t)))
          (bit (vEn s t (vxeWord s t)) l) (f32 y) (f32 (laneOf (src2 s t (vxeWord s t)) l)))) (src1 s t (vxeWord s t)))) s n)
    ∧ (vxeRuns s t 0x48 → ∃ n, exec (.topk t false) s = .next n ∧ vxeDid t
      (fun x => withVreg (vVd (vxeWord s t) + 1)
        (topkOp (vFn (vxeWord s t)) (vMode (vxeWord s t)) (vImm (vxeWord s t)).toNat (src1 s t (vxeWord s t)) (vreg s t (vVs1 (vxeWord s t) + 1))
          (src2 s t (vxeWord s t)) (vreg s t (vVs2 (vxeWord s t) + 1)) (vEn s t (vxeWord s t))).2
        (withVreg (vVd (vxeWord s t))
          (topkOp (vFn (vxeWord s t)) (vMode (vxeWord s t)) (vImm (vxeWord s t)).toNat (src1 s t (vxeWord s t)) (vreg s t (vVs1 (vxeWord s t) + 1))
            (src2 s t (vxeWord s t)) (vreg s t (vVs2 (vxeWord s t) + 1)) (vEn s t (vxeWord s t))).1 x)) s n))

/-- R210 to R213: FTQPOP moves the oldest entry that its filter matches from the array's queue to its slot, and waits while there is none;
ACCMSK writes the row's mask; ACCREL empties the slot and releases the buffers of its pass. An occupied slot of FTQPOP, and an empty one or a row
outside the pass of the others, stops the engine with code 3. What was pushed before a cycle can be popped from it on (Table 6-12).
R203, R229: a microinstruction that the store delivers with an error, or that is not legal, stops the engine with VXE_STOP written; every
register of the engine stays. -/
def Obligations.VxeFinishedTiles : Prop :=
  (∀ (s : State) (t : Nat),
    (∀ a k e, a < 2 → vxeRuns s t 0x50 → fld (vFn (vxeWord s t)) 0 0 = a → slotOf s t (vSlot (vxeWord s t)) = none →
      (maOf s t a).ftq[k]? = some e → ftqMatch (fld (vFn (vxeWord s t)) 2 1) e = true →
      (∀ j e', j < k → (maOf s t a).ftq[j]? = some e' → ftqMatch (fld (vFn (vxeWord s t)) 2 1) e' = false) →
      ∃ n, exec (.ftqpop t false) s = .next n ∧ onlyTile t s n ∧ maOf n t a = { maOf s t a with ftq := (maOf s t a).ftq.eraseIdx k }
        ∧ maOf n t (1 - a) = maOf s t (1 - a)
        ∧ vxeOf n t = stepped { vxeOf s t with slots := tput (vxeOf s t).slots (vSlot (vxeWord s t)) e.bits })
    ∧ (∀ e m, vxeRuns s t 0x52 → slotRow s t (vxeWord s t) = some (e, m) →
      ∃ n, exec (.accmsk t false) s = .next n ∧ vxeDid t (withMreg (fld (vxeWord s t) 10 8) (mergeMask (mreg s t (fld (vxeWord s t) 10 8))
        (joinLanes 1 ((List.range 128).map (fun l => (slotLane e m l).isSome.toNat))) (vEn s t (vxeWord s t)))) s n)
    ∧ (∀ e m, vxeRuns s t 0x51 → slotRow s t (vxeWord s t) = some (e, m) →
      ∃ n, exec (.accrd t false false) s = .next n ∧ (bit (vMode (vxeWord s t)) 2 = false → { n with tiles := s.tiles } = s) ∧ n.spd = s.spd ∧ (vxeOf n t).index = (vxeOf s t).index + 1
        ∧ (vxeOf n t).slots = (vxeOf s t).slots ∧ maOf n t 0 = maOf s t 0 ∧ maOf n t 1 = maOf s t 1
        ∧ (∀ d, d ≠ vVd (vxeWord s t) → vreg n t d = vreg s t d)
        ∧ ∀ l, l < 128 → bit (vEn s t (vxeWord s t)) l = true → slotLane e m l = none → laneOf (vreg n t (vVd (vxeWord s t))) l = 0)
    ∧ (∀ e, vxeRuns s t 0x53 → slotOf s t (vSlot (vxeWord s t)) = some e →
      ∃ n, exec (.accrel t false) s = .next n ∧ onlyTile t s n
        ∧ maOf n t (fld e 0 0) = { maOf s t (fld e 0 0) with held := (maOf s t (fld e 0 0)).held.filter (fun b => !bit (fld e 17 14) b) }
        ∧ maOf n t (1 - fld e 0 0) = maOf s t (1 - fld e 0 0)
        ∧ vxeOf n t = stepped { vxeOf s t with slots := tdel (vxeOf s t).slots (vSlot (vxeWord s t)) })
    ∧ (∀ a, a < 2 → vxeRuns s t 0x50 → fld (vFn (vxeWord s t)) 0 0 = a → slotOf s t (vSlot (vxeWord s t)) = none →
      (∀ e ∈ (maOf s t a).ftq, ftqMatch (fld (vFn (vxeWord s t)) 2 1) e = false) →
      ∃ n, exec (.ftqpop t false) s = .next n ∧ onlyTile t s n ∧ tileOf n t = { tileOf s t with vxe := { vxeOf s t with waiting := true } })
    ∧ (∀ op i, (op, i) ∈ [(0x50, Instr.ftqpop t false), (0x51, Instr.accrd t false false), (0x52, Instr.accmsk t false), (0x53, Instr.accrel t false)] →
      vxeRuns s t op →
      (op = 0x50 ∧ slotOf s t (vSlot (vxeWord s t)) ≠ none ∨ (op = 0x51 ∨ op = 0x52) ∧ slotRow s t (vxeWord s t) = none
        ∨ op = 0x53 ∧ slotOf s t (vSlot (vxeWord s t)) = none) →
      ∃ n, exec i s = .next n ∧ vxeOf n t = { vxeOf s t with stopped := true, waiting := false } ∧ maOf n t 0 = maOf s t 0 ∧ maOf n t 1 = maOf s t 1
        ∧ regRaw n (aTile t 4 8) = (((vxeOf s t).iter % 65536) <<< 48 + 3 <<< 28 + (vxeOf s t).index % 8192) % 2 ^ 64
        ∧ (∀ u, u ≠ t → tileOf n u = tileOf s u) ∧ (∀ a, a ≠ aTile t 4 8 → regRaw n a = regRaw s a) ∧ n.spd = s.spd ∧ n.hbm = s.hbm)
    ∧ (∀ a, a < 2 → live s = true → t < 128 → ∃ n, exec (.ftqEntryPoppable t a) s = .next n ∧ onlyTile t s n ∧ vxeOf n t = vxeOf s t
        ∧ maOf n t a = { maOf s t a with ftq := (maOf s t a).ftq.map (fun e => { e with poppable := true }) }
        ∧ maOf n t (1 - a) = maOf s t (1 - a)))
  ∧ (∀ (s : State) (t op : Nat) (ue : Bool) (i : Instr),
    (op, i) ∈ [(0x00, Instr.nop t ue), (0x08, Instr.vld t ue), (0x10, Instr.vadd t ue), (0x28, Instr.cvt t ue), (0x39, Instr.racc t ue), (0x50, Instr.ftqpop t ue)] →
    live s = true → t < 128 → vxeReady s t op = true → (ue = true ∨ vLegal (vxeWord s t) = false) →
    ∃ n, exec i s = .next n ∧ vxeOf n t = { vxeOf s t with stopped := true, waiting := false }
      ∧ regRaw n (aTile t 4 8) = (((vxeOf s t).iter % 65536) <<< 48 + (if ue then 5 else 1) <<< 28 + (vxeOf s t).index % 8192) % 2 ^ 64
      ∧ (∀ u, u ≠ t → tileOf n u = tileOf s u) ∧ (∀ a, a ≠ aTile t 4 8 → regRaw n a = regRaw s a) ∧ n.spd = s.spd ∧ n.hbm = s.hbm)

/-! ### Stewards (chapter 3) -/

/-- R91, R92, R95: a fetch takes the two or four bytes at the program counter through the lines of the instruction cache, and changes nothing
but the cache (in a full one the line that goes is a free value: DESIGN CHOICE: log entry 10). A halfword whose low two bits are not 11 is an instruction by itself. -/
def Obligations.StewardFetch : Prop :=
  ∀ (s : State) (t n pc : Nat), n < 2 → (stOf s t n).pc.toNat = pc → pc % 2 = 0 →
    fetchAllowed (stOf s t n) pc = true → fetchAllowed (stOf s t n) (pc + 2) = true →
    (∀ l, l = pc / 64 * 64 ∨ l = (pc + 2) / 64 * 64 →
      firstUe s t [(l, 64)] = none ∧ (tget (stOf s t n).icache l = none ∨ tget (stOf s t n).icache l = some (spdRead s t l 64))) →
    ∃ s', onlySt t n { s with free := s'.free } s' ∧ ((stOf s t n).icache.length < 255 → s'.free = s.free) ∧ stOf s' t n = { stOf s t n with icache := (stOf s' t n).icache }
      ∧ stFetch t n s = (if ofBytes (spdRead s t pc 2) % 4 = 3
          then (.word (some (ofBytes (spdRead s t pc 4))) 4 (ofBytes (spdRead s t pc 4)), s')
          else (.word (expand (ofBytes (spdRead s t pc 2))) 2 (ofBytes (spdRead s t pc 2)), s'))

/-- R89, R91: LUI, AUIPC and every register and immediate operation write their result to rd and go on; x0 reads zero and keeps nothing.
The clauses of the second half are the sum, the difference, and RISC-V's results for a zero divisor. -/
def Obligations.StewardArithmetic : Prop :=
  (∀ (s s' : State) (t n w len raw v : Nat), stAt s t n w len raw s' →
    ((rvOp w = 0x37 ∧ v = immU w)
      ∨ (rvOp w = 0x17 ∧ v = add64 (stOf s' t n).pc.toNat (immU w))
      ∨ (rvOp w = 0x13 ∧ opImm w (gprOf (stOf s' t n) (rvRs1 w)) = some v)
      ∨ (rvOp w = 0x1B ∧ opImmW w (gprOf (stOf s' t n) (rvRs1 w)) = some v)
      ∨ (rvOp w = 0x33 ∧ opReg (rvF7 w) (rvF3 w) (gprOf (stOf s' t n) (rvRs1 w)) (gprOf (stOf s' t n) (rvRs2 w)) = some v)
      ∨ (rvOp w = 0x3B ∧ opRegW (rvF7 w) (rvF3 w) (gprOf (stOf s' t n) (rvRs1 w)) (gprOf (stOf s' t n) (rvRs2 w)) = some v)) →
    ∃ nx, exec (.rv64Instruction t n) s = .next nx ∧ stRetires t n len (rvRd w) v s' nx)
  ∧ (∀ (x : Steward) (d v r : Nat), v < 2 ^ 64 →
      gprOf x 0 = 0 ∧ setGpr 0 v x = x ∧ gprOf (setGpr d v x) r = (if r = d ∧ d ≠ 0 then v else gprOf x r))
  ∧ (∀ a b, a < 2 ^ 64 → b < 2 ^ 64 → opReg 0 0 a b = some ((a + b) % 2 ^ 64)
      ∧ (∃ r, opReg 0x20 0 a b = some r ∧ r < 2 ^ 64 ∧ (r + b) % 2 ^ 64 = a)
      ∧ opReg 1 4 a 0 = some (2 ^ 64 - 1) ∧ opReg 1 5 a 0 = some (2 ^ 64 - 1) ∧ opReg 1 6 a 0 = some a ∧ opReg 1 7 a 0 = some a)

/-- R95, R96: a load takes its bytes from the scratchpad or a register of the tile, little-endian, sign-extended below funct3 4; a store
writes exactly its bytes, and every other byte of every scratchpad reads as before. A load sees what a contended cycle granted its port (R286). -/
def Obligations.StewardLoadStore : Prop :=
  ∀ (s s' : State) (t n w len raw : Nat), stAt s t n w len raw s' →
    (∀ o, rvOp w = 0x03 → rvF3 w ≠ 7 →
      pmpAllows (stOf s' t n) (dataMode (stOf s' t n)) .load (loadAddr (stOf s' t n) w) (rvWidth (rvF3 w)) = true →
      stTarget t (loadAddr (stOf s' t n) w) (rvWidth (rvF3 w)) = .spd o → firstUe s' t [(o, rvWidth (rvF3 w))] = none →
      ∃ nx, exec (.rv64Instruction t n) s = .next nx
        ∧ stRetires t n len (rvRd w) (rvLoaded (rvF3 w) (ofBytes (spdRead (portView t (portSt n) s') t o (rvWidth (rvF3 w)))))
            (portTake t (portSt n) o (rvWidth (rvF3 w)) s') nx)
    ∧ (∀ a v s2, rvOp w = 0x03 → rvF3 w ≠ 7 →
      pmpAllows (stOf s' t n) (dataMode (stOf s' t n)) .load (loadAddr (stOf s' t n) w) (rvWidth (rvF3 w)) = true →
      stTarget t (loadAddr (stOf s' t n) w) (rvWidth (rvF3 w)) = .ctl a →
      readReg (.steward t n) a (rvWidth (rvF3 w)) s' = .ok (v, s2) →
      ∃ nx, exec (.rv64Instruction t n) s = .next nx ∧ stRetires t n len (rvRd w) (rvLoaded (rvF3 w) v) s2 nx)
    ∧ (∀ o, rvOp w = 0x23 → rvF3 w ≤ 3 →
      pmpAllows (stOf s' t n) (dataMode (stOf s' t n)) .store (storeAddr (stOf s' t n) w) (rvWidth (rvF3 w)) = true →
      stTarget t (storeAddr (stOf s' t n) w) (rvWidth (rvF3 w)) = .spd o → vsWritable s' t o (rvWidth (rvF3 w)) = true → (tileOf s' t).ports.got = [] →
      ∃ nx, exec (.rv64Instruction t n) s = .next nx ∧ stOf nx t n = retired len { stOf s' t n with resv := (stOf nx t n).resv }
        ∧ nx.regs = s'.regs ∧ nx.hbm = s'.hbm ∧ nx.ctxs = s'.ctxs
        ∧ (∀ i, i < rvWidth (rvF3 w) → memByte nx.spd (t * spdSize + o + i)
            = BitVec.ofNat 8 (gprOf (stOf s' t n) (rvRs2 w) >>> (8 * i)))
        ∧ ∀ j, (j < t * spdSize + o ∨ t * spdSize + o + rvWidth (rvF3 w) ≤ j) → memByte nx.spd j = memByte s'.spd j)
    ∧ (∀ a s2, rvOp w = 0x23 → rvF3 w ≤ 3 →
      pmpAllows (stOf s' t n) (dataMode (stOf s' t n)) .store (storeAddr (stOf s' t n) w) (rvWidth (rvF3 w)) = true →
      stTarget t (storeAddr (stOf s' t n) w) (rvWidth (rvF3 w)) = .ctl a →
      writeReg (.steward t n) a (rvWidth (rvF3 w)) (gprOf (stOf s' t n) (rvRs2 w)) s' = .ok s2 →
      ∃ nx, exec (.rv64Instruction t n) s = .next nx ∧ stRetires t n len 0 0 s2 nx)

/-- R89, R94, R118: jumps write the next address to rd and go to their target, taken branches to theirs; FENCE only goes on; a CSR instruction
allowed in the mode gives rd the old value and writes the new one. -/
def Obligations.StewardControl : Prop :=
  ∀ (s s' : State) (t n w len raw : Nat), stAt s t n w len raw s' →
    (rvOp w = 0x6F → ∃ nx, exec (.rv64Instruction t n) s = .next nx ∧ onlySt t n s' nx
      ∧ stOf nx t n = setGpr (rvRd w) (add64 (stOf s' t n).pc.toNat len) { stOf s' t n with
          pc := BitVec.ofNat 64 (aliasForm t (add64 (stOf s' t n).pc.toNat (immJ w))), instret := (stOf s' t n).instret + 1 })
    ∧ (rvOp w = 0x67 → rvF3 w = 0 → ∃ nx, exec (.rv64Instruction t n) s = .next nx ∧ onlySt t n s' nx
      ∧ stOf nx t n = setGpr (rvRd w) (add64 (stOf s' t n).pc.toNat len) { stOf s' t n with
          pc := BitVec.ofNat 64 (aliasForm t (setBit (add64 (gprOf (stOf s' t n) (rvRs1 w)) (immI w)) 0 false)),
          instret := (stOf s' t n).instret + 1 })
    ∧ (rvOp w = 0x63 → branchTaken (rvF3 w) (gprOf (stOf s' t n) (rvRs1 w)) (gprOf (stOf s' t n) (rvRs2 w)) = some true →
      ∃ nx, exec (.rv64Instruction t n) s = .next nx ∧ onlySt t n s' nx
      ∧ stOf nx t n = { stOf s' t n with pc := BitVec.ofNat 64 (aliasForm t (add64 (stOf s' t n).pc.toNat (immB w))),
                                         instret := (stOf s' t n).instret + 1 })
    ∧ (rvOp w = 0x63 → branchTaken (rvF3 w) (gprOf (stOf s' t n) (rvRs1 w)) (gprOf (stOf s' t n) (rvRs2 w)) = some false →
      ∃ nx, exec (.rv64Instruction t n) s = .next nx ∧ stRetires t n len 0 0 s' nx)
    ∧ (rvOp w = 0x0F → rvF3 w = 0 → ∃ nx, exec (.rv64Instruction t n) s = .next nx ∧ stRetires t n len 0 0 s' nx)
    ∧ (∀ old s2, rvOp w = 0x73 → rvRow w = .base → rvF3 w % 4 ≠ 0 → csrExists (fld w 31 20) = true →
      csrAllowed (stOf s' t n) (fld w 31 20) = true → (rvF3 w % 4 = 1 ∨ rvRs1 w ≠ 0 → csrReadOnly (fld w 31 20) = false) →
      csrRead s' t n (fld w 31 20) = (old, s2) →
      ∃ nx, exec (.rv64Instruction t n) s = .next nx ∧ onlySt t n s2 nx
      ∧ stOf nx t n = (if rvF3 w % 4 = 1 ∨ rvRs1 w ≠ 0 then
            csrWrite (fld w 31 20) (match rvF3 w % 4 with
              | 1 => if rvF3 w < 4 then gprOf (stOf s' t n) (rvRs1 w) else rvRs1 w
              | 2 => Nat.lor old (if rvF3 w < 4 then gprOf (stOf s' t n) (rvRs1 w) else rvRs1 w)
              | _ => Nat.land old (2 ^ 64 - 1 - (if rvF3 w < 4 then gprOf (stOf s' t n) (rvRs1 w) else rvRs1 w)))
              (setGpr (rvRd w) old (retired len (stOf s2 t n)))
          else setGpr (rvRd w) old (retired len (stOf s2 t n))))

/-- R101: LR reserves its line; SC stores and gives 0 while the reservation of its line stands and gives 1 without a store otherwise, and ends it;
an AMO gives the old value and stores its function of it. -/
def Obligations.StewardAtomic : Prop :=
  ∀ (s s' : State) (t n w len raw o : Nat), stAt s t n w len raw s' →
    gprOf (stOf s' t n) (rvRs1 w) % amoWidth w = 0 → spdOnly t (gprOf (stOf s' t n) (rvRs1 w)) (amoWidth w) = some o →
    (rvRow w = .lr → pmpAllows (stOf s' t n) (dataMode (stOf s' t n)) .load (gprOf (stOf s' t n) (rvRs1 w)) (amoWidth w) = true →
      firstUe s' t [(o, amoWidth w)] = none →
      ∃ nx, exec (.lr t n) s = .next nx ∧ onlySt t n (portTake t (portSt n) o (amoWidth w) s') nx
        ∧ stOf nx t n = setGpr (rvRd w) (sx (8 * amoWidth w) (ofBytes (spdRead (portView t (portSt n) s') t o (amoWidth w))))
            (retired len { stOf s' t n with resv := some (o / 64 * 64) }))
    ∧ (rvRow w = .sc → pmpAllows (stOf s' t n) (dataMode (stOf s' t n)) .store (gprOf (stOf s' t n) (rvRs1 w)) (amoWidth w) = true →
      (stOf s' t n).resv ≠ some (o / 64 * 64) → portWrote s' t (portSt n) o = false →
      ∃ nx, exec (.sc t n) s = .next nx ∧ onlySt t n s' nx
        ∧ stOf nx t n = setGpr (rvRd w) 1 (retired len { stOf s' t n with resv := none }))
    ∧ (rvRow w = .sc → pmpAllows (stOf s' t n) (dataMode (stOf s' t n)) .store (gprOf (stOf s' t n) (rvRs1 w)) (amoWidth w) = true →
      (stOf s' t n).resv = some (o / 64 * 64) → vsWritable s' t o (amoWidth w) = true → (tileOf s' t).ports.got = [] →
      ∃ nx, exec (.sc t n) s = .next nx ∧ stOf nx t n = setGpr (rvRd w) 0 (retired len { stOf s' t n with resv := none })
        ∧ (∀ i, i < amoWidth w → memByte nx.spd (t * spdSize + o + i) = BitVec.ofNat 8 (gprOf (stOf s' t n) (rvRs2 w) >>> (8 * i)))
        ∧ (∀ j, (j < t * spdSize + o ∨ t * spdSize + o + amoWidth w ≤ j) → memByte nx.spd j = memByte s'.spd j)
        ∧ nx.regs = s'.regs ∧ nx.hbm = s'.hbm)
    ∧ (∀ v, rvRow w = .amo → pmpAllows (stOf s' t n) (dataMode (stOf s' t n)) .load (gprOf (stOf s' t n) (rvRs1 w)) (amoWidth w) = true →
      pmpAllows (stOf s' t n) (dataMode (stOf s' t n)) .store (gprOf (stOf s' t n) (rvRs1 w)) (amoWidth w) = true →
      vsWritable s' t o (amoWidth w) = true → (tileOf s' t).ports.got = [] → firstUe s' t [(o, amoWidth w)] = none →
      amoValue (fld w 31 27) (8 * amoWidth w) (ofBytes (spdRead s' t o (amoWidth w))) (gprOf (stOf s' t n) (rvRs2 w)) = some v →
      ∃ nx, exec (.amo t n) s = .next nx
        ∧ stOf nx t n = setGpr (rvRd w) (sx (8 * amoWidth w) (ofBytes (spdRead s' t o (amoWidth w))))
            (retired len { stOf s' t n with resv := (stOf nx t n).resv })
        ∧ (∀ i, i < amoWidth w → memByte nx.spd (t * spdSize + o + i) = BitVec.ofNat 8 (v >>> (8 * i)))
        ∧ (∀ j, (j < t * spdSize + o ∨ t * spdSize + o + amoWidth w ≤ j) → memByte nx.spd j = memByte s'.spd j)
        ∧ nx.regs = s'.regs ∧ nx.hbm = s'.hbm)

/-- R94, R120, R121, Table 3-6: ECALL and EBREAK trap, saving the program counter, cause, value and status and going to the handler in machine
mode; MRET returns; EBREAK halts instead while EBREAK_HALT is 1; a trap within a trap, or without a handler, stops the steward with cause 3;
what is no instruction traps with cause 2.
R125, R126: HALT asks for a halt, which a running steward of a running context takes at its next instruction; RESUME lets a halted one go
on; STEP lets it execute exactly one instruction and halts it again. -/
def Obligations.StewardTrap : Prop :=
  (∀ (s s' : State) (t n w len raw : Nat), stAt s t n w len raw s' →
    (rvRow w = .ecall → trapOk s' t n → ∃ nx, exec (.ecall t n) s = .next nx
      ∧ stTraps t n (match (stOf s' t n).mode with | .user => 8 | .machine => 11) 0 s' nx)
    ∧ (rvRow w = .ebreak → (stOf s' t n).ebreakHalt = false → trapOk s' t n → ∃ nx, exec (.ebreak t n) s = .next nx
      ∧ stTraps t n 3 (stOf s' t n).pc.toNat s' nx)
    ∧ (rvRow w = .ebreak → (stOf s' t n).ebreakHalt = true → ∃ nx, exec (.ebreak t n) s = .next nx ∧ onlySt t n s' nx
      ∧ stOf nx t n = { stOf s' t n with run := .halted, halt := true, stepBit := false })
    ∧ (rvRow w = .mret → (stOf s' t n).mode = .machine → ∃ nx, exec (.mret t n) s = .next nx ∧ onlySt t n s' nx
      ∧ stOf nx t n = { trapReturn t (stOf s' t n) with instret := (stOf s' t n).instret + 1 })
    ∧ (rvRow w = .mret → (stOf s' t n).mode = .user → trapOk s' t n → ∃ nx, exec (.mret t n) s = .next nx ∧ stTraps t n 2 raw s' nx)
    ∧ (rvRow w = .base → rvOp w = 0x0B → trapOk s' t n → ∃ nx, exec (.rv64Instruction t n) s = .next nx ∧ stTraps t n 2 raw s' nx)
    ∧ (rvRow w = .ecall → ((stOf s' t n).intrap = true ∨ (stOf s' t n).mtvec = 0) → ∃ nx, exec (.ecall t n) s = .next nx
      ∧ stOf nx t n = { stOf s' t n with run := .stopped, waitKind := .none, stopCause := 3 }
      ∧ { nx with stewards := s'.stewards, faults := s'.faults } = s'))
  ∧ ((∀ (s : State) (who : Who) (t n : Nat), live s = true → t < 128 → n < 2 → mayWrite who (aDbg t n) 4 s →
    (∃ nx, exec (.dbgHalt who t n) s = .next nx ∧ onlySt t n s nx ∧ stOf nx t n = { stOf s t n with halt := true })
    ∧ (∃ nx, exec (.dbgResume who t n) s = .next nx ∧ onlySt t n s nx
        ∧ stOf nx t n = { stOf s t n with halt := false, run := if (stOf s t n).run = .halted then .running else (stOf s t n).run })
    ∧ (∃ nx, exec (.dbgStep who t n) s = .next nx ∧ onlySt t n s nx
        ∧ stOf nx t n = { stOf s t n with stepBit := true, run := if (stOf s t n).run = .halted ∧ (stOf s t n).halt = false then .running else (stOf s t n).run }))
  ∧ (∀ (s : State) (t n : Nat) (i : Instr), live s = true → t < 128 → n < 2 → (stOf s t n).run = .running → (stOf s t n).halt = true →
      haltable s t = true → i ∈ [Instr.rv64Instruction t n, .wfi t n, .amo t n, .ecall t n, .issue t n, .waypoint t n] →
      ∃ nx, exec i s = .next nx ∧ onlySt t n s nx ∧ stOf nx t n = { stOf s t n with run := .halted, stepBit := false })
  ∧ (∀ (s s' : State) (t n w len raw : Nat), live s = true → t < 128 → n < 2 → (stOf s t n).run = .halted → (stOf s t n).stepBit = true →
      haltable s t = true → stFetch t n (setSt t n { stOf s t n with run := .running } s) = (.word (some w) len raw, s') → rvRow w = .wfi →
      ∃ nx, exec (.wfi t n) s = .next nx ∧ onlySt t n s' nx
        ∧ stOf nx t n = { retired len (stOf s' t n) with run := .halted, stepBit := false }))

/-- R93, R112 to R116, R351, R534: FENCE.I empties the cache; WFI and FENCE.L only go on; WAITC completes once the count has reached the ticket
(its low 32 bits: the model's reading, DEDUCED: log entry 90), or with 1 when the unit stopped, and waits else; FENCE.D and FENCE.F go on once no posted copy access
before them is open and wait until then; PMARK writes the phase ring; DATUM triggers a datum 64 ticks on. -/
def Obligations.StewardFencesAndMarks : Prop :=
  ∀ (s s' : State) (t n w len raw : Nat), stAt s t n w len raw s' →
    (rvRow w = .fenceI → ∃ nx, exec (.fenceI t n) s = .next nx ∧ onlySt t n s' nx
      ∧ stOf nx t n = retired len { stOf s' t n with icache := [] })
    ∧ (rvRow w = .wfi → ∃ nx, exec (.wfi t n) s = .next nx ∧ stRetires t n len 0 0 s' nx)
    ∧ (∀ v k count rel stop, rvRow w = .waitc → gprOf (stOf s' t n) (rvRs1 w) = v → gprOf (stOf s' t n) (rvRs2 w) = k → Machine.unitOk v true = true → unitCount s' t v = (count, rel, stop) →
      (0 ≤ sgn 32 (count - BitVec.ofNat 32 k).toNat → ∃ nx, exec (.waitc t n) s = .next nx ∧ stRetires t n 4 (rvRd w) 0 s' nx)
      ∧ (sgn 32 (count - BitVec.ofNat 32 k).toNat < 0 → stop = true → ∃ nx, exec (.waitc t n) s = .next nx ∧ stRetires t n 4 (rvRd w) 1 s' nx)
      ∧ (sgn 32 (count - BitVec.ofNat 32 k).toNat < 0 → stop = false →
          ∃ nx, exec (.waitc t n) s = .next nx ∧ onlySt t n s' nx ∧ stOf nx t n = waitsAt .waitc w (stOf s' t n)))
    ∧ (rvRow w = .fenceL → ∃ nx, exec (.fenceL t n) s = .next nx ∧ stRetires t n len 0 0 s' nx)
    ∧ (∀ far i, (far, i) ∈ [(false, Instr.fenceD t n), (true, Instr.fenceF t n)] → rvRow w = (if far then .fenceF else .fenceD) →
      (postedBefore s' t (fenceMark s' t n) far = false → ∃ nx, exec i s = .next nx ∧ stRetires t n len 0 0 s' nx)
      ∧ (postedBefore s' t (fenceMark s' t n) far = true → ∃ nx, exec i s = .next nx ∧ onlySt t n s' nx
          ∧ stOf nx t n = waitsAt .fence w { stOf s' t n with fenceMark := fenceMark s' t n }))
    ∧ (∀ c h e, rvRow w = .pmark → gprOf (stOf s' t n) (rvRs1 w) = c → c < 256 → regRaw s' (aPm t 0x800) = h →
      e = pmEntry (regRaw s' (aPm t (0xA00 + 16 * c))) (regRaw s' (aPm t (0xA00 + 16 * c) + 8)) (now s') →
      ∃ nx, exec (.pmark t n) s = .next nx ∧ { nx with regs := s'.regs, stewards := s'.stewards } = s'
        ∧ stOf nx t n = retired len (stOf s' t n)
        ∧ regRaw nx (aPm t (0x900 + 16 * (h % 16))) = now s' ∧ regRaw nx (aPm t (0x900 + 16 * (h % 16)) + 8) = c + n <<< 8
        ∧ regRaw nx (aPm t 0x800) = (h % 16 + 1) % 16 + (satAdd 24 (h >>> 8) 1) <<< 8
        ∧ (c < 32 → regRaw nx (aPm t (0xA00 + 16 * c)) = e.1 ∧ regRaw nx (aPm t (0xA00 + 16 * c) + 8) = e.2)
        ∧ ∀ a, a ∉ [aPm t 0x800, aPm t (0x900 + 16 * (h % 16)), aPm t (0x900 + 16 * (h % 16)) + 8] →
            (c < 32 → a ∉ [aPm t (0xA00 + 16 * c), aPm t (0xA00 + 16 * c) + 8]) → regRaw nx a = regRaw s' a)
    ∧ (rvRow w = .datum → srcEnabled s' 1 = true → ∃ nx, exec (.datum t n) s = .next nx
        ∧ stOf nx t n = retired len (stOf s' t n)
        ∧ nx.datums = { s'.datums with pend := s'.datums.pend ++ [(now s' + 64, 1)] }
        ∧ { nx with datums := s'.datums, regs := s'.regs, stewards := s'.stewards } = s'
        ∧ regRaw nx (aDat 0x30) = satAdd 64 (regRaw s' (aDat 0x30)) 1 ∧ ∀ a, a ≠ aDat 0x30 → regRaw nx a = regRaw s' a)


/-- R105, R66: MSEND takes 64 bytes and waits; the message goes to a tile of this module, or a MSG packet carries it to the member that the
selector names. Accepted, it completes with 0, dropped with 1; refused at the destination it traps.
R65, R69, R106: MRECV copies the 64 bytes of a valid mailbox, or of the oldest entry of a message queue, into its buffer; the mailbox is
empty, or HEAD moves on, and a queue gives the entry's first 8 bytes to rd. With nothing there it waits. -/
def Obligations.StewardMessages : Prop :=
  (∀ (s s' : State) (t n w len raw sel : Nat), stAt s t n w len raw s' → rvRow w = .msend → gprOf (stOf s' t n) (rvRs1 w) = sel →
    (∀ o, (stOf s' t n).send = .none → bufAt s' t n .load (gprOf (stOf s' t n) (rvRs2 w)) = .ok o → selOk sel true = true →
      firstUe s' t [(o, 64)] = none → fld sel 43 32 = ownDev s' → bit (ctxTiles s' (stCtx s' t)) (fld sel 22 16) = true →
      ∃ nx m, exec (.msend t n) s = .next nx ∧ stOf nx t n = { waitsAt .msend w (stOf s' t n) with send := .pending s'.nextId }
        ∧ (tileOf nx (fld sel 22 16)).msgs = (tileOf s' (fld sel 22 16)).msgs ++ [m]
        ∧ m.id = s'.nextId ∧ m.target = fld sel 4 0 ∧ m.srcTile = t ∧ m.srcSt = n ∧ m.srcDev = ownDev s' ∧ m.port = none
        ∧ m.data = (if fld sel 4 0 < 16 then spdRead (portView t (portSt n) s') t o 64
            else fitBytes 64 ((spdRead (portView t (portSt n) s') t o 64).take (fld sel 31 24)))
        ∧ (∀ u, u ≠ fld sel 22 16 → (tileOf nx u).msgs = (tileOf s' u).msgs)
        ∧ { nx with stewards := s'.stewards, tiles := s'.tiles, nextId := s'.nextId, flits := s'.flits } = s')
    ∧ (∀ o e p, (stOf s' t n).send = .none → bufAt s' t n .load (gprOf (stOf s' t n) (rvRs2 w)) = .ok o → selOk sel true = true →
      firstUe s' t [(o, 64)] = none → fld sel 43 32 ≠ ownDev s' → tget (ctxOf s' (stCtx s' t)).jobMap (fld sel 43 32) = some e →
      ownDev s' < 4096 → routePort s' (ownDev s') (fld sel 43 32) = some p → (portState s' p = 2 ∨ portState s' p = 3) →
      ∃ nx k, exec (.msend t n) s = .next nx ∧ stOf nx t n = { waitsAt .msend w (stOf s' t n) with send := .pending s'.nextId }
        ∧ (linkOf nx p).queue = (linkOf s' p).queue ++ [k] ∧ (∀ q, q ≠ p → linkOf nx q = linkOf s' q)
        ∧ pOpc k = 8 ∧ pDst k = fld sel 43 32 ∧ pSrc k = ownDev s' ∧ pTag k = s'.nextId % 65536 ∧ pTile k = t ∧ pSt k = n
        ∧ (∃ x, nx.accs = s'.accs ++ [x] ∧ x.id = s'.nextId ∧ x.origin = .msg ∧ x.stage = .remote ∧ x.ctx = stCtx s' t)
        ∧ { nx with stewards := s'.stewards, tiles := s'.tiles, links := s'.links, nextId := s'.nextId, flits := s'.flits, accs := s'.accs } = s')
    ∧ ((stOf s' t n).send = .answered 0 → ∃ nx, exec (.msend t n) s = .next nx ∧ stRetires t n 4 (rvRd w) 0 s' nx)
    ∧ ((stOf s' t n).send = .answered 6 → ∃ nx, exec (.msend t n) s = .next nx ∧ stRetires t n 4 (rvRd w) 1 s' nx)
    ∧ (∀ k, (stOf s' t n).send = .answered k → k ≠ 0 → k ≠ 6 → trapOk s' t n → ∃ nx, exec (.msend t n) s = .next nx
        ∧ stOf nx t n = trapInto t (stOf s' t n) 7 sel ∧ { nx with stewards := s'.stewards, faults := s'.faults } = s'))
  ∧ (∀ (s s' : State) (t n w len raw sel o : Nat), stAt s t n w len raw s' → rvRow w = .mrecv → gprOf (stOf s' t n) (rvRs1 w) = sel →
    bufAt s' t n .store (gprOf (stOf s' t n) (rvRs2 w)) = .ok o → vsWritable s' t o 64 = true → (tileOf s' t).ports.got = [] →
    selOk sel false = true →
    (fld sel 4 0 < 16 → bit (regRaw s' (aMbox t (fld sel 4 0))) 1 = true → bit (regRaw s' (aMbox t (fld sel 4 0))) 0 = true →
      ∃ nx, exec (.mrecv t n) s = .next nx ∧ stOf nx t n = setGpr (rvRd w) 0 (retired 4 { stOf s' t n with resv := (stOf nx t n).resv })
        ∧ spdRead nx t o 64 = (regWords s' (aTile t 9 (0x40 * fld sel 4 0)) 8).flatMap (fun v => toBytes 8 v)
        ∧ (∀ j, (j < t * spdSize + o ∨ t * spdSize + o + 64 ≤ j) → memByte nx.spd j = memByte s'.spd j)
        ∧ regRaw nx (aMbox t (fld sel 4 0)) = setBit (regRaw s' (aMbox t (fld sel 4 0))) 0 false
        ∧ (∀ a, a ≠ aMbox t (fld sel 4 0) → regRaw nx a = regRaw s' a) ∧ nx.hbm = s'.hbm)
    ∧ (∀ q h src, fld sel 4 0 = 16 + q → bit (regRaw s' (aMq t q 8)) 8 = true → regRaw s' (aMq t q 0x10) = h → h ≠ regRaw s' (aMq t q 0x18) →
      src = fld (regRaw s' (aMq t q 0)) 22 6 <<< 6 + 64 * (h % 2 ^ fld (regRaw s' (aMq t q 8)) 3 0) → firstUe s' t [(src, 64)] = none →
      ∃ nx, exec (.mrecv t n) s = .next nx
        ∧ stOf nx t n = setGpr (rvRd w) (ofBytes (spdRead s' t src 8)) (retired 4 { stOf s' t n with resv := (stOf nx t n).resv })
        ∧ spdRead nx t o 64 = spdRead s' t src 64
        ∧ (∀ j, (j < t * spdSize + o ∨ t * spdSize + o + 64 ≤ j) → memByte nx.spd j = memByte s'.spd j)
        ∧ regRaw nx (aMq t q 0x10) = (h + 1) % (2 * 2 ^ fld (regRaw s' (aMq t q 8)) 3 0)
        ∧ (∀ a, a ≠ aMq t q 0x10 → regRaw nx a = regRaw s' a) ∧ nx.hbm = s'.hbm)
    ∧ ((fld sel 4 0 < 16 ∧ bit (regRaw s' (aMbox t (fld sel 4 0))) 1 = true ∧ bit (regRaw s' (aMbox t (fld sel 4 0))) 0 = false
        ∨ ∃ q, fld sel 4 0 = 16 + q ∧ bit (regRaw s' (aMq t q 8)) 8 = true ∧ regRaw s' (aMq t q 0x10) = regRaw s' (aMq t q 0x18)) →
      ∃ nx, exec (.mrecv t n) s = .next nx ∧ onlySt t n s' nx ∧ stOf nx t n = waitsAt .mrecv w (stOf s' t n)))

/-- R107, R417, R418: QPUSH writes 64 bytes with their PHASE at the producer index of a queue of the context and moves the index on; QPOP takes the entry
at the consumer index of the tile's submission queue. A full queue, or an empty one, makes the steward wait. -/
def Obligations.StewardQueues : Prop :=
  ∀ (s s' : State) (t n w len raw id o : Nat) (q : Queue), stAt s t n w len raw s' → gprOf (stOf s' t n) (rvRs1 w) = id →
    fld id 15 12 = (ctxOf s' (stCtx s' t)).func → fld id 63 16 = 0 → qOf s' (id % 65536) = some q →
    (rvRow w = .qpush → bufAt s' t n .load (gprOf (stOf s' t n) (rvRs2 w)) = .ok o → queueServes s' t q true = true → firstUe s' t [(o, 64)] = none →
      (qFull q = false → memAvailable s' (qAddr q q.pi) 64 = true → hbmFree s' (qAddr q q.pi) 64 →
        ∃ nx, exec (.qpush t n) s = .next nx ∧ stOf nx t n = setGpr (rvRd w) 0 (retired 4 (stOf s' t n))
          ∧ qOf nx (id % 65536) = some { q with pi := qAdd q q.pi 1 } ∧ (∀ k, k ≠ id % 65536 → qOf nx k = qOf s' k)
          ∧ hbmRead nx (qAddr q q.pi) 64 = qEntry q (spdRead (portView t (portSt n) s') t o 64)
          ∧ (∀ a, (a < qAddr q q.pi ∨ qAddr q q.pi + 64 ≤ a) → hbmRead nx a 1 = hbmRead s' a 1)
          ∧ nx.regs = s'.regs ∧ nx.spd = s'.spd)
      ∧ (qFull q = true → ∃ nx, exec (.qpush t n) s = .next nx ∧ onlySt t n s' nx ∧ stOf nx t n = waitsAt .qpush w (stOf s' t n)))
    ∧ (rvRow w = .qpop → bufAt s' t n .store (gprOf (stOf s' t n) (rvRs2 w)) = .ok o → vsWritable s' t o 64 = true → (tileOf s' t).ports.got = [] →
      queueServes s' t q false = true →
      (qCount q ≠ 0 → memAvailable s' (qAddr q q.ci) 64 = true → lineOpen s' (qAddr q q.ci) 64 = false → memPoisoned s' (qAddr q q.ci) 64 = none →
        ∃ nx, exec (.qpop t n) s = .next nx ∧ stOf nx t n = setGpr (rvRd w) 0 (retired 4 { stOf s' t n with resv := (stOf nx t n).resv })
          ∧ qOf nx (id % 65536) = some { q with ci := qAdd q q.ci 1 } ∧ (∀ k, k ≠ id % 65536 → qOf nx k = qOf s' k)
          ∧ spdRead nx t o 64 = hbmRead s' (qAddr q q.ci) 64
          ∧ (∀ j, (j < t * spdSize + o ∨ t * spdSize + o + 64 ≤ j) → memByte nx.spd j = memByte s'.spd j)
          ∧ nx.regs = s'.regs ∧ nx.hbm = s'.hbm)
      ∧ (qCount q = 0 → ∃ nx, exec (.qpop t n) s = .next nx ∧ onlySt t n s' nx ∧ stOf nx t n = waitsAt .qpop w (stOf s' t n)))

/-- R109, R110, R199: ISSUE releases rs2 descriptors to the unit it names, moves its head register on and gives the new release count; VXRUN
queues a run with the 64 argument bytes it reads then, and gives the engine's ticket. Where there is no room they wait; a selector, a number or a
field that breaks the format raises BAD_OPERAND with the value in mtval. -/
def Obligations.StewardIssue : Prop :=
  ∀ (s s' : State) (t n w len raw v k : Nat), stAt s t n w len raw s' → gprOf (stOf s' t n) (rvRs1 w) = v → gprOf (stOf s' t n) (rvRs2 w) = k →
    (∀ count rel stop, rvRow w = .issue → Machine.unitOk v false = true → 0 < k → k < 65536 → unitCount s' t v = (count, rel, stop) →
      ((rel - count).toNat + k ≤ 2 ^ 24 →
        ∃ nx, exec (.issue t n) s = .next nx ∧ stOf nx t n = setGpr (rvRd w) (rel + BitVec.ofNat 32 k).toNat (retired 4 (stOf s' t n))
          ∧ unitCount nx t v = (count, rel + BitVec.ofNat 32 k, stop)
          ∧ (∀ a, fld v 3 0 = 2 → a = aTile t 6 0 →
              (cpyOf nx t).queue = (cpyOf s' t).queue ++ releasedRuns (regRaw s' a) k 32 0
              ∧ regRaw nx a = (regRaw s' a + 32 * k) % spdSize ∧ ∀ b, b ≠ a → regRaw nx b = regRaw s' b)
          ∧ (∀ a, fld v 3 0 < 2 → a = aTile t (2 + fld v 3 0) (8 * fld v 4 4) →
              (strOf (maOf nx t (fld v 3 0)) (fld v 4 4)).queue = (strOf (maOf s' t (fld v 3 0)) (fld v 4 4)).queue
                ++ releasedRuns (regRaw s' a) k 64 (maOf s' t (fld v 3 0)).ordNext
              ∧ regRaw nx a = (regRaw s' a + 64 * k) % spdSize ∧ ∀ b, b ≠ a → regRaw nx b = regRaw s' b)
          ∧ (∀ u, u ≠ t → tileOf nx u = tileOf s' u) ∧ { nx with stewards := s'.stewards, tiles := s'.tiles, regs := s'.regs } = s')
      ∧ (2 ^ 24 < (rel - count).toNat + k → ∃ nx, exec (.issue t n) s = .next nx ∧ onlySt t n s' nx ∧ stOf nx t n = waitsAt .issue w (stOf s' t n)))
    ∧ (rvRow w = .issue → trapOk s' t n →
      (Machine.unitOk v false = false → ∃ nx, exec (.issue t n) s = .next nx ∧ stTraps t n 25 v s' nx)
      ∧ (Machine.unitOk v false = true → (k = 0 ∨ 65535 < k) → ∃ nx, exec (.issue t n) s = .next nx ∧ stTraps t n 25 k s' nx))
    ∧ (rvRow w = .vxrun → trapOk s' t n →
      (fld v 63 13 ≠ 0 → ∃ nx, exec (.vxrun t n) s = .next nx ∧ stTraps t n 25 v s' nx)
      ∧ (fld v 63 13 = 0 → (fld k 63 48 ≠ 0 ∨ fld k 31 23 ≠ 0 ∨ fld k 5 0 ≠ 0) → ∃ nx, exec (.vxrun t n) s = .next nx ∧ stTraps t n 25 k s' nx))
    ∧ (rvRow w = .vxrun → fld v 63 13 = 0 → fld k 63 48 = 0 → fld k 31 23 = 0 → fld k 5 0 = 0 →
      (∀ u, (vxeOf s' t).runs.length < 4 → firstUe s' t [(fld k 22 0, 64)] = some u → ∃ nx r, exec (.vxrun t n) s = .next nx
          ∧ stOf nx t n = setGpr (rvRd w) ((vxeOf s' t).queued + 1).toNat (retired 4 (stOf s' t n))
          ∧ vxeOf nx t = { vxeOf s' t with runs := (vxeOf s' t).runs ++ [r], queued := (vxeOf s' t).queued + 1 } ∧ r.argUe = some u)
      ∧ ((vxeOf s' t).runs.length < 4 → firstUe s' t [(fld k 22 0, 64)] = none → ∃ nx r, exec (.vxrun t n) s = .next nx
          ∧ stOf nx t n = setGpr (rvRd w) ((vxeOf s' t).queued + 1).toNat (retired 4 (stOf s' t n))
          ∧ tileOf nx t = { tileOf s' t with vxe := { vxeOf s' t with runs := (vxeOf s' t).runs ++ [r], queued := (vxeOf s' t).queued + 1 } }
          ∧ r.start = fld v 12 0 ∧ r.iterM1 = fld k 47 32 ∧ r.arg = BitVec.ofNat 512 (ofBytes (spdRead s' t (fld k 22 0) 64)) ∧ r.argUe = none
          ∧ (∀ u, u ≠ t → tileOf nx u = tileOf s' u) ∧ { nx with stewards := s'.stewards, tiles := s'.tiles } = s')
      ∧ (4 ≤ (vxeOf s' t).runs.length → ∃ nx, exec (.vxrun t n) s = .next nx ∧ onlySt t n s' nx ∧ stOf nx t n = waitsAt .vxrun w (stOf s' t n)))

/-- R114, R351: WAYPOINT of ST0 marks its tile as arrived at the context's next waypoint and waits for the release; where it is not the
next, the steward stops with cause 4; ST1 and FENCE.G of ST0 trap. FENCE.G of ST1 waits at first and completes after the next job release. -/
def Obligations.StewardWaypoint : Prop :=
  ∀ (s s' : State) (t n w len raw : Nat), stAt s t n w len raw s' →
    (∀ c i, rvRow w = .waypoint → n = 0 → (stOf s' t 0).run ≠ .waiting → stCtx s' t = c → gprOf (stOf s' t 0) (rvRs1 w) = i → i < 65536 →
      wpAllowed (ctxOf s' c) i = true → i < (ctxOf s' c).wps.length → (ctxOf s' c).aLocal = none →
      (∃ u, u ∈ tilesOf s' c ∧ u ≠ t ∧ u ∉ (ctxOf s' c).arrived) →
      ∃ nx, exec (.waypoint t n) s = .next nx ∧ stOf nx t 0 = waitsAt .waypoint w (stOf s' t 0)
        ∧ (ctxOf nx c).next = .at i ∧ (ctxOf nx c).arrived = sinsert t (ctxOf s' c).arrived
        ∧ (∀ d, d ≠ c → ctxOf nx d = ctxOf s' d) ∧ { nx with stewards := s'.stewards, ctxs := s'.ctxs } = s')
    ∧ (∀ c i e, rvRow w = .waypoint → n = 0 → (stOf s' t 0).run ≠ .waiting → stCtx s' t = c → gprOf (stOf s' t 0) (rvRs1 w) = i → i < 65536 →
      wpAllowed (ctxOf s' c) i = true → (ctxOf s' c).wps[i]? = some e → e.kind = .loc → (ctxOf s' c).aLocal = none → (ctxOf s' c).raised = none →
      runningBook s' c = none → (∀ u, u ∈ tilesOf s' c → u = t ∨ u ∈ (ctxOf s' c).arrived) →
      ∃ nx, exec (.waypoint t n) s = .next nx ∧ stOf nx t 0 = waitsAt .waypoint w (stOf s' t 0)
        ∧ (ctxOf nx c).next = .at i ∧ (ctxOf nx c).arrived = sinsert t (ctxOf s' c).arrived ∧ (ctxOf nx c).aLocal = some (now s')
        ∧ (∀ d, d ≠ c → ctxOf nx d = ctxOf s' d) ∧ { nx with stewards := s'.stewards, ctxs := s'.ctxs } = s')
    ∧ (∀ i, rvRow w = .waypoint → n = 0 → (stOf s' t 0).run ≠ .waiting → gprOf (stOf s' t 0) (rvRs1 w) = i → i < 65536 →
      (wpAllowed (ctxOf s' (stCtx s' t)) i = false ∨ (ctxOf s' (stCtx s' t)).wps.length ≤ i) →
      ∃ nx, exec (.waypoint t n) s = .next nx ∧ stOf nx t 0 = { stOf s' t 0 with run := .stopped, waitKind := .none, stopCause := 4 }
        ∧ { nx with stewards := s'.stewards, faults := s'.faults } = s')
    ∧ (rvRow w = .waypoint → n = 0 → (stOf s' t 0).run = .waiting → exec (.waypoint t n) s = .next s')
    ∧ (∀ k m i, (k, m, i) ∈ [(RvRow.waypoint, 1, Instr.waypoint t n), (RvRow.fenceG, 0, Instr.fenceG t n)] → rvRow w = k → n = m → trapOk s' t n →
      ∃ nx, exec i s = .next nx ∧ stTraps t n 2 raw s' nx)
    ∧ (∀ c, rvRow w = .fenceG → n = 1 → stCtx s' t = c → (stOf s' t 1).run ≠ .waiting → postedBefore s' t (cpyOf s' t).doneTo true = true →
      ∃ nx, exec (.fenceG t n) s = .next nx ∧ onlySt t 1 s' nx
        ∧ stOf nx t 1 = { waitsAt .fenceG w (stOf s' t 1) with
            fenceMark := (cpyOf s' t).doneTo, fenceJob := (ctxOf s' c).jobRels, fenceGate := !atJobWaypoint s' t })
    ∧ (rvRow w = .fenceG → n = 1 → (stOf s' t 1).run = .waiting → postedBefore s' t (stOf s' t 1).fenceMark true = false →
      (stOf s' t 1).fenceGate = false →
      ((stOf s' t 1).fenceJob < (ctxOf s' (stCtx s' t)).jobRels → ∃ nx, exec (.fenceG t n) s = .next nx ∧ stRetires t n len 0 0 s' nx)
      ∧ ((ctxOf s' (stCtx s' t)).jobRels ≤ (stOf s' t 1).fenceJob → exec (.fenceG t n) s = .next s'))


/-! ### Matrix arrays and the copy engine (chapters 4, 5, 11) -/

/-- R137, R139, R160, R162, Table 4-9: DESCRIPTOR_DECODE takes the oldest released descriptor; one that passes the checks is decoded, one that fails
check k with nothing decoded before it stops the stream with the check in MAn_STOPs. SHADOW_LOAD fills free shadows from the scratchpad, as a contended cycle granted it to the feed port (R286). A write of
an idle stream's head register keeps bits 22 to 6; on a stream that is not idle it is refused. -/
def Obligations.ArrayDecode : Prop :=
  (∀ (s : State) (t a st d : Nat) (r : Released) (rest : List Released), live s = true → t < 128 → a < 2 → st < 2 → maQuiet s t →
    (strOf (maOf s t a) st).stopped = false → (strOf (maOf s t a) st).queue = r :: rest → (strOf (maOf s t a) st).decoded.length < 4 →
    d = ofBytes (spdRead s t r.off 64) → firstUe s t [(r.off, 64)] = none → dBcast d = 0 →
    (checks17 s t a st d r.off r.ord = none → dVEn d = false →
      ∃ n, exec (.descriptorDecode t a st) s = .next n
        ∧ maDid t a (modStr st (fun x => addDecoded { desc := BitVec.ofNat 512 d, off := r.off, ord := r.ord, pair := x.recvs, reader := none,
                                                      loaded := false, bad := none } (takeReleased 0 x))) s n)
    ∧ (∀ k, checks17 s t a st d r.off r.ord = some k → (strOf (maOf s t a) st).decoded = [] →
      ∃ n, exec (.descriptorDecode t a st) s = .next n
        ∧ strOf (maOf n t a) st = { takeReleased 0 (strOf (maOf s t a) st) with decoded := [], fault := none, stopped := true }
        ∧ strOf (maOf n t a) (1 - st) = strOf (maOf s t a) (1 - st)
        ∧ regRaw n (aTile t (2 + a) (0x18 + 4 * st)) = stopValue (if k = 7 then 2 else 1) r.off k
        ∧ (∀ x, x ≠ aTile t (2 + a) (0x18 + 4 * st) → regRaw n x = regRaw s x)
        ∧ (∀ u, u ≠ t → tileOf n u = tileOf s u) ∧ n.spd = s.spd ∧ n.hbm = s.hbm))
  ∧ (∀ (s : State) (t a st : Nat) (p : Pass), live s = true → t < 128 → a < 2 → st < 2 →
    (strOf (maOf s t a) st).decoded.find? (fun p => needsLoad p.desc.toNat && !p.loaded) = some p → dBcast p.desc.toNat ≠ 2 → p.bad = none →
    shadowFree (maOf s t a) p.desc.toNat st = true → firstUe s t (intervals (opS p.desc.toNat) ++ sxIntervals p.desc.toNat) = none →
    ∃ n, exec (.shadowLoad t a st) s = .next n
      ∧ maDid t a (fun m => setShadow st (some (readS (portView t a s) t p.desc.toNat)) (modStr st (modPass p.ord (fun q => { q with loaded := true })) m))
          (feedTake t a (intervals (opS p.desc.toNat) ++ sxIntervals p.desc.toNat) s) n)
  ∧ (∀ (s : State) (who : Who) (t a st : Nat) (v : Word), live s = true → t < 128 → a < 2 → st < 2 → mayWrite who (aTile t (2 + a) (8 * st)) 8 s →
    (streamIdle (strOf (maOf s t a) st) = true → ∃ n, exec (.maDescHead who t a st v) s = .next n
      ∧ onlyRegs [aTile t (2 + a) (8 * st)] s n ∧ regRaw n (aTile t (2 + a) (8 * st)) = Nat.land v.toNat (mask 22 6))
    ∧ (streamIdle (strOf (maOf s t a) st) = false → ∃ n, exec (.maDescHead who t a st v) s = .next n ∧ { n with faults := s.faults } = s))

/-- R128, R133, R139, R149, R154, R188: the next decoded pass enters when every condition of Table 4-6 holds. The swap makes its shadows the active operand,
an FTQ entry is reserved for a pass that pushes one, and every unmasked targeted element becomes the opcode's function of the row, the column, the scales
and the old element (FILL: of the partial it reads); every other element of the array, and everything else, stays.
R135, R156 to R158: PASS_COMPLETE takes the oldest pass out of the array and counts its descriptor; a pass that pushes adds its FTQ entry and holds its buffers;
without an output write nothing else changes, with one only the bytes of its output rows do: each element as the accumulators held it when the pass had
combined its row (R157). -/
def Obligations.ArrayPasses : Prop :=
  (∀ (s : State) (t a st op : Nat) (i : Instr) (p : Pass) (rest : List Pass),
    (op, i) ∈ [(1, Instr.mac t a st false), (2, Instr.l1 t a st false), (3, Instr.l2sq t a st false), (4, Instr.maxplus t a st false),
      (5, Instr.minplus t a st false), (6, Instr.hamm t a st false), (0x11, Instr.fill t a st false)] →
    live s = true → t < 128 → a < 2 → st < 2 → maQuiet s t → (strOf (maOf s t a) st).stopped = false →
    (strOf (maOf s t a) st).decoded = p :: rest → dOpcode p.desc.toNat = op → mayEnter s t a st p = true →
    dBcast p.desc.toNat ≠ 1 → firstUe s t (aIntervals p.desc.toNat ++ axIntervals p.desc.toNat) = none →
    ∃ n acc v, exec i s = .next n ∧ v = portView t a s
      ∧ maDid t a (fun m => modStr st (fun x => { x with inArray := x.inArray.map (fun q =>
            if q.ord = p.ord then { q with acc := outElems p.desc.toNat st acc } else q) }) { enterPass st p m with acc := acc })
          (feedTake t a (aIntervals p.desc.toNat ++ axIntervals p.desc.toNat) s) n
      ∧ (∀ m c x, m < dM p.desc.toNat → c < dCols p.desc.toNat → activeS (enterPass st p (maOf s t a)) st = some x ∨ op = 0x11 →
          tgetD 0#128 acc (accKey (dAcc p.desc.toNat) m (dCol0 p.desc.toNat st + c))
            = if masked (dMaskKind p.desc.toNat) (dMask p.desc.toNat) m (dCol0 p.desc.toNat st + c) then
                tgetD 0#128 (maOf s t a).acc (accKey (dAcc p.desc.toNat) m (dCol0 p.desc.toNat st + c))
              else if op = 0x11 then
                elemFill (dOvw p.desc.toNat)
                  (BitVec.ofNat 128 (ofBytes (spdRead v t (dAAddr p.desc.toNat + m * dAStride p.desc.toNat + 16 * c) 16)))
                  (tgetD 0#128 (maOf s t a).acc (accKey (dAcc p.desc.toNat) m (dCol0 p.desc.toNat st + c)))
              else
                elemPass op (dAFmt p.desc.toNat) x.fmt (dOvw p.desc.toNat) (opRow v t (opA p.desc.toNat) m) (x.cols.getD c [])
                  (chunkScales v t p.desc.toNat m (x.scales.getD c []))
                  (tgetD 0#128 (maOf s t a).acc (accKey (dAcc p.desc.toNat) m (dCol0 p.desc.toNat st + c))))
      ∧ (∀ k, (∀ m c, m < dM p.desc.toNat → c < dCols p.desc.toNat → k ≠ accKey (dAcc p.desc.toNat) m (dCol0 p.desc.toNat st + c)) →
          tgetD 0#128 acc k = tgetD 0#128 (maOf s t a).acc k))
  ∧ (∀ (s : State) (t a st : Nat) (p : Pass) (rest : List Pass), live s = true → t < 128 → a < 2 → st < 2 →
    (strOf (maOf s t a) st).inArray = p :: rest → p.reader = none → (tileOf s t).ports.got = [] →
    (bit (dAct p.desc.toNat) 1 = false → bit (dAct p.desc.toNat) 0 = false → ∃ n, exec (.passComplete t a st false) s = .next n
      ∧ maDid t a (modStr st (fun x => { x with inArray := rest, count := x.count + 1 })) s n)
    ∧ (bit (dAct p.desc.toNat) 1 = false → bit (dAct p.desc.toNat) 0 = true → ∃ n, exec (.passComplete t a st false) s = .next n
      ∧ maDid t a (fun m => { modStr st (fun x => { x with inArray := rest, count := x.count + 1 }) m with
          ftq := m.ftq ++ [{ bits := ftqBits a st p, stream := st, poppable := false }], reserved := m.reserved - 1,
          held := (targetBufs (dAcc p.desc.toNat) (dM p.desc.toNat)).foldl (fun h b => sinsert b h) m.held }) s n)
    ∧ (bit (dAct p.desc.toNat) 1 = true → inSpd (outIntervals p.desc.toNat) = true → ∃ n, exec (.passComplete t a st false) s = .next n
      ∧ (strOf (maOf n t a) st).inArray = rest ∧ (strOf (maOf n t a) st).count = (strOf (maOf s t a) st).count + 1
      ∧ (maOf n t a).acc = (maOf s t a).acc ∧ maOf n t (1 - a) = maOf s t (1 - a) ∧ vxeOf n t = vxeOf s t ∧ cpyOf n t = cpyOf s t
      ∧ (bit (dAct p.desc.toNat) 0 = true → (maOf n t a).ftq = (maOf s t a).ftq ++ [{ bits := ftqBits a st p, stream := st, poppable := false }])
      ∧ n.regs = s.regs ∧ (∀ u, u ≠ t → tileOf n u = tileOf s u)
      ∧ ((∀ c, tileCtx s t = some c → (ctxOf s c).tensors = none) → n.hbm = s.hbm ∧ (tileOf n t).contour = (tileOf s t).contour)
      ∧ (∀ j, (∀ q ∈ outIntervals p.desc.toNat, j < t * spdSize + q.1 ∨ t * spdSize + q.1 + q.2 ≤ j) → memByte n.spd j = memByte s.spd j)
      ∧ (∀ m c, m < dM p.desc.toNat → c < dCols p.desc.toNat →
          (dM p.desc.toNat = 1 ∨ dCols p.desc.toNat * outBytes (dOutFmt p.desc.toNat) ≤ dOutStride p.desc.toNat) →
          dOutFmt p.desc.toNat ≠ 6 → masked (dMaskKind p.desc.toNat) (dMask p.desc.toNat) m (dCol0 p.desc.toNat st + c) = false →
          spdRead n t (dOutAddr p.desc.toNat + m * dOutStride p.desc.toNat + c * outBytes (dOutFmt p.desc.toNat)) (outBytes (dOutFmt p.desc.toNat))
            = toBytes (outBytes (dOutFmt p.desc.toNat)) (outConvert (dOutFmt p.desc.toNat) (dSat p.desc.toNat) (outRnd s t p.desc.toNat m c)
                (scaledValue p.desc.toNat (tgetD 0#128 p.acc (accKey (dAcc p.desc.toNat) m (dCol0 p.desc.toNat st + c))))).1)))

/-- R337, R342, R343: COPY_DECODE takes the oldest released descriptor: one that passes the checks is decoded and numbered, one that fails stops the stream once every
earlier one has started. COPY_COMPLETE ends the oldest descriptor once its last row has started and none of its reads is out. A steward's store to the head register of an idle stream keeps bits 22 to 5;
one of a stream that is not idle leaves it, and F0's and the firmware's are refused (R353). -/
def Obligations.CopyDecodeComplete : Prop :=
  (∀ (s : State) (t d : Nat) (r : Released) (rest : List Released), live s = true → t < 128 → (cpyOf s t).queue = r :: rest → (cpyOf s t).stopped = false →
    (cpyOf s t).fault = none → ((cpyOf s t).decoded.filter (fun d => !d.started)).length < 4 → firstUe s t [(r.off, 32)] = none →
    d = ofBytes (spdRead (portView t portCpy s) t r.off 32) →
    (cpyCheck d = none → ∃ n, exec (.copyDecode t) s = .next n ∧ onlyTile t s n
      ∧ tileOf n t = { tileOf s t with cpy := { cpyOf s t with
          queue := (if r.n ≤ 1 then rest else { off := r.off + 32, n := r.n - 1, ord := r.ord + 1 } :: rest)
          decoded := (cpyOf s t).decoded ++ [{ desc := BitVec.ofNat 256 d, off := r.off, no := (cpyOf s t).numNext, started := false }]
          numNext := (cpyOf s t).numNext + 1 }, ports := (tileOf (portTake t portCpy r.off 32 s) t).ports })
    ∧ (∀ k, cpyCheck d = some k → (cpyOf s t).decoded = [] → r.off < 2 ^ 23 → ∃ n, exec (.copyDecode t) s = .next n ∧ (cpyOf n t).stopped = true
      ∧ (cpyOf n t).decoded = [] ∧ regRaw n (aTile t 6 0x10) = k + fld r.off 22 5 <<< 24
      ∧ (∀ x, x ≠ aTile t 6 0x10 → regRaw n x = regRaw s x) ∧ n.spd = s.spd ∧ n.hbm = s.hbm ∧ ∀ u, u ≠ t → tileOf n u = tileOf s u))
  ∧ (∀ (s : State) (t : Nat) (x : CpyDesc) (rest : List CpyDesc), live s = true → t < 128 → (cpyOf s t).decoded = x :: rest →
    (x.started = true → cRows x.desc.toNat ≤ x.row → readPending s t x.no = false → ∃ n, exec (.copyComplete t) s = .next n ∧ onlyTile t s n
      ∧ tileOf n t = { tileOf s t with cpy := { cpyOf s t with
          decoded := rest.filter (fun d => d.no != x.no), past := (cpyOf n t).past, count := (cpyOf s t).count + 1, doneTo := x.no + 1 } }
      ∧ ∀ y ∈ (cpyOf n t).past, cpyInFlight s t y.no = true)
    ∧ (x.started = false ∨ x.row < cRows x.desc.toNat ∨ readPending s t x.no = true → exec (.copyComplete t) s = .next s))
  ∧ (∀ (s s' : State) (t m w raw : Nat) (v : Word) (r : RegSpec), stAt s t m w 4 raw s' → (stOf s t m).run = .running → rvOp w = 0x23 → rvF3 w = 3 →
    pmpAllows (stOf s' t m) (dataMode (stOf s' t m)) .store (storeAddr (stOf s' t m) w) 8 = true → stTarget t (storeAddr (stOf s' t m) w) 8 = .ctl (aTile t 6 0) →
    gprOf (stOf s' t m) (rvRs2 w) = v.toNat → regFor (.steward t m) true (aTile t 6 0) 8 s' = .ok r →
    (cpyIdle s' t = true → ∃ n, exec (.cpyDescHead (.steward t m) t v) s = .next n
      ∧ stRetires t m 4 0 0 (regPut (aTile t 6 0) (Nat.land v.toNat (mask 22 5)) s') n ∧ regRaw n (aTile t 6 0) = Nat.land v.toNat (mask 22 5))
    ∧ (cpyIdle s' t = false → ∃ n, exec (.cpyDescHead (.steward t m) t v) s = .next n ∧ n.regs = s'.regs ∧ n.spd = s'.spd ∧ cpyOf n t = cpyOf s' t))
  ∧ (∀ (s : State) (who : Who) (t : Nat) (v : Word), live s = true → t < 128 → (who = .f0 ∨ who = .compass) → ∃ n, exec (.cpyDescHead who t v) s = .next n ∧ onlyRecord s n)

/-- R338, R339, R343, Table 11-2: a COPY, TO_WB, FROM_WB or GATHER whose source and destination lie in the tile's own scratchpad, apart from each other, moves every piece of
every row and leaves every other byte. A row of one piece with the source there and the destination elsewhere posts its write, or its request for REDUCE, and one with its
source elsewhere posts the read. -/
def Obligations.CopyRows : Prop :=
  (∀ (s : State) (t c kind : Nat) (i : Instr) (x : CpyDesc),
    (kind, i) ∈ [(0, Instr.copy t), (1, Instr.toWb t), (2, Instr.fromWb t), (3, Instr.gather t)] → copyNext s t c kind x →
    cSrcDev x.desc.toNat = ownDev s → cDstDev x.desc.toNat = ownDev s → bit (ctxTiles s c) t = true →
    (∀ p ∈ copyPieces s t x.desc.toNat, ∃ so d, ownSpd t p.1 p.2.2 so ∧ ownSpd t p.2.1 p.2.2 d ∧ 0 < p.2.2 ∧ firstUe s t [(so, p.2.2)] = none
      ∧ vsWritable s t d p.2.2 = true) →
    (copyPieces s t x.desc.toNat).Pairwise (fun p q => overlap p.2.1 p.2.2 q.2.1 q.2.2 = false) →
    (∀ p ∈ copyPieces s t x.desc.toNat, ∀ q ∈ copyPieces s t x.desc.toNat, overlap p.2.1 p.2.2 q.1 q.2.2 = false) →
    (kind = 3 → firstUe s t [(cIdx x.desc.toNat, 4 * cRows x.desc.toNat)] = none
      ∧ ∀ p ∈ copyPieces s t x.desc.toNat, overlap p.2.1 p.2.2 (spdAddr t (cIdx x.desc.toNat)) (4 * cRows x.desc.toNat) = false) →
    ∃ n, exec i s = .next n ∧ cpyOf n t = copyStarted x (cpyOf s t)
      ∧ (∀ p ∈ copyPieces s t x.desc.toNat, devRead n p.2.1 p.2.2 = devRead s p.1 p.2.2)
      ∧ (∀ j, (∀ p ∈ copyPieces s t x.desc.toNat, j < p.2.1 - spdBase ∨ p.2.1 - spdBase + p.2.2 ≤ j) → memByte n.spd j = memByte s.spd j)
      ∧ n.regs = s.regs ∧ n.hbm = s.hbm ∧ n.accs = s.accs ∧ ∀ u, u ≠ t → tileOf n u = tileOf s u)
  ∧ (∀ (s : State) (t c kind so dst k : Nat) (i : Instr) (x : CpyDesc) (op : AccOp),
    (kind, i) ∈ [(0, Instr.copy t), (4, Instr.copyReduce t)] → copyNext s t c kind x → cSrcDev x.desc.toNat = ownDev s → cDstDev x.desc.toNat = ownDev s →
    copyPieces s t x.desc.toNat = [(spdAddr t so, dst, k)] → cRows x.desc.toNat = 1 → so + k ≤ spdSize → 0 < k → firstUe s t [(so, k)] = none →
    bit (ctxTiles s c) t = true → dst + k ≤ hbmTop → inPartition s c dst k = true → (∀ y ∈ s.accs, y.id < s.nextId) →
    (kind = 4 → (cReq x.desc.toNat).seq = false ∨ colWindow s c dst = none) →
    op = (if kind = 0 then .write (spdRead s t so k) else .reduce (cReq x.desc.toNat) (spdRead s t so k)) →
    ∃ n, exec i s = .next n ∧ cpyOf n t = copyStarted x (cpyOf s t)
      ∧ n.accs = s.accs ++ [{ id := s.nextId, origin := .cpy t x.no 0 x.off, ctx := c, gen := (ctxOf s c).gen, addr := gAt (ownDev s) dst, op := op, stage := .todo }]
      ∧ ((∀ y ∈ (cpyOf s t).decoded, y.no = x.no → y = x) → regRaw n (aTile t 6 0x30) = satAdd 64 (regRaw s (aTile t 6 0x30)) 1) ∧ (∀ a, a ≠ aTile t 6 0x30 → regRaw n a = regRaw s a)
      ∧ n.spd = s.spd ∧ n.hbm = s.hbm ∧ ∀ u, u ≠ t → tileOf n u = tileOf s u)
  ∧ (∀ (s : State) (t c src d k : Nat) (x : CpyDesc), copyNext s t c 0 x → cSrcDev x.desc.toNat = ownDev s → cDstDev x.desc.toNat = ownDev s →
    copyPieces s t x.desc.toNat = [(src, spdAddr t d, k)] → cRows x.desc.toNat = 1 → d + k ≤ spdSize → 0 < k → src + k ≤ hbmTop → inPartition s c src k = true →
    bit (ctxTiles s c) t = true → (∀ y ∈ s.accs, y.id < s.nextId) →
    ∃ n, exec (.copy t) s = .next n ∧ cpyOf n t = copyStarted x (cpyOf s t)
      ∧ n.accs = s.accs ++ [{ id := s.nextId, origin := .cpy t x.no 0 x.off, ctx := c, gen := (ctxOf s c).gen, addr := gAt (ownDev s) src,
                              op := .read k [] (gAt (ownDev s) (spdAddr t d)) none, stage := .todo }]
      ∧ n.regs = s.regs ∧ n.spd = s.spd ∧ n.hbm = s.hbm ∧ ∀ u, u ≠ t → tileOf n u = tileOf s u)


/-! ### Scratchpad, version slots, contour units and stacked memory (chapters 7 to 10) -/

/-- R272, R275, R276, Table 8-2: OPEN of a CLOSED buffer makes it OPENING, which becomes OPEN once its readers are gone; CLOSE of an OPEN buffer with no pass
to wait for makes it CLOSED with the tag, else it is pending until they complete; an OPEN whose readers outlast the bound goes back to CLOSED. A write of the slot's
configuration enables or disables it with both buffers OPEN. -/
def Obligations.VersionSlots : Prop :=
  (∀ (s : State) (who : Who) (t k b : Nat) (tag : BitVec 16) (v : Word), live s = true → t < 128 → k < 8 → b < 2 →
    (mayWrite who (aTile t 7 (0x810 + 0x20 * k)) 4 s →
      (vsEn s t k = true → vbClosed (vbufOf s t k b) = true → ∃ n, exec (.vsOpen who t k b) s = .next n
        ∧ vbufDid t k b { vbufOf s t k b with valid := false, pend := true } s n)
      ∧ (vsEn s t k = false ∨ vbClosed (vbufOf s t k b) = false → ∃ n, exec (.vsOpen who t k b) s = .next n ∧ onlyRecord s n)
      ∧ (vsEn s t k = true → vbOpen (vbufOf s t k b) = true → (vbufOf s t k b).closing = false →
          passesInto s t (cfgBase (vsCfg s t k) b) (cfgLen (vsCfg s t k)) = [] →
          ∃ n, exec (.vsClose who t k b tag) s = .next n ∧ vbufDid t k b { vbufOf s t k b with valid := true, tag := tag } s n)
      ∧ (∀ ps, vsEn s t k = true → vbOpen (vbufOf s t k b) = true → (vbufOf s t k b).closing = false →
          passesInto s t (cfgBase (vsCfg s t k) b) (cfgLen (vsCfg s t k)) = ps → ps ≠ [] →
          ∃ n, exec (.vsClose who t k b tag) s = .next n
            ∧ vbufDid t k b { vbufOf s t k b with closing := true, closeTag := tag, closeOn := ps } s n))
    ∧ (mayWrite who (aTile t 7 (0x800 + 0x20 * k)) 8 s →
      (vsEn s t k = false → bit v.toNat 32 = true → cfgPlaced s t k (Nat.land v.toNat (mask 44 32 + mask 27 16 + mask 11 0)) = true →
        ∃ n, exec (.vsCfgWrite who t k v) s = .next n ∧ vsCfg n t k = Nat.land v.toNat (mask 44 32 + mask 27 16 + mask 11 0)
          ∧ vbufOf n t k 0 = {} ∧ vbufOf n t k 1 = {} ∧ (∀ j c, j ≠ k → c < 2 → vbufOf n t j c = vbufOf s t j c)
          ∧ { n with regs := s.regs, tiles := s.tiles } = s ∧ ∀ a, a ≠ aTile t 7 (0x800 + 0x20 * k) → regRaw n a = regRaw s a)
      ∧ (vsEn s t k = true → bit v.toNat 32 = true → ∃ n, exec (.vsCfgWrite who t k v) s = .next n ∧ onlyRecord s n)))
  ∧ (∀ (s : State) (t k b : Nat), live s = true → t < 128 → k < 8 → b < 2 →
      ((vbufOf s t k b).pend = true → (vbufOf s t k b).rd = 0 → ∃ n, exec (.bufferOpens t k b) s = .next n
        ∧ vbufDid t k b { vbufOf s t k b with pend := false } s n)
      ∧ ((vbufOf s t k b).closing = true → (∀ q ∈ (vbufOf s t k b).closeOn, passPending s t q = false) →
        ∃ n, exec (.closeTakesEffect t k b) s = .next n
          ∧ vbufDid t k b { vbufOf s t k b with closing := false, closeOn := [], valid := true, tag := (vbufOf s t k b).closeTag } s n)
      ∧ ((vbufOf s t k b).pend = true → (vbufOf s t k b).rd ≠ 0 → ∃ n, exec (.versionBusy t k b) s = .next n
          ∧ vbufOf n t k b = { vbufOf s t k b with pend := false, valid := true } ∧ { n with tiles := s.tiles, faults := s.faults } = s
          ∧ ((s.faults.any (sameUnit s (tileFault s 4 2 7 t)) = false) → ∃ r, n.faults = s.faults ++ [r] ∧ r.cls = 4 ∧ r.code = 2 ∧ r.tile = some t)))

/-- R284, R285, R287, R288, R290, R296: a request alone in its cycle is granted: a write puts its bytes and no others. Of two writes that meet in a bank the port of lower
priority stalls, stands and counts; where they share a word it loses that word, which is reported once. WRITE_BACK ends the bank's pending word in a cycle in which
nothing has the bank; a survey step that finds nothing moves on to the next region. -/
def Obligations.ScratchpadCycle : Prop :=
  (∀ (s : State) (t o : Nat) (d : List Byte) (c : BankCycle), live s = true → t < 128 → reqOk (.write o d) = true →
    (tileOf s t).ports = {} → c.feedA = some (.write o d) → c.feedB = none → c.vec = none → c.xfer = [] → c.survey = false → c.ecc = [] →
    ∃ n, exec (.bankArbitration t c) s = .next n ∧ spdRead n t o d.length = d
      ∧ (∀ j, (j < t * spdSize + o ∨ t * spdSize + o + d.length ≤ j) → memByte n.spd j = memByte s.spd j)
      ∧ n.regs = s.regs ∧ n.hbm = s.hbm ∧ (tileOf n t).ports.reqs = [] ∧ (∀ u, u ≠ t → tileOf n u = tileOf s u))
  ∧ (∀ (s : State) (t o o' : Nat) (d d' : List Byte) (c : BankCycle), live s = true → t < 128 → reqOk (.write o d) = true → reqOk (.write o' d') = true →
    (tileOf s t).ports = {} → (∃ b, b ∈ reqBanks (.write o d) ∧ b ∈ reqBanks (.write o' d')) → (∀ p, (tget (tileOf s t).age p).getD 0 < 15) →
    c.feedA = some (.write o d) → c.feedB = some (.write o' d') → c.vec = none → c.xfer = [] → c.survey = false → c.ecc = [] →
    ∃ n, exec (.bankArbitration t c) s = .next n ∧ spdRead n t o d.length = d
      ∧ (∀ j, (j < t * spdSize + o ∨ t * spdSize + o + d.length ≤ j) → memByte n.spd j = memByte s.spd j)
      ∧ regRaw n (aSpd t 0x18) = satAdd 64 (regRaw s (aSpd t 0x18)) 1
      ∧ (tget (tileOf n t).age 1).getD 0 = (tget (tileOf s t).age 1).getD 0 + 1
      ∧ (∀ h, h = (reqWords (.write o' d')).filter (fun w => (reqWords (.write o d)).contains w) →
          tget (tileOf n t).ports.reqs 1 = some ⟨.write o' d', [], h, h != []⟩
          ∧ (h = [] → ∀ a, a ≠ aSpd t 0x18 → regRaw n a = regRaw s a)
          ∧ (h ≠ [] → regRaw n (aSpd t 0x38) = satAdd 64 (regRaw s (aSpd t 0x38)) 1 ∧ bit (regRaw n (aSpd t 0)) 5 = true
              ∧ ∀ a, a ≠ aSpd t 0 → a ≠ aSpd t 0x18 → a ≠ aSpd t 0x38 → regRaw n a = regRaw s a)))
  ∧ (∀ (s : State) (t bank : Nat), live s = true → t < 128 → bank < 32 →
      ((tileOf s t).ports.walk = 0 → (tileOf s t).ports.busy.contains bank = false → ∃ n, exec (.writeBack t bank) s = .next n ∧ onlyTile t s n
        ∧ tileOf n t = { tileOf s t with wbPend := tdel (tileOf s t).wbPend bank })
      ∧ ((tileOf s t).ports.busy.contains bank = true → exec (.writeBack t bank) s = .next s))
  ∧ (∀ (s : State) (t r : Nat), live s = true → t < 128 → surveyActive s t = true → surveyNext s t = r → (tileOf s t).ports.walk = 0 →
      (∀ w ∈ (tileOf s t).eccBad, ¬ (512 * r ≤ w * 8 ∧ w * 8 < 512 * r + 512)) →
      ∃ n, exec (.surveyRegionStep t [] []) s = .next n ∧ onlyRegs [aSpd t 0x108] s n
        ∧ surveyNext n t = (if r = 16383 then 0 else r + 1)
        ∧ fld (regRaw n (aSpd t 0x108)) 47 16 = (if r = 16383 then satAdd 32 (fld (regRaw s (aSpd t 0x108)) 47 16) 1
            else fld (regRaw s (aSpd t 0x108)) 47 16))

/-- R243, R244, R247, R251, R255, R318, R325: an evicted record is added into its place of the running step's bank with saturation and leaves the unit; while an entry is open
for its lines it waits, and where they cannot be reached it stays, with a record. The update after a COMMIT gives each tensor's entry its live fields from the finished bank's
record and marks the bank complete; it waits for the job's maxima, and ends at the tick the command names (the model's choice, DESIGN CHOICE: log entry 3). -/
def Obligations.ContourStatistics : Prop :=
  (∀ (s : State) (t c i : Nat) (tk : TensorKept) (r : ContourRec), live s = true → t < 128 → i < 4096 → tileCtx s t = some c →
    (ctxOf s c).tensors = some tk → tget (tileOf s t).contour.recs i = some r →
    (memAvailable s (recAddr tk (stepOf s c % 2) i) 192 = true → lineOpen s (recAddr tk (stepOf s c % 2) i) 192 = false → (∀ p ∈ r.hist, p.1 < 32) →
    ∃ n, exec (.contourEviction t i) s = .next n ∧ tget (tileOf n t).contour.recs i = none
      ∧ (∀ j, j ≠ i → tget (tileOf n t).contour.recs j = tget (tileOf s t).contour.recs j)
      ∧ ofBytes (hbmRead n (recAddr tk (stepOf s c % 2) i) 8) = satAdd 64 (ofBytes (hbmRead s (recAddr tk (stepOf s c % 2) i) 8)) r.elems
      ∧ ofBytes (hbmRead n (recAddr tk (stepOf s c % 2) i + 8) 8) = satAdd 64 (ofBytes (hbmRead s (recAddr tk (stepOf s c % 2) i + 8) 8)) r.zeros
      ∧ ofBytes (hbmRead n (recAddr tk (stepOf s c % 2) i + 24) 8) = satAdd 64 (ofBytes (hbmRead s (recAddr tk (stepOf s c % 2) i + 24) 8)) r.sat
      ∧ (r.amax < 2 ^ 32 → ofBytes (hbmRead n (recAddr tk (stepOf s c % 2) i + 40) 4)
          = max r.amax (ofBytes (hbmRead s (recAddr tk (stepOf s c % 2) i + 40) 4)))
      ∧ (∀ a, (a < recAddr tk (stepOf s c % 2) i ∨ recAddr tk (stepOf s c % 2) i + 192 ≤ a) → hbmRead n a 1 = hbmRead s a 1)
      ∧ n.regs = s.regs ∧ n.spd = s.spd ∧ vxeOf n t = vxeOf s t ∧ (∀ u, u ≠ t → tileOf n u = tileOf s u))
    ∧ (memAvailable s (recAddr tk (stepOf s c % 2) i) 192 = true → lineOpen s (recAddr tk (stepOf s c % 2) i) 192 = true →
      exec (.contourEviction t i) s = .next s)
    ∧ (memAvailable s (recAddr tk (stepOf s c % 2) i) 192 = false → ∃ n, exec (.contourEviction t i) s = .next n ∧ onlyRecord s n))
  ∧ (∀ (s : State) (c tick m e el am nf : Nat) (tk : TensorKept), live s = true → c < 16 → noBook s → wpQuiet s c →
    (ctxOf s c).state = .running ∨ (ctxOf s c).state = .held ∨ (ctxOf s c).state = .done →
    (ctxOf s c).tensors = some tk → (ctxOf s c).liveDone = false → m = (stepOf s c + (2 ^ 64 - 1)) % 2 ^ 64 → tk.nt = 1 →
    (entryAddr tk 0 + 128 ≤ tk.stats ∨ tk.stats + 512 ≤ entryAddr tk 0) →
    e = ofBytes (hbmRead s (entryAddr tk 0) 128) → el = ofBytes (hbmRead s (recAddr tk (m % 2) 0) 8) →
    nf = ofBytes (hbmRead s (recAddr tk (m % 2) 0 + 32) 8) → am = ofBytes (hbmRead s (recAddr tk (m % 2) 0 + 40) 4) → bit e 9 = false →
    ∃ n, exec (.liveFieldUpdate c tick) s = .next n ∧ (ctxOf n c).liveDone = true
      ∧ hbmRead n (entryAddr tk 0) 128 = toBytes 128 (if fld e 3 0 = 1 then liveScaled e el am m
          else if fld e 3 0 = 2 then liveUpdate tk.ut e el nf am m else e)
      ∧ hbmRead n (recAddr tk (m % 2) 0) 192 = hbmRead s (recAddr tk (m % 2) 0) 192
      ∧ hbmRead n (bankAddr tk (m % 2)) 8 = toBytes 8 m ∧ bit (ofBytes (hbmRead n (bankAddr tk (m % 2)) 64)) 80 = true
      ∧ n.spd = s.spd ∧ n.tiles = s.tiles ∧ n.regs = (advanceTo tick s).regs)
  ∧ (∀ (s : State) (c tick : Nat) (tk : TensorKept), live s = true → c < 16 → (ctxOf s c).tensors = some tk →
      (ctxOf s c).liveDone = true ∨ amaxHere s c (scopeOne s tk) = false → exec (.liveFieldUpdate c tick) s = .next s)

/-- R24, R303, R312, R318, R325, R326: a served read of a copy brings its bytes to their place in the scratchpad and a served write puts its bytes into memory, each leaving the
list of accesses; every other byte of memory reads as before. An access to a line with an open entry waits for it, and one with no token waits. -/
def Obligations.HbmAccess : Prop :=
  ∀ (s s1 : State) (id : Nat) (a : Acc), accNow s id a → gAddr a.addr + accLen a ≤ hbmTop →
    (∀ t no row off k d, accTurn s a = true → lineOpen s (gAddr a.addr) (accLen a) = false →
      chargeAll (gAddr a.addr) (accLen a) (accPart s a) s = some s1 →
      a.origin = .cpy t no row off → a.op = .read k [] (gAt (ownDev s) (spdAddr t d)) none → t < 128 → 0 < k → d + k ≤ spdSize →
      memPoisoned s (gAddr a.addr) k = none → (tileOf s t).ports.got = [] → vsWritable s t d k = true →
      ∃ n, exec (.hbmAccess id) s = .next n ∧ n.accs = accsWithout s a.id ∧ spdRead n t d k = hbmRead s (gAddr a.addr) k
        ∧ (∀ j, (j < t * spdSize + d ∨ t * spdSize + d + k ≤ j) → memByte n.spd j = memByte s.spd j)
        ∧ n.hbm = s.hbm ∧ n.pin = s.pin ∧ n.regs = s.regs ∧ cpyOf n t = cpyOf s t)
    ∧ (∀ t no row off b, accTurn s a = true → lineOpen s (gAddr a.addr) (accLen a) = false →
      chargeAll (gAddr a.addr) (accLen a) (accPart s a) s = some s1 → noBook s → noTensor s (gAddr a.addr) (accLen a) →
      a.origin = .cpy t no row off → a.op = .write b → earlierWrite s a = false →
      ∃ n, exec (.hbmAccess id) s = .next n ∧ n.accs = accsWithout s a.id ∧ hbmRead n (gAddr a.addr) b.length = b
        ∧ (∀ x, (x < gAddr a.addr ∨ gAddr a.addr + b.length ≤ x) → hbmRead n x 1 = hbmRead s x 1)
        ∧ n.spd = s.spd ∧ n.regs = s.regs ∧ n.tiles = s.tiles)
    ∧ (∀ b, a.op = .write b → lineOpen s (gAddr a.addr) (accLen a) = true → ∃ n, exec (.hbmAccess id) s = .next n
      ∧ { n with accs := s.accs } = s ∧ n.accs = s.accs.map (fun x => if x.id = id then { x with stage := .waitEntry } else x))
    ∧ (∀ b, a.op = .write b → lineOpen s (gAddr a.addr) (accLen a) = false → earlierWrite s a = false → noBook s →
      (accTurn s a = false ∨ chargeAll (gAddr a.addr) (accLen a) (accPart s a) s = none) → exec (.hbmAccess id) s = .next s)
    ∧ (∀ b, a.op = .write b → lineOpen s (gAddr a.addr) (accLen a) = false → earlierWrite s a = true → exec (.hbmAccess id) s = .next s)

/-- R315 to R317, R319, R320, R322, R378, R379: an unsequenced request changes its line at once; the first sequenced request of a line opens its entry, and one whose
entry is then complete closes it: the line gets the sum in slot order. A contribution to a window does the same at the collector. A request that found no entry free gets
one later; an entry that times out is discarded and recorded. -/
def Obligations.Reductions : Prop :=
  (∀ (s s1 : State) (id t no row off : Nat) (a : Acc) (q : RedReq) (d : List Byte), accGoes s id a → a.origin = .cpy t no row off → a.op = .reduce q d →
    d.length = 64 → gAddr a.addr % 64 = 0 → redBad q = false → entryOf s (gAddr a.addr) = none → earlierWrite s a = false → noBook s → noneLate s →
    noTensor s (gAddr a.addr) 64 → linePoisoned s (gAddr a.addr) = false → chargeAll (gAddr a.addr) 64 (accPart s a) s = some s1 →
    (q.seq = false → colWindow s a.ctx (gAddr a.addr) = none → (ctxOf s a.ctx).nondet = true →
      ∃ n, exec (.unsequencedReduction id) s = .next n ∧ n.accs = accsWithout s a.id
        ∧ hbmRead n (gAddr a.addr) 64 = unseqLine q (hbmRead s (gAddr a.addr) 64) d
        ∧ (∀ x, (x < gAddr a.addr ∨ gAddr a.addr + 64 ≤ x) → hbmRead n x 1 = hbmRead s x 1)
        ∧ regRaw n (aMru s (gAddr a.addr) 0x18) = satAdd 64 (regRaw s (aMru s (gAddr a.addr) 0x18)) 1 ∧ n.spd = s.spd ∧ n.entries = s.entries)
    ∧ (q.seq = true → colWindow s a.ctx (gAddr a.addr) = none → q.slot = 0 → q.cntM1 = 0 → unitOpen s (gAddr a.addr) < 64 →
      ∃ n, exec (.sequencedReduction id) s = .next n ∧ n.accs = accsWithout s a.id
        ∧ hbmRead n (gAddr a.addr) 64 = seqClose q (hbmRead s (gAddr a.addr) 64) [(q.emask, d)]
        ∧ (∀ x, (x < gAddr a.addr ∨ gAddr a.addr + 64 ≤ x) → hbmRead n x 1 = hbmRead s x 1)
        ∧ regRaw n (aMru s (gAddr a.addr) 0x10) = satAdd 64 (regRaw s (aMru s (gAddr a.addr) 0x10)) 1 ∧ n.spd = s.spd ∧ n.entries = s.entries)
    ∧ (q.seq = true → colWindow s a.ctx (gAddr a.addr) = none → q.slot ≤ q.cntM1 → q.slot < 64 → (0 < q.slot ∨ 0 < q.cntM1) → unitOpen s (gAddr a.addr) < 64 →
      ∃ n e, exec (.sequencedReduction id) s = .next n ∧ n.accs = accsWithout s a.id ∧ n.entries = s.entries ++ [e]
        ∧ e.line = gAddr a.addr ∧ e.col = false ∧ e.req = q ∧ e.ctx = a.ctx ∧ e.gen = a.gen ∧ e.next = (if q.slot = 0 then 1 else 0)
        ∧ tget e.parts q.slot = some (ownDev s, q.emask, d) ∧ n.hbm = s.hbm ∧ n.regs = s.regs ∧ n.spd = s.spd)
    ∧ (∀ u, q.seq = true → colWindow s a.ctx (gAddr a.addr) = none → 64 ≤ unitOpen s (gAddr a.addr) →
      u = homeDie s (gAddr a.addr) * 20 + mruUnit s (gAddr a.addr) → ∃ n, exec (.sequencedReduction id) s = .next n
        ∧ n.accs = s.accs.map (fun x => if x.id = id then { x with stage := .waitAlloc u } else x) ∧ { n with accs := s.accs } = s)
    ∧ (q.seq = true → colWindow s a.ctx (gAddr a.addr) = some 0 → colSlice s a.ctx ≠ 0 → q.slot = 0 → q.cntM1 = 0 →
      ∃ n, exec (.contribution id) s = .next n ∧ hbmRead n (gAddr a.addr) 64 = seqClose q (hbmRead s (gAddr a.addr) 64) [(q.emask, d)]
        ∧ (∀ x, (x < gAddr a.addr ∨ gAddr a.addr + 64 ≤ x) → hbmRead n x 1 = hbmRead s x 1)
        ∧ regRaw n (aGlob 0x1200010) = satAdd 64 (regRaw s (aGlob 0x1200010)) 1
        ∧ regRaw n (aGlob 0x1200018) = satAdd 64 (regRaw s (aGlob 0x1200018)) 1 ∧ n.entries = s.entries ∧ n.spd = s.spd))
  ∧ (∀ (s : State) (u : Nat) (a : Acc), live s = true → u < 80 →
      s.accs.find? (fun a => a.stage == .waitAlloc u && (decide (unitOpen s (gAddr a.addr) < 64) || (entryOf s (gAddr a.addr)).isSome)) = some a →
      exec (.entryAllocation u) s = .next (sequencedReduction a.id (setStage a.id .todo s)))
  ∧ (∀ (s : State) (l : Nat) (e : RedEntry), live s = true → l < hbmTop → entryOf s l = some e → (ctxOf s e.ctx).state = .running → e.col = false → noneLate s →
      (∀ a ∈ s.accs, a.stage ≠ .waitEntry) → ∃ n, exec (.seqTimeout l) s = .next n ∧ n.entries = s.entries.filter (fun x => x.line ≠ l)
        ∧ regRaw n (aMru s l 8) = faultLast 4 e.ctx e.gen l % 2 ^ 64 ∧ regRaw n (aMru s l 0x20) = satAdd 64 (regRaw s (aMru s l 0x20)) 1
        ∧ (∀ a, a ≠ aMru s l 8 → a ≠ aMru s l 0x20 → regRaw n a = regRaw s a) ∧ (∀ b, bookOf n b = bookOf s b)
        ∧ { n with entries := s.entries, regs := s.regs, faults := s.faults, books := s.books } = s)

/-- R309, R310, R312 to R314, R323, R324, R327, R329 to R331: SCACHE_FLUSH and CLEAR begin and end; a range is pinned and released; a stack is quarantined; a regulator takes a
value that R327 allows, which applies from the next tick; an uncorrectable line is poisoned; a corrected one counts; a symbol error of a second connection quarantines; an error
of the cache arrays counts; a temperature report moves the projection and beyond T_CRIT quarantines, as an interface fault does. -/
def Obligations.StackControl : Prop :=
  (∀ (s : State) (who : Who) (d : Nat), live s = true → d < 4 → mayWrite who (aSc d 4) 4 s → bit (regRaw s (aSc d 0)) 4 = false →
    (∃ n, exec (.scacheFlush who d) s = .next n ∧ tget n.scacheOp d = some (0, 0) ∧ bit (regRaw n (aSc d 0)) 4 = true
      ∧ (∀ a, a ≠ aSc d 0 → regRaw n a = regRaw s a) ∧ { n with scacheOp := s.scacheOp, regs := s.regs } = s)
    ∧ (regRaw s (aSc d 8) < regRaw s (aSc d 0x10) + 0x200000 → regRaw s (aSc d 0x10) + 0x200000 ≤ hbmTop → (∀ c, c < 16 → (ctxOf s c).state = .free) →
        (∀ i, i < 5 → stackState s (5 * d + i) = 1) →
        ∃ n, exec (.scacheClear who d) s = .next n ∧ tget n.scacheOp d = some (regRaw s (aSc d 8), regRaw s (aSc d 0x10) + 0x200000)
          ∧ bit (regRaw n (aSc d 0)) 4 = true
          ∧ (∀ a, a ≠ aSc d 0 → regRaw n a = regRaw s a) ∧ { n with scacheOp := s.scacheOp, regs := s.regs } = s))
  ∧ (∀ (s : State) (d base top : Nat), live s = true → d < 4 →
      (tget s.scacheOp d = some (0, 0) → ∃ n, exec (.scacheCmdComplete d) s = .next n ∧ tget n.scacheOp d = none ∧ bit (regRaw n (aSc d 0)) 4 = false
        ∧ n.dirty = s.dirty.filter (fun l => homeDie s l ≠ d) ∧ n.hbm = s.hbm ∧ (∀ a, a ≠ aSc d 0 → regRaw n a = regRaw s a))
      ∧ (tget s.scacheOp d = some (base, top) → top ≠ 0 → ∃ n, exec (.scacheCmdComplete d) s = .next n ∧ tget n.scacheOp d = none
        ∧ bit (regRaw n (aSc d 0)) 4 = false
        ∧ (∀ a, memByte n.hbm a = if base ≤ a ∧ a < top ∧ homeDie s a = d ∧ pinned s a = false then unwritten else memByte s.hbm a)
        ∧ (∀ a, memByte n.pin a = if base ≤ a ∧ a < top ∧ homeDie s a = d ∧ pinned s a = true then unwritten else memByte s.pin a)
        ∧ n.spd = s.spd ∧ ∀ a, a ≠ aSc d 0 → regRaw n a = regRaw s a))
  ∧ (∀ (s : State) (who : Who) (d : Nat) (v : Word), live s = true → d < 4 → mayWrite who (aSc d 0x20) 4 s → bit (regRaw s (aSc d 0x20)) 8 = true →
      fld v.toNat 2 0 = fld (regRaw s (aSc d 0x20)) 2 0 → bit v.toNat 8 = false →
      ∃ n, exec (.pinCtlWrite who d v) s = .next n ∧ regRaw n (aSc d 0x20) = Nat.land v.toNat 7 ∧ (∀ a, a ≠ aSc d 0x20 → regRaw n a = regRaw s a)
        ∧ n.pin = s.pin.filter (fun p => homeDie s p.1 ≠ d) ∧ n.pinPoison = s.pinPoison.filter (fun l => homeDie s l ≠ d) ∧ tget n.pinBase d = none
        ∧ { n with pin := s.pin, pinPoison := s.pinPoison, pinBase := s.pinBase, regs := s.regs } = s)
  ∧ (∀ (s : State) (who : Who) (d b k : Nat) (v : Word), live s = true → d < 4 → mayWrite who (aSc d 0x20) 4 s → bit (regRaw s (aSc d 0x20)) 8 = false →
      bit v.toNat 8 = true → b = regRaw s (aSc d 0x18) → k = (fld v.toNat 2 0 + 1) * 0x200000 → b + k ≤ hbmTop → s.legend.uniform = true →
      (∀ c, c < 16 → (ctxOf s c).state = .free) → s.accs = [] → (∀ l ∈ s.dirty, l < b ∨ b + k ≤ l) →
      ∃ n, exec (.pinCtlWrite who d v) s = .next n ∧ regRaw n (aSc d 0x20) = Nat.land v.toNat 0x107 ∧ (∀ a, a ≠ aSc d 0x20 → regRaw n a = regRaw s a)
        ∧ n.pin = s.pin.filter (fun p => homeDie s p.1 ≠ d) ∧ tget n.pinBase d = some b ∧ n.hbm = s.hbm ∧ n.spd = s.spd ∧ n.tiles = s.tiles)
  ∧ (∀ (s : State) (who : Who) (k p : Nat) (v : Word), live s = true → k < 20 → p < 17 → mayWrite who (aHbmc k (0x100 + 8 * p)) 8 s →
      (fld v.toNat 6 0 ≤ fld v.toNat 22 16 → fld v.toNat 22 16 ≤ 64 → 0 < fld v.toNat 43 32 →
        ((List.range 17).map (fun q => if q = p then fld v.toNat 6 0 else fld (regRaw s (aHbmc k (0x100 + 8 * q))) 6 0)).sum ≤ 64 →
        ∃ n, exec (.regulatorWrite who k p v) s = .next n ∧ regRaw n (aHbmc k (0x100 + 8 * p)) = Nat.land v.toNat (mask 43 32 + mask 22 16 + mask 6 0)
          ∧ (∀ q, regNow n k q = regNow s k q) ∧ (∀ q, regNow (refill n) k q = regRaw n (aHbmc k (0x100 + 8 * q)))
          ∧ (∀ a, a ≠ aHbmc k (0x100 + 8 * p) → regRaw n a = regRaw s a) ∧ { n with stackCtl := s.stackCtl, regs := s.regs } = s)
      ∧ (fld v.toNat 22 16 < fld v.toNat 6 0 → ∃ n, exec (.regulatorWrite who k p v) s = .next n ∧ onlyRecord s n))
  ∧ (∀ (s : State) (who : Who) (k : Nat), live s = true → k < 20 → mayWrite who (aHbmc k 0) 4 s → stackState s k ≠ 3 →
      ∃ n, exec (.quar who k) s = .next n ∧ stackState n k = 3 ∧ fld (regRaw n (aHbmc k 0)) 7 4 = 5 ∧ bit (regRaw n (aHbmc k 0)) 8 = true
        ∧ n.spd = s.spd ∧ n.tiles = s.tiles ∧ ∀ a, a ≠ aHbmc k 0 → notAtlas a → regRaw n a = regRaw s a)
  ∧ (∀ (s : State) (l : Nat) (i : LineOutcome → Instr), i = (fun o => Instr.lineDecode l o) ∨ i = (fun o => Instr.scrub l o) →
      live s = true → l < hbmTop → l % 64 = 0 →
      (pinned s l = false → stackState s (homeStack s l) = 1 → s.poison.contains l = false →
        (exec (i (.symbols [])) s = .next s)
        ∧ (∀ l2, erasedOf s l = none → rsDecode none l2 = .bad → ∃ n, exec (i (.symbols l2)) s = .next n ∧ n.poison = sinsert l s.poison
            ∧ n.hbm = s.hbm ∧ n.spd = s.spd
            ∧ regRaw n (aHbmc (homeStack s l) 0x208) = satAdd 64 (regRaw s (aHbmc (homeStack s l) 0x208)) 1
            ∧ regRaw n (aHbmc (homeStack s l) 0x80) = eccLast s l 2 0)
        ∧ (∀ c, c < 64 → erasedOf s l = none → ∃ n, exec (i (.symbols [c])) s = .next n ∧ l ∈ n.dirty ∧ n.spd = s.spd
            ∧ regRaw n (aHbmc (homeStack s l) 0x200) = satAdd 64 (regRaw s (aHbmc (homeStack s l) 0x200)) 1)
        ∧ (∀ e c l2, erasedOf s l = some e → c ∈ l2 → c ≠ e → l2.length < 4 → ∃ n, exec (i (.symbols l2)) s = .next n
            ∧ stackState n (homeStack s l) = 3 ∧ fld (regRaw n (aHbmc (homeStack s l) 0)) 7 4 = 3 ∧ n.spd = s.spd)
        ∧ (∀ m, ∃ n, exec (i (.onDie m)) s = .next n ∧ { n with regs := s.regs } = s
            ∧ regRaw n (aHbmc (homeStack s l) 0x210) = satAdd 64 (regRaw s (aHbmc (homeStack s l) 0x210)) m))
      ∧ (∃ n, exec (i .cacheCe) s = .next n ∧ { n with regs := s.regs } = s
          ∧ regRaw n (aSc (homeDie s l) 0x40) = satAdd 64 (regRaw s (aSc (homeDie s l) 0x40)) 1)
      ∧ (pinned s l = false → ∃ n, exec (i .cacheUe) s = .next n ∧ n.hbm = s.hbm ∧ n.spd = s.spd
          ∧ regRaw n (aSc (homeDie s l) 0x48) = satAdd 64 (regRaw s (aSc (homeDie s l) 0x48)) 1
          ∧ n.poison = if s.dirty.contains l then sinsert l s.poison else s.poison))
  ∧ (∀ (s : State) (k x : Nat), live s = true → k < 20 → x < 256 →
      (stackState s k = 1 → x < s.legend.tCrit → ∃ n, exec (.temperatureReport k x) s = .next n ∧ (stackOf n k).temps = (x :: (stackOf s k).temps).take 4
        ∧ fld (regRaw n (aHbmc k 8)) 7 0 = x ∧ stackState n k = 1
        ∧ (∀ p, p = (match (stackOf s k).temps[3]? with | some t4 => x + (x - t4) | none => x) → p < 256 → fld (regRaw n (aHbmc k 8)) 15 8 = p)
        ∧ n.tiles = s.tiles ∧ n.spd = s.spd)
      ∧ (stackState s k ≠ 1 → x < s.legend.tCrit → ∃ n, exec (.temperatureReport k x) s = .next n ∧ fld (regRaw n (aHbmc k 8)) 7 0 = x
        ∧ stackState n k = stackState s k ∧ n.tiles = s.tiles ∧ n.spd = s.spd)
      ∧ (stackState s k = 1 → s.legend.tCrit ≤ x → ∃ n, exec (.temperatureReport k x) s = .next n ∧ stackState n k = 3 ∧ fld (regRaw n (aHbmc k 0)) 7 4 = 2)
      ∧ (stackState s k ≠ 3 → ∃ n, exec (.stackInterfaceFault k) s = .next n ∧ stackState n k = 3 ∧ fld (regRaw n (aHbmc k 0)) 7 4 = 4
        ∧ n.tiles = s.tiles ∧ n.spd = s.spd))

/-! ### Ports and links (chapter 12) and the edges between dies (chapter 1) -/

/-- R32, R33, R356, R360, R370 to R372, R401, R566, R582: what each event does to a port: retraining begins, ends well, or ends FAILED with its queue discarded; a write of
EN starts training or takes the port DOWN; training ends by its result; a port not trained in time is FAILED with cause 1; the link manager starts FAILED ports
again. An edge's CRC failure is counted; a lane that fails leaves the edge DEAD with a record. -/
def Obligations.LinkPorts : Prop :=
  (∀ (s : State) (p : Nat), live s = true → p < 16 →
    (portState s p = 2 → (linkOf s p).unacked ≠ [] → ∃ n, exec (.retraining p) s = .next n ∧ portState n p = 3
      ∧ linkOf n p = { linkOf s p with since := now n } ∧ now n = (max (now s) ((linkOf s p).heard + 20000)) % 2 ^ 64
      ∧ regRaw n (aBlw p 0x128) = satAdd 64 (regRaw s (aBlw p 0x128)) 1 ∧ portDid p [aBlw p 4, aBlw p 0x128, aGlob 0x200000] s n)
    ∧ (portState s p = 3 → ∃ n, exec (.retrainingEnd p) s = .next n ∧ portState n p = 2 ∧ recorded s n 8 2 0x23 (portDie p)
      ∧ (linkOf n p).unacked.take (linkOf s p).unacked.length = (linkOf s p).unacked)
    ∧ (portState s p = 3 → (linkOf s p).rest = [] → ∃ n, exec (.retrainingEnd p) s = .next n
      ∧ linkOf n p = { linkOf s p with replays := 1, heard := now s } ∧ n.sentBlks = s.sentBlks ++ (linkOf s p).unacked.map (fun b => (p, b.2))
      ∧ regRaw n (aBlw p 0x120) = satAdd 64 (regRaw s (aBlw p 0x120)) (linkOf s p).unacked.length
      ∧ portDid p [aBlw p 4, aBlw p 0x120] s n)
    ∧ (portState s p = 3 → ∃ n, exec (.retrainBudget p) s = .next n
      ∧ regRaw n (aBlw p 4) = 4 + (fld (regRaw s (aBlw p 4)) 8 8) <<< 8 + (fld (regRaw s (aBlw p 4)) 15 12) <<< 12 + 5 <<< 16 ∧ linkOf n p = {}
      ∧ regRaw n (aBlw p 0x150) = satAdd 64 (regRaw s (aBlw p 0x150)) (linkOf s p).queue.length ∧ n.sentBlks = s.sentBlks
      ∧ recorded s n 8 1 0x23 (portDie p) ∧ portDid p [aBlw p 4, aBlw p 0x150] s n)
    ∧ (∀ r : TrainEnd, portState s p = 1 → ∃ n, exec (.portTrainingEnd p r) s = .next n
      ∧ regRaw n (aBlw p 8) = 2 ^ 31 + (r.peerPort % 16) <<< 24 + r.peerDev % 4096
      ∧ (r.lanes ≠ 15 → regRaw n (aBlw p 4) = 4 + r.lanes.toNat <<< 12 + 2 <<< 16)
      ∧ (r.lanes = 15 → r.genMatch = false → regRaw n (aBlw p 4) = 4 + 15 <<< 12 + 4 <<< 16)
      ∧ (∀ d k, r.lanes = 15 → r.genMatch = true → expectedPeer s p = some (d, k) → (r.peerDev ≠ d ∨ r.peerPort ≠ k) →
          regRaw n (aBlw p 4) = 4 + 15 <<< 12 + 3 <<< 16)
      ∧ (r.lanes = 15 → r.genMatch = true → (∀ d k, expectedPeer s p = some (d, k) → r.peerDev = d ∧ r.peerPort = k) →
          regRaw n (aBlw p 4) = 2 + (fld (regRaw s (aBlw p 0)) 4 4) <<< 8 + 15 <<< 12)
      ∧ n.sentBlks = s.sentBlks ∧ n.links = s.links ∧ portDid p [aBlw p 4, aBlw p 8] s n)
    ∧ (portState s p = 1 → ∃ n, exec (.trainingTimeout p) s = .next n ∧ regRaw n (aBlw p 4) = 4 + 1 <<< 16 ∧ n.links = s.links
      ∧ portDid p [aBlw p 4] s n)
    ∧ (∀ who, mayWrite who (aBlw p 0) 4 s → roleOf s p ≤ 9 →
      (∃ n, exec (.portEnable who p) s = .next n ∧ regRaw n (aBlw p 0) = Nat.land (setBit (regRaw s (aBlw p 0)) 0 true) 0xF11
        ∧ (portState s p = 0 → bit (regRaw s (aBlw p 0)) 0 = false → mayTrain s p = true → regRaw n (aBlw p 4) = 1 ∧ linkOf n p = {})
        ∧ (portState s p ≠ 0 ∨ bit (regRaw s (aBlw p 0)) 0 = true ∨ mayTrain s p = false → regRaw n (aBlw p 4) = regRaw s (aBlw p 4) ∧ n.links = s.links)
        ∧ portDid p [aBlw p 0, aBlw p 4] s n)
      ∧ (∃ n, exec (.portDisable who p) s = .next n ∧ regRaw n (aBlw p 0) = Nat.land (setBit (regRaw s (aBlw p 0)) 0 false) 0xF11
        ∧ regRaw n (aBlw p 4) = 0 ∧ linkOf n p = {} ∧ regRaw n (aBlw p 0x150) = satAdd 64 (regRaw s (aBlw p 0x150)) (linkOf s p).queue.length
        ∧ portDid p [aBlw p 0, aBlw p 4, aBlw p 0x150] s n)))
  ∧ (∀ (s : State), live s = true → coreRuns s 1 = true → ∃ n, exec .trainingRetry s = .next n
      ∧ (∀ p, p < 16 → portState s p = 4 → bit (regRaw s (aBlw p 0)) 0 = true → mayTrain s p = true → regRaw n (aBlw p 4) = 1 ∧ linkOf n p = {})
      ∧ (∀ p, p < 16 → (portState s p ≠ 4 ∨ bit (regRaw s (aBlw p 0)) 0 = false ∨ mayTrain s p = false) →
          regRaw n (aBlw p 4) = regRaw s (aBlw p 4) ∧ linkOf n p = linkOf s p)
      ∧ { logKept s n with links := s.links, regs := s.regs, faults := s.faults } = s ∧ (quiet s → logKept s n = n)
      ∧ ∀ a, (∀ p, p < 16 → a ≠ aBlw p 4) → regRaw n a = regRaw s a)
  ∧ (∀ (s : State) (e d : Nat), live s = true → e < 8 → d < 4 → edgeAt e d = true →
      (∃ n, exec (.flitCrcFailure e d) s = .next n ∧ onlyRegs [aDnet d e 0x18] s n
        ∧ regRaw n (aDnet d e 0x18) = satAdd 64 (regRaw s (aDnet d e 0x18)) 1)
      ∧ ((∀ k, k < 4 → edgeAt e k = true → fld (regRaw s (aDnet k e 0)) 2 0 = 2) → ∃ n, exec (.edgeLane e) s = .next n
        ∧ (∀ k, k < 4 → edgeAt e k = true → fld (regRaw n (aDnet k e 0)) 2 0 = 3 ∧ fld (regRaw n (aDnet k e 0)) 19 16 = 3)
        ∧ { n with regs := s.regs, faults := s.faults } = s ∧ (s.faults = [] → ∃ r, n.faults = [r] ∧ r.cls = 8 ∧ r.code = 3 ∧ r.unit = 0x14)
        ∧ ∀ a, (∀ k, k < 4 → edgeAt e k = true → a ≠ aDnet k e 0) → regRaw n a = regRaw s a))

/-- R358 to R361, R367 to R369, R374, R375, R582: a block with the awaited SEQ and right codes is accepted: its flits enter the receive buffers, its ACK and credits act, and
a block with flits is answered; any other block is discarded and answered by a NAK. The first packet of its VC and class leaves in its channel's turn when the peer has room, in blocks kept
for replay, 512 of them at most. A packet for another module goes on by its route with one hop more, or is discarded and counted where the route's port carries nothing. -/
def Obligations.LinkTraffic : Prop :=
  (∀ (s : State) (p : Nat) (fl : List Byte) (t : BitVec 128) (cor : Option Nat), (linkOf s p).nextSeq < 65536 → (linkOf s p).rest = [] →
    (blockAt s p fl t cor true → cor ≠ none → fld t.toNat 15 0 = (linkOf s p).expect → 0 < fld t.toNat 35 32 → bit t.toNat 36 = false →
      ∃ n b, exec (.linkBlock p fl t cor) s = .next n ∧ (linkOf n p).expect = ((linkOf s p).expect + 1) % 65536
        ∧ (linkOf n p).inbox = (linkOf s p).inbox ++ (takePackets 600 ((linkOf s p).rx ++ fl.take (64 * min 8 (fld t.toNat 35 32)))).1
        ∧ (linkOf n p).rx = (takePackets 600 ((linkOf s p).rx ++ fl.take (64 * min 8 (fld t.toNat 35 32)))).2
        ∧ (linkOf n p).unacked = (ackBlocks (now s) (fld t.toNat 31 16) (linkOf s p)).unacked ∧ (linkOf n p).queue = (linkOf s p).queue
        ∧ (linkOf n p).used = (creditApply (fld t.toNat 95 80) (creditApply (fld t.toNat 79 64) (linkOf s p))).used
        ∧ n.sentBlks = s.sentBlks ++ [(p, b)] ∧ b.length = 528 ∧ fld (ofBytes (b.drop 512)) 31 16 = (linkOf s p).expect
        ∧ regRaw n (aBlw p 0x148) = satAdd 64 (regRaw s (aBlw p 0x148)) (min 8 (fld t.toNat 35 32)) ∧ fecCounted s n p cor
        ∧ n.faults = s.faults ∧ portDid p [aBlw p 0x100, aBlw p 0x108, aBlw p 0x110, aBlw p 0x148] s n)
    ∧ (blockAt s p fl t cor true → cor ≠ none → fld t.toNat 15 0 = (linkOf s p).expect → fld t.toNat 35 32 = 0 →
      ∃ n l, exec (.linkBlock p fl t cor) s = .next n
        ∧ l = creditApply (fld t.toNat 95 80) (creditApply (fld t.toNat 79 64) (ackBlocks (now s) (fld t.toNat 31 16) (linkOf s p)))
        ∧ (bit t.toNat 36 = false → linkOf n p = l ∧ n.sentBlks = s.sentBlks)
        ∧ (bit t.toNat 36 = true → 8 ≤ l.replays → portState n p = 3 ∧ n.sentBlks = s.sentBlks ∧ (linkOf n p).unacked = l.unacked)
        ∧ (bit t.toNat 36 = true → l.replays < 8 → linkOf n p = { l with replays := l.replays + 1 } ∧ n.sentBlks = s.sentBlks ++ l.unacked.map (fun b => (p, b.2))
          ∧ regRaw n (aBlw p 0x120) = satAdd 64 (regRaw s (aBlw p 0x120)) l.unacked.length)
        ∧ fecCounted s n p cor ∧ n.faults = s.faults ∧ portDid p [aBlw p 4, aBlw p 0x100, aBlw p 0x108, aBlw p 0x110, aBlw p 0x120, aBlw p 0x128] s n)
    ∧ (∀ ok, blockAt s p fl t cor ok → (cor = none ∨ ok = false ∨ fld t.toNat 15 0 ≠ (linkOf s p).expect) →
      ∃ n b, exec (.linkBlock p fl t cor) s = .next n ∧ n.sentBlks = s.sentBlks ++ [(p, b)] ∧ b.length = 528 ∧ bit (ofBytes (b.drop 512)) 36 = true
        ∧ fld (ofBytes (b.drop 512)) 31 16 = ((linkOf s p).expect + 65535) % 65536
        ∧ { linkOf n p with owed := (linkOf s p).owed, nakOwed := (linkOf s p).nakOwed, heard := (linkOf s p).heard } = linkOf s p ∧ fecCounted s n p cor
        ∧ regRaw n (aBlw p 0x118) = satAdd 64 (regRaw s (aBlw p 0x118)) (if cor ≠ none ∧ ok = false then 1 else 0)
        ∧ n.faults = s.faults ∧ portDid p [aBlw p 0x100, aBlw p 0x108, aBlw p 0x110, aBlw p 0x118] s n))
  ∧ (∀ (s : State) (p vc : Nat) (k : Packet), live s = true → p < 16 → vc < 8 → portState s p = 2 → strictBlocks s p vc = false →
      vcTurn s p vc = true → (linkOf s p).rest = [] → sendable s p vc = some k → k.pay.length = 64 * pNpay k → pNpay k ≤ 64 →
      ((linkOf s p).unacked.length < 512 → ∃ n, exec (.packetSend p vc) s = .next n ∧ n.sentPkts = s.sentPkts ++ [(p, k)]
        ∧ (linkOf n p).unacked.length = min 512 ((linkOf s p).unacked.length + (pFlits k + 7) / 8))
      ∧ ((linkOf s p).unacked.length + 9 ≤ 512 → ∃ n, exec (.packetSend p vc) s = .next n ∧ n.sentPkts = s.sentPkts ++ [(p, k)] ∧ (linkOf n p).queue = (linkOf s p).queue.erase k
        ∧ (tget (linkOf n p).used (vcKey vc (pClass k))).getD 0 = (tget (linkOf s p).used (vcKey vc (pClass k))).getD 0 + pFlits k
        ∧ regRaw n (aBlw p 0x140) = satAdd 64 (regRaw s (aBlw p 0x140)) (pFlits k)
        ∧ (∃ l, (linkOf n p).unacked = (linkOf s p).unacked ++ l ∧ n.sentBlks = s.sentBlks ++ l.map (fun b => (p, b.2)) ∧ l.length = (pFlits k + 7) / 8)
        ∧ (linkOf n p).inbox = (linkOf s p).inbox ∧ (∀ q, q ≠ p → linkOf n q = linkOf s q) ∧ (∀ a, a ≠ aBlw p 0x140 → regRaw n a = regRaw s a)
        ∧ { n with links := s.links, regs := s.regs, sentPkts := s.sentPkts, sentBlks := s.sentBlks } = s)
      ∧ (512 ≤ (linkOf s p).unacked.length → exec (.packetSend p vc) s = .next s))
  ∧ (∀ (s : State) (p vc : Nat), live s = true → p < 16 → vc < 8 → strictBlocks s p vc = true ∨ vcTurn s p vc = false →
      exec (.packetSend p vc) s = .next s)
  ∧ (∀ (s : State) (p o : Nat) (k k' : Packet), live s = true → p < 16 → fabricPort s p = true → pDst k ≠ ownDev s → pOpc k ≠ 0x30 → pOpc k ≠ 0x48 →
      (linkOf s p).inbox.contains k = true → mayTake s p k = true → packetBad k = false → routePort s (pSrc k) (pDst k) = some o →
      k' = pWith (pWith k 95 88 (min 255 (pHops k + 1))) 85 84 (nextClass s p o k) →
      ∃ n, exec (.transit p k) s = .next n ∧ tookIn p o k s n
        ∧ (portState s o = 2 ∨ portState s o = 3 → (linkOf n o).queue = (linkOf s o).queue ++ [k'] ∧ n.regs = s.regs)
        ∧ (portState s o ≠ 2 → portState s o ≠ 3 → regRaw n (aBlw o 0x150) = satAdd 64 (regRaw s (aBlw o 0x150)) 1
          ∧ (linkOf n o).queue = (linkOf s o).queue ∧ ∀ a, a ≠ aBlw o 0x150 → regRaw n a = regRaw s a)
        ∧ { n with links := s.links, regs := s.regs, sentBlks := s.sentBlks, flits := s.flits } = s)

/-! ### Request packets, answers, messages (R66 to R72, R364, R365, R382, R493) -/

/-- R363 to R365, Tables 12-5, 12-6: a checked WRITE, READ or REDUCE packet becomes accesses of the named context; a checked MSG waits at its tile. A packet whose context is
not current is counted and answered with STATUS 1; one that reaches beyond its rights, or that no member sent, is answered with STATUS 2. -/
def Obligations.PacketRequests : Prop :=
  ∀ (s : State) (p : Nat) (k : Packet),
    (∀ i op, (pktAt s p 0x01 k ∧ (pAddr k + (pOp k 267 256 + 1) ≤ hbmTop ∨ hbmTop ≤ pAddr k) ∧ i = Instr.write p k ∧ op = .write (k.pay.take (pOp k 267 256 + 1)))
        ∨ (pktAt s p 0x03 k ∧ i = .read p k ∧ op = .read (pOp k 267 256 + 1) [] 0 none) →
      pktChecked s k → packetTile s k (pAddr k) = none → pktReach s k (pAddr k) (pOp k 267 256 + 1) = true → ∃ n a, exec i s = .next n ∧ n.accs = s.accs ++ [a]
        ∧ a.op = op ∧ a.id = s.nextId ∧ a.origin = .packet p k.hdr 0 0 ∧ a.ctx = pCtx k ∧ a.gen.toNat = pGen k ∧ a.addr = gAt (ownDev s) (pAddr k)
        ∧ a.stage = .todo ∧ n.nextId = s.nextId + 1 ∧ tookIn p p k s n ∧ (linkOf n p).queue = (linkOf s p).queue
        ∧ { n with links := s.links, sentBlks := s.sentBlks, flits := s.flits, accs := s.accs, nextId := s.nextId } = s)
    ∧ (∀ m, pktAt s p 0x01 k → pktChecked s k → pktReach s k (pAddr k) (pOp k 267 256 + 1) = true → pAddr k < hbmTop → m = hbmTop - pAddr k →
      m < pOp k 267 256 + 1 → ∃ n a b, exec (.write p k) s = .next n ∧ n.accs = s.accs ++ [a, b] ∧ a.addr = gAt (ownDev s) (pAddr k)
        ∧ b.addr = gAt (ownDev s) hbmTop ∧ a.op = .write (k.pay.take m) ∧ b.op = .write ((k.pay.take (pOp k 267 256 + 1)).drop m)
        ∧ a.origin = .packet p k.hdr 0 0 ∧ b.origin = .packet p k.hdr 0 0 ∧ tookIn p p k s n)
    ∧ (∀ t m v, pktChecked s k → packetTile s k (pAddr k) = some t →
      (pktAt s p 0x01 k → writeReg (.steward t 0) (pAddr k) (pOp k 267 256 + 1) (ofBytes (k.pay.take (pOp k 267 256 + 1))) (takeIn p k s) = .ok m →
        exec (.write p k) s = .next (refuse k 2 0 m))
      ∧ (pktAt s p 0x03 k → readReg (.steward t 0) (pAddr k) (pOp k 267 256 + 1) (takeIn p k s) = .ok (v, m) →
        exec (.read p k) s = .next (sendPacket (answerPacket m k 4 0 (fitBytes 64 (toBytes (pOp k 267 256 + 1) v))) m)))
    ∧ (pktAt s p 0x05 k → pktChecked s k → pAddr k + 64 * pNpay k ≤ hbmTop → pktReach s k (pAddr k) (64 * pNpay k) = true →
      ∃ n l, exec (.reduce p k) s = .next n ∧ n.accs = s.accs ++ l ∧ l.length = pNpay k
        ∧ (∀ i a, l[i]? = some a → a.op = .reduce (pktRed k) ((k.pay.drop (64 * i)).take 64) ∧ a.id = s.nextId + i ∧ a.origin = .packet p k.hdr 0 0
          ∧ a.ctx = pCtx k ∧ a.gen.toNat = pGen k ∧ a.addr = gAt (ownDev s) (pAddr k + 64 * i) ∧ a.stage = .todo)
        ∧ n.nextId = s.nextId + pNpay k ∧ tookIn p p k s n ∧ (linkOf n p).queue = (linkOf s p).queue
        ∧ { n with links := s.links, sentBlks := s.sentBlks, flits := s.flits, accs := s.accs, nextId := s.nextId } = s)
    ∧ (pktAt s p 0x08 k → pktChecked s k → bit (ctxTiles s (pCtx k)) (pOp k 278 272) = true →
      ∃ n m, exec (.msg p k) s = .next n ∧ (tileOf n (pOp k 278 272)).msgs = (tileOf s (pOp k 278 272)).msgs ++ [m]
        ∧ m.target = pOp k 260 256 ∧ m.srcDev = pSrc k ∧ m.srcTile = pTile k ∧ m.srcSt = pSt k ∧ m.len = pOp k 271 264 ∧ m.data = k.pay ∧ m.port = some p
        ∧ { tileOf n (pOp k 278 272) with msgs := (tileOf s (pOp k 278 272)).msgs } = tileOf s (pOp k 278 272)
        ∧ (∀ u, u ≠ pOp k 278 272 → tileOf n u = tileOf s u) ∧ tookIn p p k s n ∧ (linkOf n p).queue = (linkOf s p).queue
        ∧ { n with links := s.links, sentBlks := s.sentBlks, flits := s.flits, tiles := s.tiles, nextId := s.nextId } = s)
    ∧ (∀ i opc ans o, (i = Instr.write p k ∧ opc = 1 ∧ ans = 2) ∨ (i = .read p k ∧ opc = 3 ∧ ans = 4) ∨ (i = .reduce p k ∧ opc = 5 ∧ ans = 6)
        ∨ (i = .msg p k ∧ opc = 8 ∧ ans = 9) → pktAt s p opc k → wayTo s (pSrc k) o →
      (pktCurrent s k false = false → ∃ n a, exec i s = .next n ∧ queuedAt o a s n ∧ answers s k ans 1 a ∧ tookIn p o k s n
        ∧ regRaw n (aBlw p 0x130) = satAdd 64 (regRaw s (aBlw p 0x130)) 1 ∧ (∀ b, b ≠ aBlw p 0x130 → regRaw n b = regRaw s b)
        ∧ { n with links := s.links, sentBlks := s.sentBlks, flits := s.flits, regs := s.regs } = s)
      ∧ (pktCurrent s k false = true → (pktMember s k = false ∨ (opc ≤ 3 ∧ packetTile s k (pAddr k) = none ∧ pktReach s k (pAddr k) (pOp k 267 256 + 1) = false)
          ∨ (opc = 5 ∧ (hbmTop < pAddr k + 64 * pNpay k ∨ pktReach s k (pAddr k) (64 * pNpay k) = false)) ∨ (opc = 8 ∧ bit (ctxTiles s (pCtx k)) (pOp k 278 272) = false)) →
        ∃ n a, exec i s = .next n ∧ queuedAt o a s n ∧ answers s k ans 2 a ∧ tookIn p o k s n ∧ { n with links := s.links, sentBlks := s.sentBlks, flits := s.flits } = s))
    ∧ (∀ i opc, (i = Instr.write p k ∧ opc = 1) ∨ (i = .read p k ∧ opc = 3) ∨ (i = .reduce p k ∧ opc = 5) ∨ (i = .msg p k ∧ opc = 8)
        ∨ (i = .wack p k ∧ opc = 2) ∨ (i = .rdata p k ∧ opc = 4) ∨ (i = .rack p k ∧ opc = 6) ∨ (i = .mack p k ∧ opc = 9) ∨ (i = .ccred p k ∧ opc = 0x11) →
      live s = true → p < 16 → fabricPort s p = true → pOpc k = opc → packetBad k = true → pDst k = ownDev s → (linkOf s p).inbox.contains k = true →
      mayTake s p k = true →
      ∃ n, exec i s = .next n ∧ tookIn p p k s n ∧ regRaw n (aBlw p 0x138) = satAdd 64 (regRaw s (aBlw p 0x138)) 1
        ∧ (∀ b, b ≠ aBlw p 0x138 → regRaw n b = regRaw s b) ∧ { n with links := s.links, sentBlks := s.sentBlks, flits := s.flits, regs := s.regs } = s)

/-- R66 to R68, R347, R364, R382, R493: an answer ends its access: the data of a read comes to its place, an error stops the copy, a requester that is gone only counts; MACK
tells the sender; CCRED gives credits back or sends a contribution that waited. A message is delivered to a mailbox that is not FULL, enters its queue, or is dropped. -/
def Obligations.PacketAnswers : Prop :=
  (∀ (s : State) (p : Nat) (k : Packet) (a : Acc) (t no row off : Nat), answered s k = some a → a.origin = .cpy t no row off → t < 128 →
    (∀ i st, (i = Instr.wack p k ∧ pktAt s p 2 k ∧ pVc k ≠ 6 ∧ ¬ (portState s p = 2 ∧ roleOf s p = 8) ∧ (∃ d, a.op = .write d))
        ∨ (i = .rack p k ∧ pktAt s p 6 k ∧ (∃ q d, a.op = .reduce q d)) ∨ (i = .rdata p k ∧ pktAt s p 4 k ∧ (∃ m g d, a.op = .read m g d none)) →
      st = pOp k 259 256 →
      (current s a.ctx a.gen = true → answerOk s k st = true → st = 0 → i ≠ .rdata p k → ∃ n, exec i s = .next n ∧ n.accs = accsWithout s a.id
        ∧ { n with links := s.links, sentBlks := s.sentBlks, flits := s.flits, accs := s.accs } = s ∧ tookIn p p k s n)
      ∧ (current s a.ctx a.gen = true → answerOk s k st = false → ∃ n, exec i s = .next n ∧ n.accs = s.accs ∧ n.tiles = s.tiles ∧ tookIn p p k s n
        ∧ (pktCurrent s k false = false → regRaw n (aBlw p 0x130) = satAdd 64 (regRaw s (aBlw p 0x130)) 1))
      ∧ (current s a.ctx a.gen = true → answerOk s k st = true → st ≠ 0 → (cpyOf s t).stopped = false → ∃ n, exec i s = .next n
        ∧ (∀ x ∈ n.accs, x ∈ accsWithout s a.id) ∧ (∀ x ∈ accsWithout s a.id, accWrites x = true → x ∈ n.accs)
        ∧ (cpyOf n t).stopped = true ∧ (cpyOf n t).count = (cpyOf s t).count ∧ fld (regRaw n (aTile t 6 0x10)) 15 0 = statusCode st
        ∧ (∀ b, b ≠ aTile t 6 0x10 → regRaw n b = regRaw s b) ∧ tookIn p p k s n)
      ∧ (current s a.ctx a.gen = false → ∃ n, exec i s = .next n ∧ n.accs = accsWithout s a.id
        ∧ regRaw n (aBlw p 0x130) = satAdd 64 (regRaw s (aBlw p 0x130)) 1 ∧ (∀ b, b ≠ aBlw p 0x130 → regRaw n b = regRaw s b)
        ∧ { n with links := s.links, sentBlks := s.sentBlks, flits := s.flits, accs := s.accs, regs := s.regs } = s ∧ tookIn p p k s n))
    ∧ (∀ m o, pktAt s p 4 k → a.op = .read m [] (gAt (ownDev s) (spdAddr t o)) none → current s a.ctx a.gen = true → answerOk s k 0 = true → pOp k 259 256 = 0 → 0 < m →
      m ≤ k.pay.length → o + m ≤ spdSize → (tileOf s t).ports.got = [] → vsWritable s t o m = true → ∃ n, exec (.rdata p k) s = .next n ∧ n.accs = accsWithout s a.id
        ∧ spdRead n t o m = k.pay.take m ∧ (∀ j, (j < t * spdSize + o ∨ t * spdSize + o + m ≤ j) → memByte n.spd j = memByte s.spd j)
        ∧ n.hbm = s.hbm ∧ n.regs = s.regs ∧ cpyOf n t = cpyOf s t ∧ tookIn p p k s n))
  ∧ (∀ (s : State) (p : Nat) (k : Packet) (id : Nat), pktAt s p 9 k → (stOf s (pTile k) (pSt k)).send = .pending id → id % 65536 = pTag k →
      answerOk s k (pOp k 259 256) = true → ∃ n, exec (.mack p k) s = .next n ∧ stOf n (pTile k) (pSt k) = { stOf s (pTile k) (pSt k) with send := .answered (pOp k 259 256) }
        ∧ (∀ u j, j < 2 → ¬ (u = pTile k ∧ j = pSt k) → stOf n u j = stOf s u j) ∧ { n with links := s.links, sentBlks := s.sentBlks, flits := s.flits, stewards := s.stewards, faults := s.faults, accs := s.accs } = s
        ∧ n.accs = s.accs.filter (fun a => !(a.origin == .msg && a.id % 65536 == pTag k && gDev a.addr == pSrc k))
        ∧ (pOp k 259 256 ≠ 6 → n.faults = s.faults) ∧ (pOp k 259 256 = 6 → recorded s n 1 6 (1 + pSt k) (tileDie (pTile k))) ∧ tookIn p p k s n)
  ∧ (∀ (s : State) (p e : Nat) (k : Packet), pktAt s p 0x11 k → pktChecked s k → e = creditKey (if pTag k == 1 then 16 + pCtx k else pCtx k) (pSrc k) →
      ((∀ a ∈ s.accs, a.stage = .waitCredit → ¬ (a.ctx = pCtx k ∧ gDev a.addr = pSrc k)) → ∃ n, exec (.ccred p k) s = .next n
        ∧ (tget n.credits e).getD 0 = (tget s.credits e).getD 0 - pOp k 274 256
        ∧ (∀ j, j ≠ e → (tget n.credits j).getD 0 = (tget s.credits j).getD 0)
        ∧ { n with links := s.links, sentBlks := s.sentBlks, flits := s.flits, credits := s.credits } = s ∧ tookIn p p k s n)
      ∧ (∀ a, pOp k 274 256 = 1 → s.accs.find? (fun a => a.stage == .waitCredit && a.ctx == pCtx k && gDev a.addr == pSrc k
          && (a.origin == .amax) == (pTag k == 1)) = some a → ∃ n, exec (.ccred p k) s = .next n ∧ n.credits = s.credits
          ∧ n.accs = s.accs.map (fun x => if x.id = a.id then { x with stage := if gDev a.addr = ownDev s then .todo else .remote } else x)))
  ∧ (∀ (s : State) (t m : Nat) (x : Message), live s = true → t < 128 → m < 16 → (tileOf s t).msgs.find? (fun y => y.target = m) = some x → x.port = none →
      (bit (regRaw s (aMbox t m)) 0 = false → bit (regRaw s (aMbox t m)) 1 = true → fld (regRaw s (aMbox t m)) 43 32 = x.srcDev →
        fld (regRaw s (aMbox t m)) 22 16 = x.srcTile → ∃ n, exec (.mailboxDelivery t m) s = .next n
          ∧ tileOf n t = { tileOf s t with msgs := (tileOf s t).msgs.erase x } ∧ regRaw n (aMbox t m) = setBit (regRaw s (aMbox t m)) 0 true
          ∧ (∀ i, i < 8 → regRaw n (aTile t 9 (0x40 * m + 8 * i)) = fld (ofBytes x.data) (64 * i + 63) (64 * i)) ∧ toldSender x 0 s n
          ∧ { n with tiles := s.tiles, regs := s.regs, stewards := s.stewards } = s
          ∧ ∀ a, a ≠ aMbox t m → (a < aTile t 9 (0x40 * m) ∨ aTile t 9 (0x40 * m) + 64 ≤ a) → regRaw n a = regRaw s a)
      ∧ (bit (regRaw s (aMbox t m)) 0 = false → (bit (regRaw s (aMbox t m)) 1 = false ∨ fld (regRaw s (aMbox t m)) 43 32 ≠ x.srcDev
          ∨ fld (regRaw s (aMbox t m)) 22 16 ≠ x.srcTile) → ∃ n, exec (.mailboxDelivery t m) s = .next n
          ∧ tileOf n t = { tileOf s t with msgs := (tileOf s t).msgs.erase x } ∧ toldSender x 6 s n
          ∧ { n with tiles := s.tiles, stewards := s.stewards, faults := s.faults } = s)
      ∧ (bit (regRaw s (aMbox t m)) 0 = true → exec (.mailboxDelivery t m) s = .next s))
  ∧ (∀ (s : State) (t q b depth head tail : Nat) (x : Message), live s = true → t < 128 → q < 4 → (tileOf s t).msgs.find? (fun y => y.target = 16 + q) = some x →
      x.port = none → b = (fld (regRaw s (aMq t q 0)) 22 6) <<< 6 → depth = 2 ^ fld (regRaw s (aMq t q 8)) 3 0 → head = regRaw s (aMq t q 0x10) →
      tail = regRaw s (aMq t q 0x18) →
      (bit (regRaw s (aMq t q 8)) 8 = true → (tail + 2 * depth - head) % (2 * depth) < depth → b + 64 * depth ≤ spdSize →
        (tileOf s t).ports.got = [] → vsWritable s t (b + 64 * (tail % depth)) 64 = true → ∃ n, exec (.messageQueueEntry t q) s = .next n ∧ (tileOf n t).msgs = (tileOf s t).msgs.erase x
          ∧ spdRead n t (b + 64 * (tail % depth)) 64 = mqEntry x ∧ regRaw n (aMq t q 0x18) = (tail + 1) % (2 * depth)
          ∧ (∀ j, (j < t * spdSize + b + 64 * (tail % depth) ∨ t * spdSize + b + 64 * (tail % depth) + 64 ≤ j) → memByte n.spd j = memByte s.spd j)
          ∧ (∀ a, a ≠ aMq t q 0x18 → regRaw n a = regRaw s a) ∧ n.hbm = s.hbm ∧ (∀ u, u ≠ t → tileOf n u = tileOf s u))
      ∧ (bit (regRaw s (aMq t q 8)) 8 = false → ∃ n, exec (.messageQueueEntry t q) s = .next n
          ∧ tileOf n t = { tileOf s t with msgs := (tileOf s t).msgs.erase x } ∧ toldSender x 6 s n
          ∧ { n with tiles := s.tiles, stewards := s.stewards, faults := s.faults } = s)
      ∧ (bit (regRaw s (aMq t q 8)) 8 = true → depth ≤ (tail + 2 * depth - head) % (2 * depth) → exec (.messageQueueEntry t q) s = .next s))

/-! ### Jobs: waypoints, commits, holds, aborts (R82 to R85, R392 to R397, R457, R458, R484, R486 to R489) -/

/-- R83 to R85, R392 to R394, R457, R458: WAYPOINT_RELEASE at its tick lets the instructions that wait go on and moves to the next waypoint, with the effect of its kind. ARRIVE and
PREPARE record a child's report, and the last one sends the arrival up; RELEASE and DECIDE with COMMIT set the tick, a late one leaves a record; DECIDE without COMMIT
aborts the step. -/
def Obligations.JobWaypoints : Prop :=
  (∀ (s : State) (c i r : Nat) (x : Ctx) (e : WpEntry), live s = true → c < 16 → noBook s → x = ctxOf s c → aborted s c = false →
    (x.state = .running ∨ x.state = .held) → releaseTick s c = some (i, r) → x.wps[i]? = some e → tilesOf s c ≠ [] → r < 2 ^ 64 →
    ∃ n, exec (.waypointRelease c) s = .next n ∧ now n = max (now s) r
      ∧ (ctxOf n c).next = wpAfter x i ∧ (ctxOf n c).arrived = [] ∧ (ctxOf n c).aLocal = none ∧ (ctxOf n c).relTick = none ∧ (ctxOf n c).sent = false
      ∧ (∀ t ∈ x.arrived, (stOf s t 0).run = .waiting → (stOf s t 0).waitKind = .waypoint → stOf n t 0 = { stOf s t 0 with
          pc := (stOf s t 0).pc + 4, run := .running, waitKind := .none, instret := (stOf s t 0).instret + 1 })
      ∧ (∀ t, t ∉ x.arrived → stOf n t 0 = stOf s t 0) ∧ (∀ t, stOf n t 1 = stOf s t 1)
      ∧ (e.kind = .commit → stepOf n c = (stepOf s c + 1) % 2 ^ 64 ∧ (ctxOf n c).commitRel = some r ∧ (ctxOf n c).myVote = none)
      ∧ (e.kind = .stepBegin → (ctxOf n c).beginRel = some r ∧ (ctxOf n c).openMb = [] ∧ (ctxOf n c).closedMb = [])
      ∧ (e.kind = .mbOpen → (ctxOf n c).openMb = sinsert e.mbi x.openMb) ∧ (e.kind = .mbClose → (ctxOf n c).closedMb = sinsert e.mbi x.closedMb)
      ∧ (e.kind = .fin → (ctxOf n c).state = .done) ∧ (e.kind ≠ .fin → (ctxOf n c).state = x.state) ∧ (∀ d, d ≠ c → ctxOf n d = ctxOf s d)
      ∧ (e.kind ≠ .commit → e.kind ≠ .fin → { n with ctxs := s.ctxs, stewards := s.stewards, regs := s.regs, power := s.power } = s
          ∧ ∀ a, a ≠ aGlob 0x200000 → regRaw n a = regRaw s a))
  ∧ (∀ (s : State) (p c : Nat) (k : Packet) (x : Ctx) (h : ChildArr), c = pCtx k → x = ctxOf s c → pktChecked s k →
      (∀ i, (i = Instr.arrive p k ∧ pktAt s p 0x20 k ∧ h = { idx := kIdx k, step := kStep k, rank := pRank k, time := kTime k, vote := none })
          ∨ (i = .prepare p k ∧ pktAt s p 0x28 k ∧ pOp k 259 256 = 1
            ∧ h = { idx := wpC x, step := kStep k, rank := pRank k, time := kTime k, vote := some { yes := decide (pOp k 260 260 = 1), noRank := pOp k 363 352, cause := pOp k 367 364 } }) →
        (pRank k ∈ childRanks x.rank x.members → x.aLocal = none → (∃ t ∈ tilesOf s c, t ∉ x.arrived) →
          ∃ n, exec i s = .next n ∧ ctxDid c (ctxOf (withReport c h s) c) s n ∧ n.regs = s.regs ∧ tookIn p p k s n)
        ∧ (pRank k ∉ childRanks x.rank x.members → ∃ n, exec i s = .next n ∧ { n with links := s.links, sentBlks := s.sentBlks, flits := s.flits } = s ∧ tookIn p p k s n)
        ∧ (∀ w e a t v m o, pRank k ∈ childRanks x.rank x.members → x.next = .at w → x.wps[w]? = some e → isJob e.kind = true → x.aLocal = some a →
            x.sent = false → x.rank ≠ 0 → childReports (withReport c h s) c w = some (t, v) → rankAt s c (parentRank x.rank) m o → a < 2 ^ 64 → t < 2 ^ 64 →
            ∃ n j, exec i s = .next n ∧ queuedAt o j s n ∧ pDst j = m ∧ (ctxOf n c).sent = true ∧ tookIn p o k s n
              ∧ (e.kind ≠ .commit → wpPacket 0x20 w (stepOf s c) (max a t) j)
              ∧ (e.kind = .commit → pOpc j = 0x28 ∧ pOp j 259 256 = 1 ∧ kStep j = stepOf s c % 65536 ∧ kTime j = max a t
                  ∧ pOp j 260 260 = (voteAnd (x.myVote.getD voteYes) v).yes.toNat)))
      ∧ (∀ i w tick, (i = Instr.release p k ∧ pktAt s p 0x21 k ∧ w = kIdx k)
          ∨ (i = .decide p k ∧ pktAt s p 0x28 k ∧ pOp k 259 256 = 2 ∧ pOp k 260 260 = 1 ∧ w = wpC x) → tick = kTime k →
        (x.next = .at w → kStep k = stepOf s c % 65536 → now s ≤ tick → ∃ n, exec i s = .next n ∧ ctxDid c { x with relTick := some tick } s n
          ∧ (childRanks x.rank x.members = [] → n.regs = s.regs ∧ tookIn p p k s n))
        ∧ (x.next = .at w → kStep k = stepOf s c % 65536 → tick < now s → ∃ n, exec i s = .next n ∧ recorded s n 7 2 0x20 4
          ∧ { n with links := s.links, sentBlks := s.sentBlks, flits := s.flits, regs := s.regs, faults := s.faults } = s)
        ∧ (x.next ≠ .at w ∨ kStep k ≠ stepOf s c % 65536 → ∃ n, exec i s = .next n ∧ { n with links := s.links, sentBlks := s.sentBlks, flits := s.flits, regs := s.regs } = s))
      ∧ (pktAt s p 0x28 k → pOp k 259 256 = 2 → pOp k 260 260 = 0 → noBook s → kStep k = stepOf s c % 65536 → x.decided ≠ some false →
        ∃ n, exec (.decide p k) s = .next n ∧ ctxOf n c = { x with decided := some false } ∧ (∀ d, d ≠ c → ctxOf n d = ctxOf s d) ∧ recorded s n 7 1 0x20 4
          ∧ { n with links := s.links, sentBlks := s.sentBlks, flits := s.flits, ctxs := s.ctxs, regs := s.regs, faults := s.faults, free := s.free } = s))

/-- R83, R395 to R397, R484, R583: a member raises a hold for a waypoint that is late: its HOLD goes to the parent, or the root begins the hold. HOLD from below goes on to the root, the
root's notice holds the member. CLEAR ends the cause; the root then decides the resumption, RESUME tells it, and at TRES the member runs again. A hold that lasts is
recorded by the watchdog of rank 0. -/
def Obligations.JobHolds : Prop :=
  (∀ (s : State) (c i t tick : Nat) (x : Ctx), live s = true → c < 16 → x = ctxOf s c → aborted s c = false → x.state = .running → x.raised = none →
    x.heldAt = none → holdDue s c = some (i, t) → x.aLocal = none → tick = max t (x.chosenAt.getD 0) → tick < 2 ^ 64 →
    (∀ m o, x.rank ≠ 0 → x.rank < 4096 → rankAt s c (parentRank x.rank) m o → ∃ n j, exec (.holdRaise c) s = .next n ∧ ctxOf n c = { x with raised := some i }
      ∧ (∀ d, d ≠ c → ctxOf n d = ctxOf s d) ∧ queuedAt o j s n ∧ wpPacket 0x22 i (stepOf s c) tick j ∧ pRank j = x.rank ∧ pDst j = m
      ∧ now n = max (now s) tick ∧ (∀ a, a ≠ aGlob 0x200000 → regRaw n a = regRaw s a) ∧ { n with links := s.links, sentBlks := s.sentBlks, flits := s.flits, ctxs := s.ctxs, regs := s.regs } = s)
    ∧ (x.rank = 0 → x.root = none → x.resumeAt = none → x.holds = [] → ∃ n, exec (.holdRaise c) s = .next n ∧ now n = max (now s) tick
      ∧ ctxOf n c = { x with raised := some i, state := .held, heldAt := some tick, holdCause := some (i, stepOf s c % 65536),
                             root := some { s := tick, rank := 0, idx := i, step := stepOf s c % 65536, clear := none } }
      ∧ (∀ d, d ≠ c → ctxOf n d = ctxOf s d) ∧ n.tiles = s.tiles ∧ n.stewards = s.stewards ∧ n.spd = s.spd))
  ∧ (∀ (s : State) (p c : Nat) (k : Packet) (x : Ctx), c = pCtx k → x = ctxOf s c → pktChecked s k →
      (∀ m o i opc, (i = Instr.hold p k ∧ opc = 0x22 ∧ pRank k ≠ parentRank x.rank) ∨ (i = .clear p k ∧ opc = 0x24) → pktAt s p opc k → x.rank ≠ 0 →
        rankAt s c (parentRank x.rank) m o → ∃ n j, exec i s = .next n ∧ queuedAt o j s n ∧ wpPacket opc (kIdx k) (kStep k) (kTime k) j ∧ pRank j = pRank k
          ∧ pDst j = m ∧ tookIn p o k s n ∧ { n with links := s.links, sentBlks := s.sentBlks, flits := s.flits } = s)
      ∧ (pktAt s p 0x22 k → x.rank ≠ 0 → pRank k = parentRank x.rank → x.heldAt = none → ∃ n, exec (.hold p k) s = .next n
        ∧ ctxOf n c = { x with state := if x.state = .running then .held else x.state, heldAt := some (kTime k), holdCause := some (kIdx k, kStep k) }
        ∧ (∀ d, d ≠ c → ctxOf n d = ctxOf s d) ∧ n.tiles = s.tiles ∧ n.stewards = s.stewards ∧ n.spd = s.spd)
      ∧ (pktAt s p 0x22 k → x.rank = 0 → x.root = none → x.resumeAt = none → x.holds = [] → x.heldAt = none → ∃ n, exec (.hold p k) s = .next n
        ∧ ctxOf n c = { x with state := if x.state = .running then .held else x.state, heldAt := some (kTime k), holdCause := some (kIdx k, kStep k),
                               root := some { s := kTime k, rank := pRank k, idx := kIdx k, step := kStep k, clear := none } }
        ∧ (∀ d, d ≠ c → ctxOf n d = ctxOf s d) ∧ n.tiles = s.tiles ∧ n.stewards = s.stewards ∧ n.spd = s.spd)
      ∧ (∀ r, pktAt s p 0x24 k → x.rank = 0 → x.root = some r → r.rank = pRank k → r.idx = kIdx k → r.step = kStep k → r.clear = none →
        ∃ n, exec (.clear p k) s = .next n ∧ ctxDid c { x with root := some { r with clear := some (kTime k) } } s n ∧ n.regs = s.regs ∧ tookIn p p k s n)
      ∧ (∀ st tres, pktAt s p 0x23 k → aborted s c = false → st = pOp k 351 288 → tres = pOp k 415 352 →
        (now s ≤ tres → ∃ n, exec (.resume p k) s = .next n ∧ ctxDid c { x with resumeAt := some (st, tres) } s n)
        ∧ (tres < now s → ∃ n, exec (.resume p k) s = .next n ∧ recorded s n 7 2 0x20 4 ∧ { n with links := s.links, sentBlks := s.sentBlks, flits := s.flits, regs := s.regs, faults := s.faults } = s)))
  ∧ (∀ (s : State) (c : Nat) (x : Ctx), live s = true → c < 16 → x = ctxOf s c →
      (∀ r k tres, x.root = some r → x.resumeAt = none → r.clear = some k → aborted s c = false → tres = max r.s k + allowance s x.members →
        r.s + allowance s x.members / 2 < 2 ^ 64 → ∃ n, exec (.holdDecision c) s = .next n ∧ (ctxOf n c).resumeAt = some (r.s, tres)
          ∧ (ctxOf n c).state = x.state ∧ now n = max (now s) (r.s + allowance s x.members / 2) ∧ (∀ d, d ≠ c → ctxOf n d = ctxOf s d)
          ∧ n.tiles = s.tiles ∧ n.stewards = s.stewards ∧ n.spd = s.spd)
      ∧ (∀ a tres, x.resumeAt = some (a, tres) → aborted s c = false → tres < 2 ^ 64 → ∃ n, exec (.jobResume c) s = .next n
        ∧ (ctxOf n c).holds = x.holds ++ [(a, tres - a)] ∧ (ctxOf n c).resumeAt = none ∧ (ctxOf n c).heldAt = none ∧ (ctxOf n c).root = none
        ∧ now n = max (now s) tres ∧ (x.state = .held → (ctxOf n c).state = .running ∨ (ctxOf n c).state = .done) ∧ ∀ d, d ≠ c → ctxOf n d = ctxOf s d)
      ∧ (∀ a, x.heldAt = some a → x.rank = 0 → x.state = .held → a + regRaw s (aGlob 0x100018) < 2 ^ 64 → ∃ n, exec (.holdWatchdog c) s = .next n
        ∧ now n = max (now s) (a + regRaw s (aGlob 0x100018)) ∧ recorded s n 6 5 0x20 4 ∧ (∀ b, b ≠ aGlob 0x200000 → regRaw n b = regRaw s b)
        ∧ { n with regs := s.regs, faults := s.faults } = s))

/-- R364, R486 to R489, R492: a flood not seen before aborts every context that it meets, whose RUNNING ones become HELD, and goes on by every other port; one seen before does
nothing. TD_NOTICE aborts the context and is answered by TD_ACK; the last TD_ACK that a teardown waits for frees the context. -/
def Obligations.JobAborts : Prop :=
  (∀ (s : State) (p dev : Nat) (k : Packet), s.pins.pwrEn = true → p < 16 → fabricPort s p = true → pOpc k = 0x30 → packetBad k = false →
    (linkOf s p).inbox.contains k = true → mayTake s p k = true → dev = pOp k 370 359 →
    (s.floods.contains (dev, pOp k 407 392) = false → ∃ n, exec (.abort p k) s = .next n ∧ n.floods = seePair s.floods (dev, pOp k 407 392)
      ∧ (∀ c, c < 16 → abortMeets s dev (pOp k 374 371) (pOp k 390 375) (decide (pOp k 391 391 = 1)) c = true → aborted n c = true
          ∧ ctxOf n c = { ctxOf s c with state := if (ctxOf s c).state = .running then .held else (ctxOf s c).state } ∧ recorded s n 7 4 0x20 4)
      ∧ (∀ c, c < 16 → abortMeets s dev (pOp k 374 371) (pOp k 390 375) (decide (pOp k 391 391 = 1)) c = false →
          aborted n c = aborted s c ∧ ctxOf n c = ctxOf s c)
      ∧ (∀ q ∈ floodPorts s, q ≠ p → queuedAt q k s n) ∧ (∀ q, q ∉ floodPorts s → q ≠ p → linkOf n q = linkOf s q)
      ∧ n.tiles = s.tiles ∧ n.stewards = s.stewards ∧ n.spd = s.spd)
    ∧ (s.floods.contains (dev, pOp k 407 392) = true → ∃ n, exec (.abort p k) s = .next n ∧ { n with links := s.links, sentBlks := s.sentBlks, flits := s.flits } = s ∧ tookIn p p k s n))
  ∧ (∀ (s : State) (p c o : Nat) (k : Packet) (x : Ctx), pktAt s p 0x28 k → c = pCtx k → x = ctxOf s c →
      (pOp k 259 256 = 8 → pktCurrent s k true = true → pktMember s k = true → x.state ≠ .teardown → wayTo s (pSrc k) o →
        ∃ n j, exec (.tdNotice p k) s = .next n ∧ aborted n c = true ∧ ctxOf n c = { x with state := if x.state = .running then .held else x.state }
          ∧ recorded s n 7 5 0x20 4 ∧ queuedAt o j s n ∧ pOpc j = 0x28 ∧ pOp j 259 256 = 9 ∧ pOp j 271 260 = pOp k 271 260 ∧ kStep j = kStep k
          ∧ pTag j = pTag k ∧ pDst j = pSrc k ∧ tookIn p o k s n ∧ n.tiles = s.tiles ∧ n.stewards = s.stewards)
      ∧ (∀ l e, pOp k 259 256 = 9 → pktCurrent s k true = true → tget x.jobMap (pSrc k) = some e → x.state = .teardown → pOp k 271 260 = x.rank →
        kStep k = stepOf s c % 65536 → x.td = .notice l →
        (sremove e.rank l ≠ [] → ∃ n, exec (.tdAck p k) s = .next n ∧ ctxDid c { x with td := .notice (sremove e.rank l) } s n ∧ tookIn p p k s n)
        ∧ (sremove e.rank l = [] → s.ctxQueue = [] → ∃ n, exec (.tdAck p k) s = .next n ∧ (ctxOf n c).state = .free ∧ (ctxOf n c).gen = x.gen + 1 ∧ aborted n c = false
          ∧ n.tiles = s.tiles ∧ n.stewards = s.stewards ∧ n.spd = s.spd ∧ ∀ d, d ≠ c → ctxOf n d = ctxOf s d)))

/-! ### Fair copies between modules and the pool (R444, R449, R451 to R456, R463, R465, R468, R469) -/

/-- R444, R449, R451, R453, R456, R463, R465: digests from the members named are kept for the vote. A mirrored block or page of an entry is written and answered; one from
another member is refused. A block or page asked for is sent with the step it stands for, and what comes is put into its place. -/
def Obligations.FairCopyPackets : Prop :=
  (∀ (s : State) (p b : Nat) (k : Packet) (pl : Plan), pktAt s p 0x28 k → pktChecked s k → runningBook s (pCtx k) = some b → (bookOf s b).plan = some pl →
    (pOp k 259 256 = 3 → pRank k = pl.pred → ∃ n, exec (.digest p k) s = .next n ∧ tookIn p p k s n
      ∧ bookDid b { bookOf s b with predDig := some (kStep k, BitVec.ofNat 128 (pOp k 511 384)) } s n)
    ∧ (pOp k 259 256 = 4 → pRank k = pl.partner → ∃ n, exec (.audit p k) s = .next n ∧ tookIn p p k s n
      ∧ bookDid b { bookOf s b with peerAud := some (kStep k, BitVec.ofNat 128 (pOp k 511 384)) } s n)
    ∧ (∀ i, (i = Instr.digest p k ∧ pOp k 259 256 = 3 ∧ pRank k ≠ pl.pred) ∨ (i = .audit p k ∧ pOp k 259 256 = 4 ∧ pRank k ≠ pl.partner) →
      ∃ n, exec i s = .next n ∧ tookIn p p k s n ∧ bookDid b (bookOf s b) s n))
  ∧ (∀ (s : State) (p b o q a : Nat) (k : Packet) (pl : Plan), wayTo s (pSrc k) o →
    (∀ r, mirrorAt s p 0 k b pl → q = mSlot k → bookRange s b (2 + q) = some r → r.1 + 4096 * (mIndex k + 1) ≤ r.2 → pNpay k = 64 →
      ∃ n j, exec (.slotBlock p k) s = .next n ∧ j ∈ (linkOf n o).queue ∧ answers s k 2 0 j
        ∧ tget (if q = 0 then (bookOf n b).held0 else (bookOf n b).held1) (mIndex k) = some (mStep k)
        ∧ regRaw n (aFce 0x108) = satAdd 64 (regRaw s (aFce 0x108)) 1 ∧ n.tiles = s.tiles ∧ n.spd = s.spd
        ∧ (mirrorQuiet s (pCtx k) b pl → hbmDid (r.1 + 4096 * mIndex k) k.pay s n))
    ∧ (∀ r, mirrorAt s p 1 k b pl → bookRange s b 1 = some r → a = entryAt s b 1 pl (mStep k) + 4096 * mIndex k → a + 4096 ≤ r.2 →
      4096 * (mIndex k + 1) ≤ entrySize (bookNt s b) pl → pNpay k = 64 →
      ∃ n j, exec (.bookData p k) s = .next n ∧ j ∈ (linkOf n o).queue ∧ answers s k 2 0 j ∧ n.tiles = s.tiles ∧ n.spd = s.spd
        ∧ (mirrorQuiet s (pCtx k) b pl → hbmDid a k.pay s n))
    ∧ (∀ i, (i = Instr.slotBlock p k ∧ mSub k = 0) ∨ (i = .bookData p k ∧ mSub k = 1) ∨ (i = .fetchReq p k ∧ mSub k = 2) → pktAt s p 0x40 k → pktChecked s k →
      mirrorBook s k = none → ∃ n j, exec i s = .next n ∧ queuedAt o j s n ∧ answers s k 2 2 j ∧ tookIn p o k s n ∧ { n with links := s.links, sentBlks := s.sentBlks, flits := s.flits } = s)
    ∧ (mirrorAt s p 2 k b pl → mIndex k = 2 ^ 31 → entryPresent s b 1 (mSlot k) = false → ∃ n j, exec (.fetchReq p k) s = .next n ∧ queuedAt o j s n
        ∧ pOpc j = 0x40 ∧ mSub j = 3 ∧ pTag j = pTag k ∧ mStep j = regRaw s (aFbk b 0x60) ∧ j.pay = List.replicate 4096 0#8 ∧ tookIn p o k s n)
    ∧ (∀ i, mirrorAt s p 2 k b pl → bit (mIndex k) 31 = true → i = mIndex k - 2 ^ 31 → (i ≠ 0 ∨ entryPresent s b 1 (mSlot k) = true) → 4096 * (i + 1) ≤ entrySize (bookNt s b) pl →
      ∃ n j, exec (.fetchReq p k) s = .next n ∧ queuedAt o j s n ∧ pOpc j = 0x40 ∧ mSub j = 3 ∧ mIndex j = mIndex k ∧ pTag j = pTag k
        ∧ mStep j = regRaw s (aFbk b 0x60) ∧ j.pay = hbmRead s (entryAt s b 1 pl (mSlot k) + 4096 * i) 4096 ∧ tookIn p o k s n ∧ { n with stackCtl := s.stackCtl, links := s.links, sentBlks := s.sentBlks, flits := s.flits } = s)
    ∧ (∀ st, mirrorAt s p 2 k b pl → bit (mIndex k) 31 = false → tget (if mSlot k = 0 then (bookOf s b).held0 else (bookOf s b).held1) (mIndex k) = some st →
      ∃ n j, exec (.fetchReq p k) s = .next n ∧ queuedAt o j s n ∧ pOpc j = 0x40 ∧ mSub j = 3 ∧ mIndex j = mIndex k ∧ pTag j = pTag k
        ∧ mStep j = st % 2 ^ 64 ∧ j.pay = hbmRead s (bookArea s b (2 + mSlot k) + 4096 * mIndex k) 4096 ∧ tookIn p o k s n ∧ { n with stackCtl := s.stackCtl, links := s.links, sentBlks := s.sentBlks, flits := s.flits } = s))
  ∧ (∀ (s : State) (p b : Nat) (k : Packet) (pl : Plan) (op : MirrorOp), pktAt s p 0x40 k → mSub k = 3 → (answerOk s k 0 || haltedCmd s (pTag k)) = true → pNpay k = 64 → flightOf s (pTag k) = some (b, op) →
      (bookOf s b).plan = some pl → ∃ n, exec (.fetchData p k) s = .next n ∧ regRaw n (aFce 0x108) = satAdd 64 (regRaw s (aFce 0x108)) 1
        ∧ (∀ g, op = .fetch g → hbmDid (exAddr pl g) k.pay s n
            ∧ bookOf n b = { bookOf s b with flight := (bookOf s b).flight.filter (fun f => f.1 ≠ pTag k) })
        ∧ (∀ q i, op = .adoptPage q i → hbmDid (entryAt s b 0 pl q + 4096 * i) k.pay s n ∧ (i = 0 → regRaw n (aFbk b 0x60) = mStep k))
        ∧ (∀ g, op = .adoptBlock g → hbmDid (exAddr pl g) k.pay s n) ∧ n.tiles = s.tiles ∧ n.spd = s.spd)
  ∧ (∀ (s : State) (p q g b : Nat) (k : Packet), pktAt s p 2 k → pVc k = 6 → ¬ (portState s p = 2 ∧ roleOf s p = 8) → flightOf s (pTag k) = some (b, .slot q g) →
      pOp k 259 256 ≠ 0 → (answerOk s k (pOp k 259 256) || haltedCmd s (pTag k)) = true → ∃ n, exec (.wack p k) s = .next n ∧ tookIn p p k s n
        ∧ bookDid b { bookOf s b with flight := (bookOf s b).flight.filter (fun f => f.1 ≠ pTag k), unprot := true, refused := true } s n)

/-- R468, R469: a module in pool mode files the page and answers, and reports the record when it is complete; it sends a page of a complete record and refuses one of another. A
page that CKPT_RESTORE asked for comes to its place if the machine is as recorded; POOL_DONE ends the record of its step. -/
def Obligations.PoolRecords : Prop :=
  (∀ (s : State) (p : Nat) (k : Packet), poolAt s p 4 k → ∃ n j, exec (.poolWrite p k) s = .next n
      ∧ n.pool = s.pool.filter (fun h => !samePage k h) ++ [{ job := mJob k, rank := mRank k, step := mStep k, page := mIndex k, data := k.pay }]
      ∧ pOpc j = 2 ∧ pOp j 259 256 = 0 ∧ pTag j = pTag k ∧ pDst j = pSrc k
      ∧ ((recordComplete n k = false ∨ recordComplete s k = true) → queuedAt p j s n)
      ∧ (recordComplete n k = true → recordComplete s k = false → ∃ d, (linkOf n p).queue = (linkOf s p).queue ++ [j, d] ∧ pOpc d = 0x40 ∧ mSub d = 7
          ∧ mStep d = mStep k ∧ mJob d = mJob k ∧ mRank d = mRank k)
      ∧ tookIn p p k s n ∧ { n with links := s.links, sentBlks := s.sentBlks, flits := s.flits, pool := s.pool } = s)
  ∧ (∀ (s : State) (p : Nat) (k : Packet) (g : PoolPage), poolAt s p 5 k →
      (s.pool.find? (samePage k) = some g → g.data.length ≤ 4096 → recordComplete s k = true → ∃ n j, exec (.poolRead p k) s = .next n ∧ queuedAt p j s n ∧ pOpc j = 0x40 ∧ mSub j = 6
        ∧ mIndex j = mIndex k ∧ mStep j = mStep k ∧ pTag j = pTag k ∧ j.pay = padFlits g.data ∧ tookIn p p k s n ∧ { n with links := s.links, sentBlks := s.sentBlks, flits := s.flits } = s)
      ∧ (s.pool.find? (samePage k) = none ∨ recordComplete s k = false → ∃ n j, exec (.poolRead p k) s = .next n ∧ queuedAt p j s n ∧ pOpc j = 2
        ∧ pOp j 259 256 = 1 ∧ pTag j = pTag k ∧ tookIn p p k s n ∧ { n with links := s.links, sentBlks := s.sentBlks, flits := s.flits } = s))
  ∧ (∀ (s : State) (p b page v : Nat) (k : Packet) (pl : Plan) (cmd : BookCmd) (x : Ctx), poolAt s p 6 k → flightOf s (pTag k) = some (b, .restore page) →
      (bookOf s b).plan = some pl → (bookOf s b).cmd = some cmd → x = ctxOf s (bookCtx s b) → v = ofBytes ((fitBytes 4096 k.pay).take 96) →
      (0 < page → page ≤ exBlocks pl → ∃ n, exec (.poolData p k) s = .next n ∧ hbmDid (exAddr pl (page - 1)) (fitBytes 4096 k.pay) s n
        ∧ n.tiles = s.tiles ∧ n.spd = s.spd)
      ∧ (page = 0 → fld v 591 576 = x.members → fld v 607 592 = x.mbInFlight → fld v 767 640 = ctxTiles s (bookCtx s b) →
        ∃ n, exec (.poolData p k) s = .next n ∧ hbmDid (entryAt s b 0 pl cmd.arg) ((fitBytes 4096 k.pay).take 64) s n ∧ n.tiles = s.tiles ∧ n.spd = s.spd)
      ∧ (page = 0 → x.members < 65536 → x.mbInFlight < 65536 → fld v 767 640 ≠ ctxTiles s (bookCtx s b) →
        ∃ n, exec (.poolData p k) s = .next n ∧ (bookOf n b).cmd = some { cmd with result := 7 } ∧ n.hbm = s.hbm ∧ n.tiles = s.tiles ∧ n.spd = s.spd))
  ∧ (∀ (s : State) (p : Nat) (k : Packet), poolAt s p 7 k → ∃ n, exec (.poolDone p k) s = .next n ∧ tookIn p p k s n
      ∧ (∀ b pl, b < 16 → (bookOf s b).plan = some pl → pl.jobTag = mJob k → bookRank s b = mRank k →
          bookOf n b = { bookOf s b with ckpt := (bookOf s b).ckpt.filter (· ≠ mStep k) })
      ∧ (∀ b, ((bookOf s b).plan = none ∨ ∃ pl, (bookOf s b).plan = some pl ∧ (pl.jobTag ≠ mJob k ∨ bookRank s b ≠ mRank k)) →
          bookOf n b = bookOf s b)
      ∧ { n with links := s.links, sentBlks := s.sentBlks, flits := s.flits, books := s.books } = s)

/-! ### Meridian time and the management channel (R386 to R391, R526, R527) -/

/-- R386 to R391: MSYNC leaves for the parent once the interval is over; one that arrives is answered with its times, by this module's clock (an
operand before that clock is taken as its time: log entry 120). An answer gives delay and offset: a small offset counts toward LOCKED, one of more than 1 µs
loses the lock; an unlocked module with no active context is corrected at once, any other by its rate, which leaves the time as it is. COUNTER_RESUME lets a stopped
counter run; without an answer HOLDOVER is set. R526, R527: the root is the least device id learned; claims go out by every UP port and are remembered. FW_DATA reaches the
core that SVC names. -/
def Obligations.MeridianTime : Prop :=
  (∀ (s : State) (t1 p v : Nat), live s = true → p = parentPort s →
    v = max t1 (max (16 * now s) (match s.mer.lastEx with | some e => 16 * (e + 2 ^ fld (regRaw s (aMer 0x20)) 4 0) | none => 0)) →
    (merRoot s = false → portState s p = 2 → ∃ n j, exec (.meridianExchange t1) s = .next n
      ∧ n.mer = { s.mer with t1 := some (v % 2 ^ 64), lastEx := some (now n) } ∧ now n = v / 16 % 2 ^ 64
      ∧ queuedAt p j s n ∧ pOpc j = 0x38 ∧ pVc j = 4 ∧ pOp j 319 256 = v % 2 ^ 64 ∧ pDst j = fld (regRaw s (aBlw p 8)) 11 0
      ∧ (∀ q, q ≠ p → linkOf n q = linkOf s q) ∧ (∀ a, a ≠ aGlob 0x200000 → regRaw n a = regRaw s a)
      ∧ { n with links := s.links, mer := s.mer, regs := s.regs } = s)
    ∧ (merRoot s = true ∨ portState s p ≠ 2 → exec (.meridianExchange t1) s = .next s))
  ∧ (∀ (s : State) (p t2 t3 a2 a3 : Nat) (k : Packet), s.pins.pwrEn = true → p < 16 → fabricPort s p = true → pOpc k = 0x38 → packetBad k = false →
      (linkOf s p).inbox.contains k = true → mayTake s p k = true → pDst k = ownDev s → a2 = max t2 (16 * now s) → a3 = max t3 a2 → a3 < 2 ^ 64 →
      ∃ n j, exec (.msync p k t2 t3) s = .next n ∧ queuedAt p j s n ∧ pOpc j = 0x39 ∧ pVc j = 4 ∧ pDst j = pSrc k
        ∧ pOp j 319 256 = pOp k 319 256 ∧ pOp j 383 320 = a2 ∧ pOp j 447 384 = a3 ∧ now n = a3 / 16 ∧ tookIn p p k s n
        ∧ (∀ a, a ≠ aGlob 0x200000 → regRaw n a = regRaw s a) ∧ { n with links := s.links, sentBlks := s.sentBlks, flits := s.flits, regs := s.regs } = s)
  ∧ (∀ (s : State) (p t1 t2 t3 t4 : Nat) (k : Packet) (off : Int), pktAt s p 0x39 k → p = parentPort s → t1 = pOp k 319 256 → s.mer.t1 = some t1 →
      t2 = pOp k 383 320 → t3 = pOp k 447 384 → 16 * now s ≤ t4 → t4 < 2 ^ 64 → off = exchangeOffset t1 t2 t3 t4 → ∃ n, exec (.mresp p k t4) s = .next n
        ∧ regRaw n (aMer 0x10) = wrap 32 off ∧ regRaw n (aBlw p 0x10) = wrap 24 ((((t4 : Int) - t1) - ((t3 : Int) - t2)) / 2) ∧ n.mer.t1 = none
        ∧ bit (regRaw n (aMer 8)) 2 = false
        ∧ n.mer.good = (if off.natAbs ≤ fld (regRaw s (aMer 0x20)) 15 8 * 16 then min 8 ((if 16000 < off.natAbs ∧ merLocked s = true then 0 else s.mer.good) + 1) else 0)
        ∧ (off.natAbs ≤ fld (regRaw s (aMer 0x20)) 15 8 * 16 → off.natAbs ≤ 16000 → 7 ≤ s.mer.good → merLocked n = true)
        ∧ (16000 < off.natAbs → n.mer.good = 0 → merLocked n = false)
        ∧ (16000 < off.natAbs → merLocked s = true → recorded s n 7 3 0x21 4 ∧ regRaw n (aMer 0x28) = satAdd 64 (regRaw s (aMer 0x28)) 1)
        ∧ (n.mer.good < 8 → merLocked s = false → merLocked n = false)
        ∧ (merLocked s = false → s.mer.good < 7 → anyActive s = false → 0 < off → t4 / 16 + (off / 16).toNat < 2 ^ 64 → now n = t4 / 16 + (off / 16).toNat)
        ∧ (merLocked s = false → s.mer.good < 7 → anyActive s = false → off < 0 → now n = t4 / 16 ∧ n.mer.stopTo = some (t4 / 16))
        ∧ (anyActive s = true → now n = t4 / 16 ∧ n.mer.lastAns = t4 / 16 ∧ n.mer.stopTo = s.mer.stopTo) ∧ n.mer.least = s.mer.least ∧ merDid s n ∧ tookIn p p k s n)
  ∧ (∀ (s : State), s.pins.pwrEn = true → exec .counterResume s = .next { s with mer := { s.mer with stopTo := none } })
  ∧ (∀ (s : State), live s = true → merRoot s = false → ∃ n, exec .parentTimeout s = .next n ∧ bit (regRaw n (aMer 8)) 2 = true ∧ merLocked n = false
      ∧ (merLocked s = true → recorded s n 7 3 0x21 4 ∧ regRaw n (aMer 0x28) = satAdd 64 (regRaw s (aMer 0x28)) 1)
      ∧ n.mer.t1 = none ∧ regRaw n (aMer 0x18) = regRaw s (aMer 0x18) ∧ now n = max (now s) (s.mer.lastAns + 100000000) % 2 ^ 64 ∧ n.links = s.links ∧ merDid s n)
  ∧ (∀ (s : State), live s = true → coreRuns s 1 = true → leastLearned s < 4096 → ∃ n, exec .rootClaimSend s = .next n
      ∧ fld (regRaw n (aMer 8)) 27 16 = leastLearned s ∧ (merRoot n = true ↔ leastLearned s = ownDev s)
      ∧ (∀ p ∈ floodPorts s, ∃ j, queuedAt p j s n ∧ pOpc j = 0x48 ∧ pVc j = 7 ∧ pOp j 257 256 = 1 ∧ pOp j 271 264 = 1 ∧ pOp j 287 272 = leastLearned s)
      ∧ (∀ p, p ∉ floodPorts s → linkOf n p = linkOf s p) ∧ (∀ a, a ≠ aMer 8 → regRaw n a = regRaw s a) ∧ n.mer = s.mer ∧ merDid s n)
  ∧ (∀ (s : State) (p r : Nat) (k : Packet), mgmtAt s p 1 k → coreRuns s 1 = true → r = leastLearned (modMer (fun m => { m with
        least := tput m.least (pOp k 287 272 % 4096) (now s) }) s) → r < 4096 → ∃ n, exec (.rootClaim p k) s = .next n
      ∧ n.mer = { s.mer with least := tput s.mer.least (pOp k 287 272 % 4096) (now s) }
      ∧ fld (regRaw n (aMer 8)) 27 16 = r ∧ (merRoot n = true ↔ r = ownDev s) ∧ r ≤ pOp k 287 272 % 4096
      ∧ (∀ a, a ≠ aMer 8 → regRaw n a = regRaw s a) ∧ merDid s n ∧ tookIn p p k s n)
  ∧ (∀ (s : State) (p : Nat) (k : Packet), mgmtAt s p 2 k → ∃ n, exec (.fwData p k) s = .next n ∧ tookIn p p k s n
      ∧ { n with links := s.links, sentBlks := s.sentBlks, flits := s.flits, compass := s.compass } = s ∧ n.compass = { s.compass with mgmtIn := s.compass.mgmtIn ++ [(pOp k 257 256, k)] })

/-! ### Contexts (R50 to R58, R62, R63, R73, R75 to R78, R486, R492, Table 15-6) -/

/-- R53, R63, R77: LOAD makes a context LOADING, START arms it when its time is far enough ahead and gives START_LATE else, REMAP reads the job map of
a HELD one, TEARDOWN stops its units; each gives BAD_STATE in any other state. A command waits while a LOAD or a TEARDOWN is in progress or others
wait, but for the TEARDOWN of the context that loads (which of them hold the block to their end: log entry 111). -/
def Obligations.ContextCommands : Prop :=
  (∀ (s : State) (src : Src) (c : Nat) (x : Ctx), x = ctxOf s c → ctxBusy s = false → s.ctxQueue = [] →
    (cmdFrom s src c 2 → (x.state = .created ∨ x.state = .done) → ∃ n, exec (.load src c) s = .next n
      ∧ ctxOf n c = { x with state := .loading, loadWaiter := srcWaiter s src } ∧ ctxOthers c s n ∧ n.spd = s.spd ∧ n.tiles = s.tiles)
    ∧ (cmdFrom s src c 3 → x.state = .ready → now s + 10000 ≤ regRaw s (aCtx c 0x80) → ∃ n, exec (.start src c) s = .next n
      ∧ ctxOf n c = { x with armed := true, lastResult := 0 } ∧ ctxOthers c s n ∧ n.spd = s.spd ∧ n.tiles = s.tiles)
    ∧ (cmdFrom s src c 3 → x.state = .ready → regRaw s (aCtx c 0x80) < now s + 10000 → ∃ n, exec (.start src c) s = .next n
      ∧ ctxOf n c = { x with lastResult := 7 } ∧ ctxOthers c s n ∧ n.spd = s.spd ∧ n.tiles = s.tiles)
    ∧ (∀ m r, cmdFrom s src c 5 → noBook s → x.state = .held → readJobMap s c x.members = .ok (m, r) → ∃ n, exec (.remap src c) s = .next n
      ∧ ctxOf n c = { x with jobMap := m, rank := r, lastResult := 0 } ∧ ctxOthers c s n ∧ n.spd = s.spd ∧ n.tiles = s.tiles)
    ∧ (∀ e, cmdFrom s src c 5 → x.state = .held → readJobMap s c x.members = .error e → ∃ n, exec (.remap src c) s = .next n
      ∧ ctxOf n c = { x with lastResult := 8 } ∧ ctxOthers c s n ∧ n.spd = s.spd ∧ n.tiles = s.tiles)
    ∧ (∀ i cmd, (i = Instr.load src c ∧ cmd = 2 ∧ x.state ≠ .created ∧ x.state ≠ .done) ∨ (i = .start src c ∧ cmd = 3 ∧ x.state ≠ .ready)
        ∨ (i = .remap src c ∧ cmd = 5 ∧ x.state ≠ .held) ∨ (i = .teardown src c ∧ cmd = 4 ∧ (x.state = .free ∨ x.state = .teardown)) → cmdFrom s src c cmd →
      ∃ n, exec i s = .next n ∧ ctxOf n c = { x with lastResult := 1 } ∧ ctxOthers c s n ∧ n.spd = s.spd ∧ n.tiles = s.tiles))
  ∧ (∀ (s : State) (src : Src) (c : Nat) (x : Ctx), x = ctxOf s c → cmdFrom s src c 4 → noBook s → x.state ≠ .free → x.state ≠ .teardown →
      ((ctxBusy s = false ∧ s.ctxQueue = []) ∨ x.state = .loading) → ∃ n, exec (.teardown src c) s = .next n ∧ (ctxOf n c).state = .teardown
        ∧ (ctxOf n c).td = .drain (decide ((x.state = .running ∨ x.state = .held) ∧ 1 < x.members)) ∧ (ctxOf n c).gen = x.gen
        ∧ (ctxOf n c).tdWaiter = x.tdWaiter ++ (srcWaiter s src).toList ∧ (x.state = .loading → (ctxOf n c).lastResult = 1)
        ∧ (∀ t ∈ tilesOf s c, stoppedTile s n t) ∧ (x.state ≠ .loading → ∀ t k, t ∉ tilesOf s c → k < 2 → stOf n t k = stOf s t k)
        ∧ (∀ e ∈ n.entries, e.ctx ≠ c) ∧ ctxOthers c s n)
  ∧ (∀ (s : State) (who : Who) (c cmd : Nat) (i : Instr), (i = .load (.reg who) c ∧ cmd = 2) ∨ (i = .start (.reg who) c ∧ cmd = 3)
      ∨ (i = .teardown (.reg who) c ∧ cmd = 4 ∧ (ctxOf s c).state ≠ .loading) ∨ (i = .remap (.reg who) c ∧ cmd = 5) → cmdFrom s (.reg who) c cmd →
      (ctxBusy s = true ∨ s.ctxQueue ≠ []) → ∃ n, exec i s = .next n ∧ n.ctxQueue = s.ctxQueue ++ [{ src := .reg who, ctx := c, cmd := cmd }]
        ∧ { n with ctxQueue := s.ctxQueue } = s)

/-- R50, R55, R58, R73, R75, R76, R78, R486, R492: CREATE of a FREE context whose checks pass makes it CREATED with its tiles' scratchpads zero, else
gives the result of the check that fails (BAD_STATE before the others: log entry 68); it waits while the survey walk is in a step on one of the tiles (R298). A LOAD whose checks pass places its sections and makes the context READY, one that fails gives its result and leaves it CREATED. At its
start time an armed, unaborted context runs: its units are reset and its stewards begin at their code with x10, x11, x12 set. A drain that ends, or whose time is
over, frees the context or sends the notices; without answers in time it is freed with a record and an ABORT of KIND 3. -/
def Obligations.ContextLife : Prop :=
  (∀ (s : State) (who : Who) (c f r : Nat) (nd : Bool), live s = true → c < 16 → f < 16 → mayWrite who (aCtx c 4) 4 s → ctxBusy s = false → s.ctxQueue = [] → r = createCheck s c f →
    (r = 0 → walkIn s (ctxTiles s c) = true → ∃ n, exec (.create who c f nd) s = .next n
      ∧ n.ctxQueue = [{ src := .reg who, ctx := c, cmd := 1 + nd.toNat <<< 8 + f <<< 12 }] ∧ { n with ctxQueue := s.ctxQueue } = s)
    ∧ (r = 0 → walkIn s (ctxTiles s c) = false → ∃ n, exec (.create who c f nd) s = .next n
      ∧ ctxOf n c = { ({} : Ctx) with gen := (ctxOf s c).gen, func := f, nondet := nd, state := .created } ∧ ctxOthers c s n
      ∧ (∀ t o, t ∈ tilesOf s c → o < spdSize → memByte n.spd (t * spdSize + o) = unwritten) ∧ (∀ t ∈ tilesOf s c, (tileOf n t).msgs = [])
      ∧ (∀ t o, t ∉ tilesOf s c → o < spdSize → memByte n.spd (t * spdSize + o) = memByte s.spd (t * spdSize + o)) ∧ n.stewards = s.stewards)
    ∧ (r ≠ 0 → ∃ n, exec (.create who c f nd) s = .next n ∧ ctxOf n c = { ctxOf s c with lastResult := r } ∧ ctxOthers c s n
      ∧ { n with ctxs := s.ctxs } = s))
  ∧ (∀ (s : State) (c : Nat) (x : Ctx), live s = true → c < 16 → x = ctxOf s c →
    (∀ l, x.state = .loading → s.ctxQueue = [] → loadChecks s c = .ok l → ∃ n, exec (.loadComplete c) s = .next n ∧ (ctxOf n c).state = .ready
      ∧ (ctxOf n c).lastResult = 0 ∧ (ctxOf n c).loadWaiter = none ∧ (ctxOf n c).members = l.members ∧ (ctxOf n c).rank = l.rank ∧ (ctxOf n c).wps = l.wps
      ∧ (ctxOf n c).jobMap = l.jobMap ∧ (ctxOf n c).starts = codeStarts l.sections ∧ (ctxOf n c).gen = x.gen
      ∧ (∀ y ∈ l.sections, y.type ≠ 3 → y.type ≠ 8 → y.type ≠ 9 → y.type ≠ 10 →
          spdRead n y.tile (y.addr - spdAddr y.tile 0) (sectionBytes l.img y).length = sectionBytes l.img y) ∧ ctxOthers c s n)
    ∧ (∀ e, x.state = .loading → s.ctxQueue = [] → loadChecks s c = .error e → ∃ n, exec (.loadComplete c) s = .next n ∧ (ctxOf n c).state = .created
      ∧ (ctxOf n c).lastResult = e.code ∧ (ctxOf n c).loadWaiter = none ∧ (ctxOf n c).gen = x.gen ∧ ctxOthers c s n)
    ∧ (x.state = .ready → x.armed = true → aborted s c = false → noBook s → ∃ n, exec (.contextStart c) s = .next n
      ∧ ctxOf n c = { x with state := .running, armed := false, next := if x.wps = [] then .none else .at 0 } ∧ ctxOthers c s n
      ∧ now n = max (now s) (regRaw s (aCtx c 0x80)) ∧ n.spd = s.spd
      ∧ (∀ t k pc, t ∈ tilesOf s c → k < 2 → tget x.starts (2 * t + k) = some pc → (stOf n t k).run = .running ∧ (stOf n t k).pc = BitVec.ofNat 64 pc
          ∧ gprOf (stOf n t k) 10 = t ∧ gprOf (stOf n t k) 11 = x.rank % 2 ^ 64 ∧ gprOf (stOf n t k) 12 = stepOf s c ∧ (stOf n t k).mode = .machine)
      ∧ (∀ t k, t ∈ tilesOf s c → k < 2 → tget x.starts (2 * t + k) = none → (stOf n t k).run = .reset)
      ∧ (∀ t ∈ tilesOf s c, (tileOf n t).ma0 = {} ∧ (tileOf n t).ma1 = {} ∧ cpyOf n t = {} ∧ vxeOf n t = { ({} : Vxe) with mc := (vxeOf s t).mc }
          ∧ (tileOf n t).vbufs = [] ∧ (tileOf n t).msgs = (tileOf s t).msgs)
      ∧ (∀ t, t ∉ tilesOf s c → tileOf n t = tileOf s t ∧ ∀ k, k < 2 → stOf n t k = stOf s t k))
    ∧ (x.state = .ready → (x.armed = false ∨ aborted s c = true) → exec (.contextStart c) s = .next s)
    ∧ (∀ nf, x.state = .teardown → x.td = .drain nf → drained s c = false → exec (.drainEnd c) s = .next s)
    ∧ (∀ nf, x.state = .teardown → x.td = .drain nf → s.ctxQueue = [] → drained s c = true → ∃ n, exec (.drainEnd c) s = .next n ∧ drainDone c nf s n)
    ∧ (∀ nf, x.state = .teardown → x.td = .drain nf → s.ctxQueue = [] → ∃ n, exec (.teardownTimeout c) s = .next n ∧ drainDone c nf s n)
    ∧ (∀ l, x.state = .teardown → x.td = .notice l → s.ctxQueue = [] → ∃ n, exec (.teardownTimeout c) s = .next n ∧ freed c s n ∧ recorded s n 7 6 0x20 4
      ∧ ∀ q ∈ floodPorts s, ∃ j ∈ (linkOf n q).queue, pOpc j = 0x30 ∧ pOp j 263 256 = 3 ∧ pOp j 370 359 = ownDev s ∧ pOp j 374 371 = c % 16
          ∧ pOp j 390 375 = x.gen.toNat))

/-! ### The host port (R405 to R433) -/

/-- R405 to R407, R409 to R415, R420, R425, R435: OPEN gives a session, the same one again to the same sender, or an error when none is left. A sequenced datagram in its turn is
accepted, acted on and acknowledged: CLOSE ends the session, DOORBELL moves an index within its bounds, SUBMIT appends its entries or is refused, REG_READ and REG_WRITE reach F0's
registers. An ACK retires what it covers; RTO sends again, and closes the session at the eighth; NOTIFY tells of new entries. A frame that is not for the port, or a datagram
to another UDP port, is dropped; one in error or for no function is counted, and an OPEN for a DISABLED function is refused by ERROR (DEDUCED: log entry 112). What goes out is held while
its priority is paused, and leaves when the pause ends. -/
def Obligations.HostSessions : Prop :=
  (∀ (s : State) (d : Datagram) (f : Nat) (ck : BitVec 64), dgAt s 1 d f →
    (∀ x, s.sessions.find? (fun x => x.func == f && x.ip == d.srcIp && x.port == d.port && x.v6 == d.v6) = some x →
      ∃ n o, exec (.openSession d ck) s = .next n ∧ hostOut f [o] s n ∧ hOpc o = 2 ∧ o.ip = d.srcIp ∧ o.port = d.port ∧ o.sport = ctPort s ∧ hostOnly s n)
    ∧ (s.sessions.find? (fun x => x.func == f && x.ip == d.srcIp && x.port == d.port && x.v6 == d.v6) = none →
      (fld (regRaw s (aFn f 0x34)) 21 16 ≤ (s.sessions.filter (fun x => x.func = f)).length ∨ 256 ≤ s.sessions.length → ∃ n o, exec (.openSession d ck) s = .next n
        ∧ hostOut f [o] s n ∧ hOpc o = 5 ∧ fld (ofBytes o.body) 15 0 = 0x42 ∧ fld (ofBytes o.body) 31 16 = 1 ∧ o.ip = d.srcIp ∧ o.port = d.port ∧ hostOnly s n)
      ∧ ((s.sessions.filter (fun x => x.func = f)).length < fld (regRaw s (aFn f 0x34)) 21 16 → s.sessions.length < 256 → (∀ x ∈ s.sessions, x.cookie ≠ ck) →
        ∃ n x o, exec (.openSession d ck) s = .next n ∧ n.sessions = s.sessions ++ [x] ∧ (∀ y ∈ s.sessions, y.id ≠ x.id) ∧ x.id < 65536 ∧ x.cookie = ck
          ∧ x.func = f ∧ x.ip = d.srcIp ∧ x.port = d.port ∧ x.accepted = 0 ∧ x.nextSeq = 1 ∧ x.unacked = [] ∧ hostOut f [o] s n ∧ hOpc o = 2
          ∧ fld o.hdr.toNat 95 80 = x.id ∧ fld o.hdr.toNat 255 192 = ck.toNat ∧ sessionsOnly s { n with free := s.free })))
  ∧ (∀ (s : State) (d : Datagram) (ck : BitVec 64) (f : Nat), live s = true → frameOk s d.frame = true → steer s d.v6 d.dstIp d.vlan = none →
      (((List.range 16).find? (steerMatch s d.v6 d.dstIp d.vlan) = some f → dOpc d = 1 → dBad d f = false → fnState s f = 0 → d.dport = ctPort s →
          ∃ n o, exec (.openSession d ck) s = .next n ∧ hostOut f [o] s n ∧ hOpc o = 5 ∧ fld (ofBytes o.body) 15 0 = 0x43
            ∧ regRaw n (aHost 0x100) = satAdd 64 (regRaw s (aHost 0x100)) 1 ∧ hostOnly s { n with regs := s.regs })
        ∧ ((List.range 16).find? (steerMatch s d.v6 d.dstIp d.vlan) = none → ∃ n, exec (.openSession d ck) s = .next n ∧ onlyRegs [aHost 0x100] s n
            ∧ regRaw n (aHost 0x100) = satAdd 64 (regRaw s (aHost 0x100)) 1)))
  ∧ (∀ (s : State) (d : Datagram) (i : Instr), (∃ ck, i = .openSession d ck) ∨ i = .closeSession d ∨ i = .doorbell d ∨ i = .submit d ∨ i = .regRead d ∨ i = .regWrite d ∨ i = .ack d →
      live s = true →
      (frameOk s d.frame = false → exec i s = .next s)
      ∧ (∀ f, frameOk s d.frame = true → steer s d.v6 d.dstIp d.vlan = some f → d.dport ≠ ctPort s → exec i s = .next s)
      ∧ (∀ f, frameOk s d.frame = true → steer s d.v6 d.dstIp d.vlan = some f → d.dport = ctPort s → dBad d f = true → ∃ n, exec i s = .next n
        ∧ onlyRegs [aHost 0x108] s n ∧ regRaw n (aHost 0x108) = satAdd 64 (regRaw s (aHost 0x108)) 1))
  ∧ (∀ (s s1 : State) (d : Datagram) (f : Nat) (y : Session),
    (seqAt s 3 d f y s1 → ∃ n o, exec (.closeSession d) s = .next n ∧ n.sessions = s1.sessions.filter (fun x => x.id ≠ y.id) ∧ hostOut y.func [o] s1 n
      ∧ hOpc o = 4 ∧ sessionsOnly s1 n)
    ∧ (∀ i v k q, seqAt s 0x10 d f y s1 → d.body.length = 4 → i = fld (ofBytes d.body) 11 0 → v = fld (ofBytes d.body) 31 16 → k = qKey f i → qOf s1 k = some q →
      q.error = false → v < 2 * qDepth q →
      (q.kind = .submission → qCount q ≤ (v + 2 * qDepth q - q.ci) % (2 * qDepth q) → (v + 2 * qDepth q - q.ci) % (2 * qDepth q) ≤ qDepth q → q.host = false →
        ∃ n o, exec (.doorbell d) s = .next n ∧ n.queues = tput s1.queues k { q with pi := v } ∧ hostOut y.func [o] s1 n ∧ hOpc o = 4
          ∧ hostOnly s1 { n with queues := s1.queues })
      ∧ (∀ z, q.kind = .submission → qCount q ≤ (v + 2 * qDepth q - q.ci) % (2 * qDepth q) → (v + 2 * qDepth q - q.ci) % (2 * qDepth q) ≤ qDepth q → q.host = true →
        qpOf s1 q.qpn = some z → ∃ n w, exec (.doorbell d) s = .next n ∧ qOf n k = some { q with pi := v } ∧ qpOf n q.qpn = some w
          ∧ (w.unacked ++ w.waiting).map (·.idx) = (z.unacked ++ z.waiting).map (·.idx)
              ++ (List.range ((v + 2 * qDepth q - q.ci) % (2 * qDepth q) - qCount q)).map (qAdd q q.pi)
          ∧ (z.state ≠ .rts → w.unacked = z.unacked)
          ∧ (z.state = .rts → z.waiting = [] →
              (z.unacked.filter (fun u => u.data = [])).length + ((v + 2 * qDepth q - q.ci) % (2 * qDepth q) - qCount q) ≤ maxReads z → w.waiting = [])
          ∧ n.sentRoce.length + n.heldRoce.length + z.unacked.length = s1.sentRoce.length + s1.heldRoce.length + w.unacked.length
          ∧ n.hbm = s1.hbm ∧ n.regs = s1.regs)
      ∧ (q.kind ≠ .submission → (q.pi + 2 * qDepth q - v) % (2 * qDepth q) ≤ qCount q → ∃ n o, exec (.doorbell d) s = .next n
          ∧ n.queues = tput s1.queues k { q with ci := v } ∧ hostOut y.func [o] s1 n ∧ hOpc o = 4 ∧ hostOnly s1 { n with queues := s1.queues })
      ∧ ((q.kind = .submission ∧ ((v + 2 * qDepth q - q.ci) % (2 * qDepth q) < qCount q ∨ qDepth q < (v + 2 * qDepth q - q.ci) % (2 * qDepth q)))
          ∨ (q.kind ≠ .submission ∧ qCount q < (q.pi + 2 * qDepth q - v) % (2 * qDepth q)) → ∃ n o a, exec (.doorbell d) s = .next n
          ∧ hostOut y.func [o, a] s1 n ∧ hOpc o = 5 ∧ fld (ofBytes o.body) 15 0 = 0x50 ∧ hOpc a = 4 ∧ hostOnly s1 n))
    ∧ (∀ i m k q, seqAt s 0x11 d f y s1 → i = fld (ofBytes (d.body.take 64)) 11 0 → m = fld (ofBytes (d.body.take 64)) 23 16 → k = qKey f i → qOf s1 k = some q →
      (q.error = false → q.kind = .submission → q.host = false → qCount q + m ≤ qDepth q → (∀ j, j < m → memAvailable s1 (qAddr q (qAdd q q.pi j)) 64 = true ∧ hbmFree s1 (qAddr q (qAdd q q.pi j)) 64) →
        ∃ n o, exec (.submit d) s = .next n ∧ n.queues = tput s1.queues k { q with pi := qAdd q q.pi m }
          ∧ (∀ j, j < m → hbmRead n (qAddr q (qAdd q q.pi j)) 64 = (d.body.drop (64 + 64 * j)).take 64) ∧ hostOut y.func [o] s1 n ∧ hOpc o = 4
          ∧ n.regs = s1.regs ∧ n.spd = s1.spd ∧ n.tiles = s1.tiles)
      ∧ (q.error = false → (q.kind ≠ .submission ∨ q.host = true ∨ qDepth q < qCount q + m) → ∃ n o a, exec (.submit d) s = .next n
          ∧ hostOut y.func [o, a] s1 n ∧ hOpc o = 5 ∧ fld (ofBytes o.body) 15 0 = 0x50 ∧ hOpc a = 4 ∧ hostOnly s1 n)
      ∧ (q.error = true → ∃ n o a, exec (.submit d) s = .next n ∧ hostOut y.func [o, a] s1 n ∧ hOpc o = 5 ∧ fld (ofBytes o.body) 15 0 = 0x51
          ∧ hostOnly s1 n))
    ∧ (∀ v s2 x2, seqAt s 0x30 d 0 y s1 → readReg .f0 (fld (ofBytes d.body) 39 0) (fld (ofBytes d.body) 47 40) s1 = .ok (v, s2) → sessionOf s2 y.id = some x2 →
      ∃ n x, exec (.regRead d) s = .next n ∧ sessionOf n y.id = some x ∧ x.unacked = x2.unacked ++ [(x2.nextSeq, 0x32, toBytes 16 (v <<< 64))]
        ∧ sessionsOnly s2 n)
    ∧ (∀ s2 x2, seqAt s 0x31 d 0 y s1 → writeReg .f0 (fld (ofBytes d.body) 39 0) (fld (ofBytes d.body) 47 40) (fld (ofBytes d.body) 127 64) s1 = .ok s2 →
      sessionOf s2 y.id = some x2 → ∃ n x, exec (.regWrite d) s = .next n ∧ sessionOf n y.id = some x
        ∧ x.unacked = x2.unacked ++ [(x2.nextSeq, 0x32, toBytes 16 0)] ∧ sessionsOnly s2 n)
    ∧ (∀ i opc, (i = Instr.regRead d ∧ opc = 0x30) ∨ (i = .regWrite d ∧ opc = 0x31) → seqAt s opc d f y s1 → f ≠ 0 → ∃ n o a, exec i s = .next n
      ∧ hostOut y.func [o, a] s1 n ∧ hOpc o = 5 ∧ fld (ofBytes o.body) 15 0 = 0x43 ∧ hOpc a = 4 ∧ hostOnly s1 n))
  ∧ (∀ (s : State) (d : Datagram) (f m : Nat) (x : Session), dgAt s 4 d f → namedSession s f d = some x → sessionOf s x.id = some x →
      m = ((x.unacked.take 64).takeWhile (fun u => decide ((dAck d + 2 ^ 32 - u.1) % 2 ^ 32 < 2 ^ 31))).length →
      (dAv d = true → 0 < m → ∃ n, exec (.ack d) s = .next n
        ∧ sessionOf n x.id = some { x with unacked := x.unacked.drop m, rtoUs := 1000, timeouts := 0 } ∧ sessionsKept x.id s n ∧ sessionsOnly s n)
      ∧ (dAv d = false ∨ m = 0 → exec (.ack d) s = .next s))
  ∧ (∀ (s : State) (id : Nat) (x : Session), live s = true → sessionOf s id = some x →
      (x.unacked ≠ [] → x.timeouts < 7 → ∃ n l, exec (.rto id) s = .next n
        ∧ sessionOf n id = some { x with timeouts := x.timeouts + 1, rtoUs := min 64000 (2 * x.rtoUs) } ∧ hostOut x.func l s n
        ∧ l.map (·.body) = (x.unacked.take 64).map (fun u => u.2.2)
        ∧ regRaw n (aHost 0x118) = satAdd 64 (regRaw s (aHost 0x118)) (min 64 x.unacked.length) ∧ sessionsKept id s n
        ∧ (∀ a, a ≠ aHost 0x118 → regRaw n a = regRaw s a) ∧ sessionsOnly s { n with regs := s.regs })
      ∧ (∀ i, (i = Instr.rto id ∧ x.unacked ≠ [] ∧ 7 ≤ x.timeouts) ∨ i = .sessionIdle id → ∃ n, exec i s = .next n
        ∧ n.sessions = s.sessions.filter (fun y => y.id ≠ id) ∧ n.sentHost = s.sentHost ∧ n.heldHost = s.heldHost ∧ n.ctxs = s.ctxs ∧ n.tiles = s.tiles ∧ n.spd = s.spd))
  ∧ (∀ (s : State) (f i m : Nat) (q : Queue) (x : Session), live s = true → f < 16 → i < 4096 → qOf s (qKey f i) = some q → q.kind ≠ .submission → q.notify ≠ 0 →
      (q.pi + 2 * qDepth q - q.notedPi) % (2 * qDepth q) ≠ 0 → latestSession s f = some x →
      sessionOf s x.id = some x → m = min ((q.pi + 2 * qDepth q - q.notedPi) % (2 * qDepth q)) (if q.notify = 2 then (if q.big then 15 else 63)
        else (q.pi + 2 * qDepth q - q.notedPi) % (2 * qDepth q)) →
      ∃ n q' y b, exec (.notify f i) s = .next n ∧ qOf n (qKey f i) = some q' ∧ q'.notedPi = qAdd q q.notedPi m ∧ { q' with notedPi := q.notedPi, hostCopy := q.hostCopy } = q
        ∧ sessionOf n x.id = some y ∧ y.unacked = x.unacked ++ [(x.nextSeq, 0x20, b)] ∧ fld (ofBytes (b.take 64)) 11 0 = i
        ∧ fld (ofBytes (b.take 64)) 47 32 = qAdd q q.notedPi m % 65536
        ∧ (q.notify = 2 → q.host = false → b = b.take 64 ++ ((List.range m).map (fun j => hbmRead s (qAddr q (qAdd q q.notedPi j)) (qSize q))).flatten)
        ∧ (q.notify ≠ 2 → b.length = 64) ∧ sessionsOnly s { n with queues := s.queues })
  ∧ (∀ (s : State) (sp prio : Nat) (pause : Bool), live s = true → sp < 8 → prio < 8 →
      (∃ n, exec (.subPortDown sp) s = .next n ∧ onlyRegs [aHost 4] s n ∧ bit (regRaw n (aHost 4)) sp = false ∧ n.sessions = s.sessions)
      ∧ (bit (regRaw s (aHost 0)) 8 = true → sp < subPorts (fld (regRaw s (aHost 0)) 2 0) → ∃ n, exec (.subPortUp sp) s = .next n ∧ onlyRegs [aHost 4] s n
        ∧ bit (regRaw n (aHost 4)) sp = true ∧ fld (regRaw n (aHost 4)) 18 16 = fld (regRaw s (aHost 0)) 2 0)
      ∧ (∃ n, exec (.priorityFlowControl prio pause) s = .next n ∧ n.paused = (if pause then sinsert prio s.paused else sremove prio s.paused)
        ∧ regRaw n (aHost 0x138) = satAdd 64 (regRaw s (aHost 0x138)) 1 ∧ (∀ a, a ≠ aHost 0x138 → regRaw n a = regRaw s a)
        ∧ (pause = true → { n with paused := s.paused, regs := s.regs } = s)
        ∧ (pause = false → n.sentHost = s.sentHost ++ (s.heldHost.filter (fun p => p.1 = prio)).map (·.2) ∧ n.heldHost = s.heldHost.filter (fun p => p.1 ≠ prio)
          ∧ n.sentRoce = s.sentRoce ++ (s.heldRoce.filter (fun p => p.1 = prio)).map (·.2) ∧ n.heldRoce = s.heldRoce.filter (fun p => p.1 ≠ prio)
          ∧ { n with paused := s.paused, regs := s.regs, sentHost := s.sentHost, heldHost := s.heldHost, sentRoce := s.sentRoce, heldRoce := s.heldRoce } = s)))
  ∧ (∀ (s : State) (kind : Nat) (fr : List Byte), live s = true → kind < 4 →
      (∀ sp, sp < 8 → frameOk s { sub := sp, mac := frameMac fr, len := fr.length } = true → coreRuns s 3 = true → ∃ n o, exec (.networkHousekeeping kind fr) s = .next n
        ∧ n.sentFrames = s.sentFrames ++ [o] ∧ o.length = fr.length ∧ { n with sentFrames := s.sentFrames, free := s.free } = s)
      ∧ ((∀ sp, sp < 8 → frameOk s { sub := sp, mac := frameMac fr, len := fr.length } = false) ∨ coreRuns s 3 = false → exec (.networkHousekeeping kind fr) s = .next s))

/-- R418, R424 to R428, R430, R431, R437, R581: the front entry of a submission queue is consumed and completed with a status: QUEUE_CREATE makes the queue its entry describes,
QUEUE_DESTROY removes one, QUEUE_QUERY reports one; CTX_CREATE takes the first FREE context, CTX_SET writes a register that its state allows, CTX_READ reads; MR_REG and QP_CREATE give
unused names, QP_MODIFY changes the state, MR_DEREG and QP_DESTROY remove what is the function's own. -/
def Obligations.HostCommands : Prop :=
  (∀ (s1 : State) (f i cid st res : Nat) (q c : Queue), qOf s1 (qKey f i) = some q → qOf s1 (qKey f q.cq) = some c → q.cq ≠ i → c.error = false → c.host = false →
      c.big = false → qFull c = false → memAvailable s1 (qAddr c c.pi) 64 = true → hbmFree s1 (qAddr c c.pi) 64 → st < 256 → i < 4096 → f < 16 → q.cq < 4096 →
      (∃ q', qOf (qComplete f i cid st res s1) (qKey f i) = some q' ∧ q'.ci = qAdd q q.ci 1 ∧ { q' with ci := q.ci, hostCopy := q.hostCopy } = q)
      ∧ qOf (qComplete f i cid st res s1) (qKey f q.cq) = some { c with pi := qAdd c c.pi 1 }
      ∧ fld (ofBytes (hbmRead (qComplete f i cid st res s1) (qAddr c c.pi) 64)) 15 8 = st
      ∧ bit (ofBytes (hbmRead (qComplete f i cid st res s1) (qAddr c c.pi) 64)) 0 = decide (qPhase c c.pi = 1)
      ∧ (cid < 65536 → fld (ofBytes (hbmRead (qComplete f i cid st res s1) (qAddr c c.pi) 64)) 31 16 = cid)
      ∧ (qComplete f i cid st res s1).regs = s1.regs ∧ (qComplete f i cid st res s1).ctxs = s1.ctxs)
  ∧ (∀ (s : State) (f q e i r : Nat), i = fld e 75 64 →
      (takes s f q 0x01 e → r = queueCreateCheck s f e → r ≠ 0 → ∃ n, exec (.queueCreate f q) s = .next n ∧ completes f q e r 0 s n)
      ∧ (takes s f q 0x01 e → queueCreateCheck s f e = 0 → ∃ n x, exec (.queueCreate f q) s = .next n ∧ completes f q e 0 0 (setQ (qKey f i) x s) n
        ∧ x.kind = queueKindOf (fld e 77 76) ∧ x.host = bit e 78 ∧ x.big = bit e 79 ∧ x.log2 = fld e 83 80 ∧ x.endpt = bit e 84 ∧ x.notify = fld e 87 86
        ∧ x.cq = fld e 99 88 ∧ x.addr = fld e 191 128 ∧ x.pi = 0 ∧ x.ci = 0 ∧ x.error = false)
      ∧ (takes s f q 0x02 e → r = queueDestroyCheck s f i → ∃ n, exec (.queueDestroy f q) s = .next n ∧ (r ≠ 0 → completes f q e r 0 s n)
        ∧ (r = 0 → qOf n (qKey f i) = none ∧ n.hbm = (qComplete f q (fld e 31 16) 0 0 s).hbm ∧ n.regs = s.regs))
      ∧ (∀ x, takes s f q 0x03 e → qOf s (qKey f i) = some x → ∃ n, exec (.queueQuery f q) s = .next n
        ∧ completes f q e 0 (x.pi + x.ci <<< 16 + x.error.toNat <<< 32) s n)
      ∧ (takes s f q 0x03 e → qOf s (qKey f i) = none → ∃ n, exec (.queueQuery f q) s = .next n ∧ completes f q e 0x51 0 s n))
  ∧ (∀ (s : State) (f q e c : Nat),
      (takes s f q 0x10 e → f = 0 → ∃ n, exec (.ctxCreate f q) s = .next n ∧ completes f q e 0x43 0 s n)
      ∧ (takes s f q 0x10 e → f ≠ 0 → ctxBusy s = false → s.ctxQueue = [] → (∀ d, d < 16 → (ctxOf s d).state ≠ .free) → ∃ n, exec (.ctxCreate f q) s = .next n
        ∧ completes f q e 0x42 0 s n)
      ∧ (takes s f q 0x10 e → f ≠ 0 → (ctxBusy s = true ∨ s.ctxQueue ≠ []) → ∃ n x, exec (.ctxCreate f q) s = .next n ∧ n.ctxQueue = s.ctxQueue ++ [x]
        ∧ x.src = .queue f q ∧ x.entry = some e ∧ { n with ctxQueue := s.ctxQueue } = s)
      ∧ (∀ s0, takes s f q 0x10 e → f ≠ 0 → ctxBusy s = false → s.ctxQueue = [] → c < 16 → (ctxOf s c).state = .free → (∀ d, d < c → (ctxOf s d).state ≠ .free) →
        s0 = createRegs c e s → createCheck s0 c f ≠ 0 → ∃ n, exec (.ctxCreate f q) s = .next n
          ∧ completes f q e (createCheck s0 c f) 0 (modCtx c (fun x => { x with lastResult := createCheck s0 c f }) s) n)
      ∧ (∀ s0, takes s f q 0x10 e → f ≠ 0 → ctxBusy s = false → s.ctxQueue = [] → c < 16 → (ctxOf s c).state = .free → (∀ d, d < c → (ctxOf s d).state ≠ .free) →
        s0 = createRegs c e s → createCheck s0 c f = 0 → walkIn s (ctxTiles s0 c) = false →
        ∃ n s1, exec (.ctxCreate f q) s = .next n ∧ completes f q e 0 (c + (ctxOf s c).gen.toNat <<< 16) s1 n
          ∧ regRaw n (aCtx c 0x10) = fld e 191 128 ∧ regRaw n (aCtx c 0x18) = fld e 255 192 ∧ regRaw n (aCtx c 0x70) = fld e 127 64
          ∧ (∀ j, j < 4 → fld (regRaw n (aCtx c (0x20 + 0x10 * j))) 39 21 = fld e (256 + 64 * j + 18) (256 + 64 * j)
            ∧ fld (regRaw n (aCtx c (0x28 + 0x10 * j))) 39 21 = fld e (256 + 64 * j + 37) (256 + 64 * j + 19))
          ∧ (ctxOf n c).state = .created ∧ (ctxOf n c).func = f ∧ (ctxOf n c).nondet = bit e 8 ∧ (ctxOf n c).gen = (ctxOf s c).gen ∧ ctxOthers c s n)
      ∧ (c = fld e 67 64 → ownsCtx s f c = false → (takes s f q 0x11 e → ∃ n, exec (.ctxSet f q) s = .next n ∧ completes f q e 0x43 0 s n)
        ∧ (takes s f q 0x13 e → f ≠ 0 → ∃ n, exec (.ctxRead f q) s = .next n ∧ completes f q e 0x43 0 s n)
        ∧ (takes s f q 0x20 e → ∃ n, exec (.mrReg f q) s = .next n ∧ completes f q e 0x43 0 s n))
      ∧ (∀ o, takes s f q 0x11 e → c = fld e 67 64 → o = fld e 79 72 → ownsCtx s f c = true → (o = 0x60 ∨ o = 0x68 ∨ o = 0x78 ∨ o = 0x80) →
        ((ctxOf s c).state = .created ∨ (ctxOf s c).state = .done →
          ∃ n, exec (.ctxSet f q) s = .next n ∧ completes f q e 0 0 (regPut (aCtx c o) (fld e 191 128) s) n ∧ regRaw n (aCtx c o) = fld e 191 128)
        ∧ ((ctxOf s c).state ≠ .created → (ctxOf s c).state ≠ .done → ∃ n, exec (.ctxSet f q) s = .next n ∧ completes f q e 1 0 (accessFault .f0 5 (aCtx c o) s) n))
      ∧ (takes s f q 0x13 e → c = fld e 67 64 → (f = 0 ∨ ownsCtx s f c = true) → ∃ n, exec (.ctxRead f q) s = .next n
        ∧ completes f q e 0 (ctxStateView s c + (ctxOf s c).gen.toNat <<< 32 + stepOf s c <<< 64 + mbStatusView s c <<< 128) s n))
  ∧ (∀ (s : State) (f q e c a k : Nat), c = fld e 67 64 → a = fld e 167 128 → k = fld e 255 192 →
      (takes s f q 0x20 e → ownsCtx s f c = true → 0 < k → a + k ≤ hbmTop → inPartition s c a k = true → s.mrs.length < 65536 →
        ∃ n s1 key m, exec (.mrReg f q) s = .next n ∧ completes f q e 0 key s1 n ∧ tget s.mrs key = none ∧ key < 0xFFFFFF00 ∧ n.mrs = tput s.mrs key m
          ∧ m.func = f ∧ m.ctx = c ∧ m.gen = (ctxOf s c).gen ∧ m.base = a ∧ m.len = k ∧ m.write = bit e 8 ∧ m.read = bit e 9)
      ∧ (takes s f q 0x20 e → ownsCtx s f c = true → 0 < k → (hbmTop < a + k ∨ inPartition s c a k = false) → ∃ n, exec (.mrReg f q) s = .next n
        ∧ completes f q e 0x45 0 s n)
      ∧ (∀ m, takes s f q 0x21 e → tget s.mrs (fld e 95 64) = some m →
        (m.func = f → ∃ n, exec (.mrDereg f q) s = .next n ∧ completes f q e 0 0 { s with mrs := tdel s.mrs (fld e 95 64) } n)
        ∧ (m.func ≠ f → ∃ n, exec (.mrDereg f q) s = .next n ∧ completes f q e 0x43 0 s n))
      ∧ (takes s f q 0x22 e → fnQps s f < fld (regRaw s (aFn f 0x34)) 12 0 → s.qps.length < 4096 → ∃ n s1 key, exec (.qpCreate f q) s = .next n
          ∧ completes f q e 0 key s1 n ∧ qpOf s key = none ∧ key < 2 ^ 24 ∧ s1.qps = tput s.qps key { func := f } ∧ { s1 with qps := s.qps, free := s.free } = s)
      ∧ (takes s f q 0x22 e → (fld (regRaw s (aFn f 0x34)) 12 0 ≤ fnQps s f ∨ 4096 ≤ s.qps.length) → ∃ n, exec (.qpCreate f q) s = .next n
          ∧ completes f q e 0x42 0 s n)
      ∧ (∀ x st, takes s f q 0x23 e → qpOf s (fld e 87 64) = some x → x.func = f → st = fld e 91 88 → st ≤ 4 → (st ≠ 2 ∧ st ≠ 3 ∨ 3 ≤ fld e 94 92 ∧ fld e 94 92 ≤ 5) →
          fld e 387 384 < subPorts (fld (regRaw s (aHost 0)) 2 0) → ∃ n s1 y, exec (.qpModify f q) s = .next n ∧ completes f q e 0 0 s1 n
            ∧ qpOf s1 (fld e 87 64) = some y ∧ y.state = qpStateOf st ∧ y.func = f ∧ (st = 2 → y.expPsn = fld e 167 144)
            ∧ (st = 3 → x.state ≠ .rts → y.sendPsn = (fld e 143 120 + (y.unacked.length - x.unacked.length)) % 2 ^ 24) ∧ (st = 0 → y.unacked = [])
            ∧ (x.state ≠ .rts ∨ st = 3 → s1.queues = s.queues)
            ∧ (x.state = .rts → st ≠ 3 → ∀ p ∈ s1.queues, p.2.host = true → p.2.qpn = fld e 87 64 → p.2.error = true)
            ∧ { s1 with qps := s.qps, queues := s.queues, sentRoce := s.sentRoce, heldRoce := s.heldRoce } = s)
      ∧ (∀ x, takes s f q 0x24 e → qpOf s (fld e 87 64) = some x → x.func = f →
          ((∀ p ∈ s.queues, ¬ (p.2.host = true ∧ p.2.qpn = fld e 87 64)) → ∃ n, exec (.qpDestroy f q) s = .next n
            ∧ completes f q e 0 0 { s with qps := tdel s.qps (fld e 87 64) } n)
          ∧ ((∃ p ∈ s.queues, p.2.host = true ∧ p.2.qpn = fld e 87 64) → ∃ n, exec (.qpDestroy f q) s = .next n ∧ completes f q e 0x44 0 s n))
      ∧ (∀ i opc x, (i = Instr.qpModify f q ∧ opc = 0x23) ∨ (i = .qpDestroy f q ∧ opc = 0x24) → takes s f q opc e → qpOf s (fld e 87 64) = some x → x.func ≠ f →
          ∃ n, exec i s = .next n ∧ completes f q e 0x43 0 s n))

/-- R424, R430 to R433, R437, Table 13-10: a function is enabled with its two first queues; disabling or resetting it tears its contexts down, and once they are FREE its queues,
pairs, regions and sessions are gone. A RoCEv2 request in its turn is carried out and answered: sends fill the submission ring, writes and reads reach what the key allows; one
ahead of its turn is out of sequence, one served before is acknowledged and a read served again (DEDUCED: log entry 82), and a Send with no use here is refused. A write or read of a
line with an open entry waits. Answers retire requests, errors stop the pair. -/
def Obligations.FunctionsAndRoce : Prop :=
  (∀ (s : State) (who : Who) (f : Nat), live s = true → f < 16 →
    (mayWrite who (aFn f 0) 4 s → fnState s f = 0 → bit (fnCfg s f) 31 = false →
      (mayEnable s f = true → ∃ n, exec (.functionEnable who f) s = .next n ∧ fnState n f = 1 ∧ bit (fnCfg n f) 31 = true
        ∧ (∃ q, qOf n (qKey f 0) = some q ∧ q.kind = .submission ∧ q.cq = 1 ∧ q.log2 = fld (regRaw s (aFn f 0x30)) 3 0 ∧ q.addr = (qmemRange s f).1 ∧ q.pi = 0 ∧ q.ci = 0)
        ∧ (∃ q, qOf n (qKey f 1) = some q ∧ q.kind = .completion ∧ q.log2 = fld (regRaw s (aFn f 0x30)) 7 4) ∧ n.hbm = s.hbm ∧ n.ctxs = s.ctxs
        ∧ ∀ a, a ≠ aFn f 0 → a ≠ aFn f 4 → regRaw n a = regRaw s a)
      ∧ (mayEnable s f = false → ∃ n, exec (.functionEnable who f) s = .next n ∧ onlyRecord s n))
    ∧ (mayWrite who (aFn f 0) 4 s → fnState s f = 1 → bit (fnCfg s f) 31 = true → ∃ n, exec (.functionDisable who f) s = .next n ∧ fnState n f = 2
      ∧ bit (fnCfg n f) 31 = false ∧ bit (regRaw n (aHost 0xC)) f = true
      ∧ (∀ c, c < 16 → (ctxOf s c).func = f → (ctxOf s c).state ≠ .free → (ctxOf n c).state = .teardown)
      ∧ ∀ c, c < 16 → (ctxOf s c).func ≠ f → ctxOf n c = ctxOf s c)
    ∧ (mayWrite who (aHost 0xC) 4 s → fnState s f ≠ 2 → ∃ n, exec (.freset who f) s = .next n ∧ fnState n f = 2 ∧ bit (regRaw n (aHost 0xC)) f = true
      ∧ (∀ c, c < 16 → (ctxOf s c).func = f → (ctxOf s c).state ≠ .free → (ctxOf n c).state = .teardown)
      ∧ ∀ c, c < 16 → (ctxOf s c).func ≠ f → ctxOf n c = ctxOf s c)
    ∧ (fnState s f = 2 → (∀ c, c < 16 → ownsCtx s f c = false) → ∃ n, exec (.fresetTeardownDone f) s = .next n
      ∧ fnState n f = (if bit (fnCfg s f) 31 then 1 else 0) ∧ bit (regRaw n (aHost 0xC)) f = false ∧ (∀ x ∈ n.sessions, x.func ≠ f) ∧ (∀ m ∈ n.mrs, m.2.func ≠ f)
      ∧ (∀ q ∈ n.qps, q.2.func ≠ f) ∧ (∀ q, q ∈ n.queues → q.1 / 4096 = f → q.1 % 4096 < 3 ∧ bit (fnCfg s f) 31 = true) ∧ (s.ctxQueue = [] → n.tiles = s.tiles ∧ n.spd = s.spd)))
  ∧ (∀ (s : State) (r : Roce) (x : Qp), (∀ d k q, roceNext s r x → sendKind r.kind = true → r.last = true → d = (if r.first then [] else x.partBuf) ++ r.pay → d ≠ [] → d.length % 64 = 0 →
        k = qKey x.func (qpFld x 399 388) → qOf s k = some q → q.kind = .submission → q.host = false → q.error = false →
      (qCount q + d.length / 64 ≤ qDepth q → (∀ j, j < d.length / 64 → memAvailable s (qAddr q (qAdd q q.pi j)) 64 = true
          ∧ hbmFree s (qAddr q (qAdd q q.pi j)) 64) → ∃ n, exec (.roceSend r) s = .next n
        ∧ n.queues = tput s.queues k { q with pi := qAdd q q.pi (d.length / 64) }
        ∧ (∀ j, j < d.length / 64 → hbmRead n (qAddr q (qAdd q q.pi j)) 64 = (d.drop (64 * j)).take 64) ∧ qpOf n r.qpn = some { psnOn x 1 with partBuf := [] }
        ∧ roceOut r.qpn x [.answer r.psn .ack] s n ∧ n.regs = s.regs ∧ n.spd = s.spd)
      ∧ (qDepth q < qCount q + d.length / 64 → ∃ n, exec (.roceSend r) s = .next n ∧ roceOut r.qpn x [.answer r.psn .rnr] s n ∧ n.qps = s.qps
        ∧ n.queues = s.queues ∧ n.hbm = s.hbm))
    ∧ (roceNext s r x → sendKind r.kind = false → ∃ n, exec (.roceSend r) s = .next n ∧ qpOf n r.qpn = some { psnOn x 1 with partBuf := [] }
      ∧ roceOut r.qpn x [.answer r.psn .nakInvalid] s n ∧ n.queues = s.queues ∧ n.hbm = s.hbm ∧ n.spd = s.spd)
    ∧ (roceNext s r x → sendKind r.kind = true → r.last = false → ∃ n, exec (.roceSend r) s = .next n
      ∧ qpOf n r.qpn = some { psnOn x 1 with partBuf := (if r.first then [] else x.partBuf) ++ r.pay }
      ∧ roceOut r.qpn x [.answer r.psn .ack] s n ∧ { n with qps := s.qps, sentRoce := s.sentRoce, heldRoce := s.heldRoce } = s)
    ∧ (∀ a, roceNext s r x → a = (if r.first then r.addr else x.partAddr) →
      (mrAllows s x.func r.rkey.toNat a r.pay.length true = true → lineOpen s a r.pay.length = false → memAvailable s a r.pay.length = true → noBook s → noTensor s a r.pay.length →
        ∃ n, exec (.rdmaWrite r) s = .next n ∧ hbmRead n a r.pay.length = r.pay
          ∧ (∀ y, (y < a ∨ a + r.pay.length ≤ y) → hbmRead n y 1 = hbmRead s y 1) ∧ qpOf n r.qpn = some { psnOn x 1 with partAddr := a + r.pay.length }
          ∧ roceOut r.qpn x [.answer r.psn .ack] s n ∧ n.regs = s.regs ∧ n.spd = s.spd)
      ∧ (mrAllows s x.func r.rkey.toNat a r.pay.length true = true → lineOpen s a r.pay.length = true → exec (.rdmaWrite r) s = .next s)
      ∧ (mrAllows s x.func r.rkey.toNat a r.pay.length true = false → ∃ n, exec (.rdmaWrite r) s = .next n ∧ qpOf n r.qpn = some (psnOn x 1)
          ∧ roceOut r.qpn x [.answer r.psn .nakAccess] s n ∧ n.hbm = s.hbm ∧ n.spd = s.spd))
    ∧ (∀ k, roceNext s r x → k = max 1 ((r.len + qpMtu x - 1) / qpMtu x) →
      (mrAllows s x.func r.rkey.toNat r.addr r.len false = true → lineOpen s r.addr r.len = false → memAvailable s r.addr r.len = true →
        memPoisoned s r.addr r.len = none → ∃ n, exec (.rdmaRead r) s = .next n ∧ qpOf n r.qpn = some (psnOn x k)
          ∧ roceOut r.qpn x [.readData r.psn (hbmRead s r.addr r.len)] s n
          ∧ { n with qps := s.qps, sentRoce := s.sentRoce, heldRoce := s.heldRoce, stackCtl := s.stackCtl, flits := s.flits } = s)
      ∧ (mrAllows s x.func r.rkey.toNat r.addr r.len false = true → lineOpen s r.addr r.len = true → exec (.rdmaRead r) s = .next s)
      ∧ (mrAllows s x.func r.rkey.toNat r.addr r.len false = false → ∃ n, exec (.rdmaRead r) s = .next n ∧ qpOf n r.qpn = some (psnOn x k)
          ∧ roceOut r.qpn x [.answer r.psn .nakAccess] s n ∧ n.hbm = s.hbm ∧ n.spd = s.spd))
    ∧ (roceAt s r x → (x.state = .rtr ∨ x.state = .rts) → r.psn ≠ x.expPsn → (x.expPsn + 2 ^ 24 - r.psn) % 2 ^ 24 < 2 ^ 23 →
      (∃ n, exec (.roceSend r) s = .next n ∧ roceOut r.qpn x [.answer r.psn .ack] s n ∧ { n with sentRoce := s.sentRoce, heldRoce := s.heldRoce } = s)
      ∧ (exec (.rdmaWrite r) s = exec (.roceSend r) s)
      ∧ (mrAllows s x.func r.rkey.toNat r.addr r.len false = true → lineOpen s r.addr r.len = false → memAvailable s r.addr r.len = true →
        memPoisoned s r.addr r.len = none → ∃ n, exec (.rdmaRead r) s = .next n ∧ roceOut r.qpn x [.readData r.psn (hbmRead s r.addr r.len)] s n
          ∧ { n with sentRoce := s.sentRoce, heldRoce := s.heldRoce, stackCtl := s.stackCtl, flits := s.flits } = s))
    ∧ (∀ i, i = Instr.roceSend r ∨ i = .rdmaWrite r ∨ i = .rdmaRead r → roceAt s r x → (x.state = .rtr ∨ x.state = .rts) → r.psn ≠ x.expPsn →
      2 ^ 23 ≤ (x.expPsn + 2 ^ 24 - r.psn) % 2 ^ 24 → ∃ n, exec i s = .next n ∧ roceOut r.qpn x [.answer x.expPsn .nakSequence] s n
        ∧ n.qps = s.qps ∧ n.hbm = s.hbm)
    ∧ (∀ u q l, roceAt s r x → x.unacked.find? (fun u => u.psn = r.psn ∧ u.data = []) = some u → qOf s u.queue = some q →
      l = x.unacked.filter (fun v => !(psnUpTo v.psn u.psn && (decide (v.psn = u.psn) || v.data != []))) → ∃ n y, exec (.rdmaReadResponse r) s = .next n
      ∧ n.queues = tput s.queues u.queue { q with hostCopy := q.hostCopy ++ [(u.idx, fitBytes 64 r.pay)] } ∧ qpOf n r.qpn = some y ∧ y.unacked.take l.length = l
      ∧ (y.unacked ++ y.waiting).map (·.idx) = (l ++ x.waiting).map (·.idx)
      ∧ (x.state = .rts → x.waiting ≠ [] → (l.filter (fun v => v.data = [])).length < maxReads x → l.length < y.unacked.length)
      ∧ y.retries = 0 ∧ { n with qps := s.qps, queues := s.queues, sentRoce := s.sentRoce, heldRoce := s.heldRoce } = s)
    ∧ (roceAt s r x → x.state = .rts →
      (∃ n y, exec (.roceAck r .ack) s = .next n ∧ qpOf n r.qpn = some y ∧ y.unacked = x.unacked.filter (fun v => !(psnUpTo v.psn r.psn && v.data != []))
        ∧ y.retries = 0 ∧ { n with qps := s.qps } = s)
      ∧ (∀ a, a = .nakAccess ∨ a = .nakInvalid → ∃ n, exec (.roceAck r a) s = .next n ∧ qpOf n r.qpn = some { x with state := .error, waiting := [] }
        ∧ (∀ p ∈ n.queues, p.2.host = true → p.2.qpn = r.qpn → p.2.error = true) ∧ { n with qps := s.qps, queues := s.queues } = s))
    ∧ (roceAt s r x → x.state = .rts →
      (∀ l, l = x.unacked.filter (fun v => !(psnUpTo v.psn ((r.psn + 2 ^ 24 - 1) % 2 ^ 24) && v.data != [])) → x.retries < qpFld x 170 168 →
        ∃ n, exec (.roceAck r .nakSequence) s = .next n ∧ qpOf n r.qpn = some { x with unacked := l, retries := x.retries + 1 }
          ∧ roceOut r.qpn x (l.map .request) s n ∧ { n with qps := s.qps, sentRoce := s.sentRoce, heldRoce := s.heldRoce } = s)
      ∧ ((qpFld x 173 171 = 7 ∨ x.rnr < qpFld x 173 171) → ∃ n, exec (.roceAck r .rnr) s = .next n ∧ qpOf n r.qpn = some { x with rnr := x.rnr + 1 }
          ∧ roceOut r.qpn x (x.unacked.map .request) s n ∧ { n with qps := s.qps, sentRoce := s.sentRoce, heldRoce := s.heldRoce } = s)
      ∧ (qpFld x 173 171 ≠ 7 → qpFld x 173 171 ≤ x.rnr → ∃ n, exec (.roceAck r .rnr) s = .next n ∧ qpOf n r.qpn = some { x with state := .error, waiting := [] }))
    ∧ (∀ i : Roce → Instr, i = Instr.roceSend ∨ i = .rdmaWrite ∨ i = .rdmaRead ∨ i = .rdmaReadResponse ∨ i = .cnp ∨ (∃ a, i = fun r => .roceAck r a) → roceAt s r x →
      exec (i { r with ecn := true }) s = exec (i r) (regCount (aHost 0x128) 1 (sendRoce r.qpn .cnp s)))
    ∧ (roceAt s r x → ∃ n v, exec (.cnp r) s = .next n ∧ qpOf n r.qpn = some { x with rate := v } ∧ { n with qps := s.qps, free := s.free, regs := s.regs } = s
      ∧ regRaw n (aHost 0x130) = satAdd 64 (regRaw s (aHost 0x130)) 1 ∧ ∀ a, a ≠ aHost 0x130 → regRaw n a = regRaw s a))
  ∧ (∀ (s : State) (m : Nat) (x : Qp), live s = true → qpOf s m = some x → x.state = .rts → x.unacked ≠ [] → qpFld x 178 174 ≠ 0 →
      (x.retries < qpFld x 170 168 → ∃ n, exec (.roceTimeout m) s = .next n ∧ qpOf n m = some { x with retries := x.retries + 1 }
        ∧ roceOut m x (x.unacked.map .request) s n ∧ { n with qps := s.qps, sentRoce := s.sentRoce, heldRoce := s.heldRoce } = s)
      ∧ (qpFld x 170 168 ≤ x.retries → ∃ n, exec (.roceTimeout m) s = .next n ∧ qpOf n m = some { x with state := .error, waiting := [] }
        ∧ (∀ p ∈ n.queues, p.2.host = true → p.2.qpn = m → p.2.error = true) ∧ { n with qps := s.qps, queues := s.queues } = s))

/-! ### Field Books (R441, R442, R444, R448, R449, R451, R457, R463, R465, R469, R474) -/

/-- R441, R442, R463, R465, R469, R474, Tables 14-9 and 14-10: an UNBOUND or HALTED book is bound to a READY context; a BOUND one whose plan and ranges are right runs, else it gives the
result of what is wrong. Its commands: RESUME checks the entry; FETCH, ADOPT, REPLICA and CKPT_RESTORE ask for what they need, each as one packet; RELEASE discards a
HALTED book. A command in another state, or without a valid plan, gives its result only. It ends when what it asked for has come, or with PEER_FAIL. -/
def Obligations.BookCommands : Prop :=
  (∀ (s : State) (who : Who) (b c : Nat), live s = true → b < 16 → c < 16 → mayWrite who (aFbk b 0) 4 s →
    ((bookOf s b).state = .unbound ∨ (bookOf s b).state = .halted →
      ((ctxOf s c).state = .ready → ∃ n, exec (.bookBind who b c) s = .next n ∧ bookOf n b = { bookOf s b with state := .bound }
        ∧ (∀ d, d ≠ b → bookOf n d = bookOf s d) ∧ regRaw n (aFbk b 0) = 0x100 + c <<< 16 ∧ (∀ a, a ≠ aFbk b 0 → regRaw n a = regRaw s a)
        ∧ { n with books := s.books, regs := s.regs } = s)
      ∧ ((ctxOf s c).state ≠ .ready → ∃ n, exec (.bookBind who b c) s = .next n ∧ onlyRecord s n))
    ∧ ((bookOf s b).state = .running ∨ (bookOf s b).state = .busy → ∃ n, exec (.bookEnable who b) s = .next n ∧ onlyRecord s n)
    ∧ ((bookOf s b).state = .bound →
      (readPlan s b = none → ∃ n, exec (.bookEnable who b) s = .next n ∧ bookDid b { bookOf s b with result := 2 } s n)
      ∧ (∀ p, readPlan s b = some p → bookRangesOk s b p = false → ∃ n, exec (.bookEnable who b) s = .next n
          ∧ bookDid b { bookOf s b with result := 3 } s n)
      ∧ (∀ p, readPlan s b = some p → bookRangesOk s b p = true → (bookOf s b).captures = [] → midStep (ctxOf s (bookCtx s b)) = false → ∃ n, exec (.bookEnable who b) s = .next n
          ∧ (bookOf n b).state = .running ∧ (bookOf n b).plan = some p ∧ (bookOf n b).result = 0
          ∧ (∀ m, memberOf (ctxOf s (bookCtx s b)) p.partner = some m → (bookOf n b).peer = some m)
          ∧ bit (regRaw n (aFbk b 0)) 0 = true ∧ bookCtx n b = bookCtx s b ∧ (∀ d, d ≠ b → bookOf n d = bookOf s d)
          ∧ (∀ a, a ≠ aFbk b 0 → regRaw n a = regRaw s a) ∧ { n with books := s.books, regs := s.regs } = s)))
  ∧ (∀ (s : State) (who : Who) (b op : Nat) (i : Instr), live s = true → b < 16 → mayWrite who (aFbk b 8) 4 s →
      (op, i) ∈ [(1, Instr.bookResume who b), (2, .adopt who b), (3, .fetch who b), (4, .replica who b), (5, .ckptRestore who b), (6, .bookRelease who b)] →
      (cmdAllowed op (bookOf s b).state = false → ∃ n, exec i s = .next n ∧ bookDid b { bookOf s b with result := 1 } s n)
      ∧ ((bookOf s b).state = .bound → op ≠ 6 → readPlan s b = none → ∃ n, exec i s = .next n ∧ bookDid b { bookOf s b with result := 2 } s n)
      ∧ ((bookOf s b).state = .bound → (op = 2 ∨ op = 4) → peerAt s b (regRaw s (aFbk b 0x88)) = none → ∀ p, readPlan s b = some p → ∃ n, exec i s = .next n
          ∧ bookDid b { bookBusy s b op p with cmd := (bookBusy s b op p).cmd.map (fun x => { x with result := 6 }) } s n))
  ∧ (∀ (s : State) (who : Who) (b : Nat) (p : Plan), live s = true → b < 16 → mayWrite who (aFbk b 8) 4 s → (bookOf s b).state = .bound → readPlan s b = some p →
      (∀ k, resumeCheck s b (regRaw s (aFbk b 0x70)) p = .ok k → ∃ n, exec (.bookResume who b) s = .next n
        ∧ bookDid b { bookBusy s b 1 p with resume := some (regRaw s (aFbk b 0x70), k) } s n)
      ∧ (∀ e, resumeCheck s b (regRaw s (aFbk b 0x70)) p = .error e → ∃ n, exec (.bookResume who b) s = .next n
        ∧ bookDid b { bookBusy s b 1 p with cmd := (bookBusy s b 1 p).cmd.map (fun x => { x with result := e }) } s n)
      ∧ (∀ m o q, memberOf (ctxOf s (bookCtx s b)) p.partner = some m → m.1 < 4096 → wayTo s m.1 o → (∀ g ∈ (bookOf s b).written, g < 2 ^ 32) →
          q = prevStep (regRaw s (aFbk b 0x70)) → ∃ n l, exec (.fetch who b) s = .next n
          ∧ bookOf n b = { bookBusy s b 3 p with flight := (bookOf n b).flight } ∧ (∀ d, d ≠ b → bookOf n d = bookOf s d)
          ∧ (bookOf n b).flight.map (·.2) = (bookOf s b).flight.map (·.2) ++ (bookOf s b).written.map MirrorOp.fetch
          ∧ queuedList o l s n ∧ l.map mirrorKey = (bookOf s b).written.map (fun g => (0x40, 2, q % 2, g, q, m.1))
          ∧ { n with books := s.books, links := s.links, nextId := s.nextId } = s)
      ∧ (∀ m o k, peerAt s b (regRaw s (aFbk b 0x88)) = some m → m.1 < 4096 → wayTo s m.1 o → k = entrySize (bookNt s b) p / 4096 → k ≤ 2 ^ 31 →
          ∃ n l, exec (.adopt who b) s = .next n
          ∧ bookOf n b = { bookBusy s b 2 p with flight := (bookOf n b).flight } ∧ (∀ d, d ≠ b → bookOf n d = bookOf s d)
          ∧ (bookOf n b).flight.map (·.2) = (bookOf s b).flight.map (·.2) ++ (List.range k).flatMap (fun i => [MirrorOp.adoptPage 0 i, .adoptPage 1 i])
          ∧ queuedList o l s n
          ∧ l.map mirrorKey = (List.range k).flatMap (fun i => [(0x40, 2, 0, 2 ^ 31 + i, 0, m.1), (0x40, 2, 1, 2 ^ 31 + i, 0, m.1)])
          ∧ { n with books := s.books, links := s.links, nextId := s.nextId } = s)
      ∧ (∀ m o a, peerAt s b (regRaw s (aFbk b 0x88)) = some m → m.1 < 4096 → wayTo s m.1 o →
          a = (fun i => (pieceAt (parityPieces p (regRaw s (aFbk b 0x70))) (4096 * i)).getD 0) → (∀ i, a i < 2 ^ 40) →
          ∃ n l r, exec (.replica who b) s = .next n ∧ bookOf n b = bookBusy s b 4 p ∧ (∀ d, d ≠ b → bookOf n d = bookOf s d)
          ∧ n.accs = s.accs ++ r ∧ r.map (fun x => (x.origin, x.addr)) = (List.range (piecesLen (parityPieces p (regRaw s (aFbk b 0x70))) / 4096)).map
              (fun i => (Origin.book b, m.1 <<< 40 + a i))
          ∧ queuedList o l s n ∧ l.map (fun j => (pOpc j, pDst j, fld j.hdr.toNat 167 128)) = r.map (fun x => (3, m.1, gAddr x.addr))
          ∧ { n with books := s.books, links := s.links, accs := s.accs, nextId := s.nextId } = s)
      ∧ (∀ o, poolPort s = some o → portState s o = 2 → ∃ n j, exec (.ckptRestore who b) s = .next n
          ∧ bookOf n b = { bookBusy s b 5 p with flight := (bookOf s b).flight ++ [(s.nextId % 65536, .restore 0)] } ∧ (∀ d, d ≠ b → bookOf n d = bookOf s d)
          ∧ queuedList o [j] s n ∧ mirrorKey j = (0x40, 5, 0, 0, regRaw s (aFbk b 0x70), 0) ∧ mJob j = p.jobTag ∧ pTag j = s.nextId % 65536
          ∧ { n with books := s.books, links := s.links, nextId := s.nextId, regs := s.regs } = s)
      ∧ (poolPort s = none → ∃ n, exec (.ckptRestore who b) s = .next n
          ∧ bookDid b { bookBusy s b 5 p with cmd := (bookBusy s b 5 p).cmd.map (fun x => { x with result := 6 }) } s n))
  ∧ (∀ (s : State) (who : Who) (b : Nat), live s = true → b < 16 → mayWrite who (aFbk b 8) 4 s → (bookOf s b).state = .halted →
      ∃ n, exec (.bookRelease who b) s = .next n ∧ bookOf n b = {} ∧ (∀ d, d ≠ b → bookOf n d = bookOf s d) ∧ { n with books := s.books, regs := s.regs } = s
        ∧ (∀ o ∈ [0, 0x58, 0x60, 0x78, 0x80], regRaw n (aFbk b o) = 0) ∧ regRaw n (aFbk b 0x68) = 2 ^ 64 - 1
        ∧ ∀ a, (a < aFbk b 0 ∨ aFbk b 0x88 ≤ a) → regRaw n a = regRaw s a)
  ∧ (∀ (s : State) (b : Nat) (x : BookCmd), live s = true → b < 16 → (bookOf s b).cmd = some x →
      (cmdWaiting s b = true → exec (.bookCommandComplete b true) s = .next s)
      ∧ (x.op ≠ 2 → cmdWaiting s b = false → ∃ n, exec (.bookCommandComplete b true) s = .next n ∧ bookDid b { bookOf s b with
          state := x.back, cmd := none, result := x.result, flight := (bookOf n b).flight
          resume := if x.op = 1 ∧ x.result ≠ 0 then none else (bookOf s b).resume
          stateAt := if x.result = 0 ∧ x.op = 3 then some (prevStep x.arg) else if x.result = 0 ∧ x.op = 5 then some x.arg else (bookOf s b).stateAt } s n)
      ∧ (∀ p k key, x.op = 2 → x.result = 0 → cmdWaiting s b = false → (bookOf s b).plan = some p → newestEntry s b p = some (k, key) →
          x.slotOf = some (prevStep k) → (∀ g, g < exBlocks p → (tget x.labels g).isSome = true) → (bit key 133 = true ∨ ∀ l ∈ x.labels, l.2 = prevStep k) →
          ∃ n, exec (.bookCommandComplete b true) s = .next n ∧ bookDid b { bookOf s b with
            state := x.back, cmd := none, result := 0, flight := (bookOf n b).flight, stateAt := some (prevStep k) } s n)
      ∧ (∃ n, exec (.bookCommandComplete b false) s = .next n ∧ (bookOf n b).state = x.back ∧ (bookOf n b).cmd = none ∧ (bookOf n b).result = 6
          ∧ (∀ d, d ≠ b → bookOf n d = bookOf s d) ∧ (∀ a ∈ n.accs, a.origin ≠ .book b) ∧ { n with books := s.books, accs := s.accs } = s))

/-- R444, R448, R449, R451, R457: a capture whose pages are all answered is done, and with it the waypoint that it holds back may count. At COMMIT a member forms the digest of the
replicated state and sends it to its successor, and with an audit the digest of the sampled blocks to its partner; once the mirror is complete and the checks have
results it votes YES, or NO where one failed. -/
def Obligations.BookSteps : Prop :=
  (∀ (s : State) (b c : Nat) (x : CapturePart × Nat), live s = true → b < 16 → c = bookCtx s b →
      (bookOf s b).captures.find? (fun x => !(bookOf s b).flight.any (fun f => f.2 == .entry x.1 x.2)) = some x →
      (wpQuiet s c → ∃ n, exec (.captureComplete b) s = .next n ∧ bookDid b { bookOf s b with
        captures := (bookOf s b).captures.filter (· ≠ x), capDone := (bookOf s b).capDone.filter (fun y => decide (x.2 ≤ y.2 + 1)) ++ [x] } s n)
      ∧ (∀ i e s1, (ctxOf s c).next = .at i → (ctxOf s c).wps[i]? = some e → (ctxOf s c).aLocal = none → (ctxOf s c).raised = none →
          (∀ t ∈ tilesOf s c, t ∈ (ctxOf s c).arrived) →
          s1 = haveCapture b x.1 x.2 (modBook b (fun k => { k with captures := k.captures.filter (· ≠ x) }) s) →
          (wpGate s1 c i e = true → ∃ n, exec (.captureComplete b) s = .next n ∧ (ctxOf n c).aLocal = some (now s)
            ∧ x ∈ (bookOf n b).capDone ∧ ∀ d, d ≠ c → ctxOf n d = ctxOf s d)
          ∧ (wpGate s1 c i e = false → exec (.captureComplete b) s = .next s1)))
  ∧ (∀ (s : State) (b : Nat), live s = true → b < 16 → (∀ x ∈ (bookOf s b).captures, ∃ f ∈ (bookOf s b).flight, f.2 = .entry x.1 x.2) →
      exec (.captureComplete b) s = .next s)
  ∧ (∀ (s : State) (b c m : Nat) (p : Plan), live s = true → b < 16 → c = bookCtx s b → m = stepOf s c → (bookOf s b).plan = some p →
      (bookOf s b).state = .running → atCommit s c = true →
      (∀ d, (bookOf s b).mineDig.map (·.1) ≠ some m → d = sd128 m (pieceLines s (parityPieces p m)) → s.entries = [] → ∃ n, exec (.replicatedDigest b) s = .next n
        ∧ regRaw n (aFbk b 0x78) = d.toNat % 2 ^ 64 ∧ regRaw n (aFbk b 0x80) = d.toNat / 2 ^ 64 ∧ (bookOf n b).mineDig = some (m, d)
        ∧ (∀ k, k ≠ b → bookOf n k = bookOf s k) ∧ n.ctxs = s.ctxs ∧ n.hbm = s.hbm ∧ n.tiles = s.tiles ∧ n.spd = s.spd
        ∧ (audits p = false → bookOf n b = { bookOf s b with mineDig := some (m, d) }) ∧ (audits p = true → (bookOf n b).mineAud.map (·.1) = some m)
        ∧ (∀ v o, p.audit = false → p.succ ≠ (ctxOf s c).rank → rankAt s c p.succ v o → ∃ j, queuedAt o j s n ∧ pOpc j = 0x28 ∧ pOp j 259 256 = 3
            ∧ kStep j = m % 65536 ∧ pOp j 511 384 = d.toNat ∧ pDst j = v)
        ∧ (∀ v o, p.audit = true → rankAt s c p.partner v o → ∃ j ∈ (linkOf n o).queue, pOpc j = 0x28 ∧ pOp j 259 256 = 4 ∧ kStep j = m % 65536
            ∧ pOp j 511 384 = (sd128 m (blockLines s (sampled p m) (fun _ g => exAddr p g))).toNat ∧ pDst j = v))
      ∧ ((bookOf s b).mineDig.map (·.1) = some m ∨ piecesOpen s (parityPieces p m) = true → exec (.replicatedDigest b) s = .next s)
      ∧ (∀ d a, runningBook s c = some b → (bookOf s b).voted ≠ some m → (bookOf s b).complete = some (prevStep m) → stepChecks s b m p = some (d, a) → ∃ n, exec (.vote b) s = .next n
        ∧ ((ctxOf s c).rank ≠ 0 ∨ ((d && a) = true ∧ (ctxOf s c).children = []) → (bookOf n b).voted = some m) ∧ (ctxOf n c).myVote = some
            { yes := d && a, noRank := if (d && a) = true then 0xFFF else (ctxOf s c).rank, cause := if d = false then 1 else if a = false then 2 else 0 }
        ∧ (∀ k, k ≠ b → bookOf n k = bookOf s k) ∧ (∀ e, e ≠ c → ctxOf n e = ctxOf s e)
        ∧ ((ctxOf s c).openMb = [] → fenceGate s c = true → (ctxOf s c).aLocal = none → (ctxOf s c).raised = none → (ctxOf s c).wps[wpC (ctxOf s c)]?.isSome = true →
            (∀ e, (ctxOf s c).wps[wpC (ctxOf s c)]? = some e → e.kind = .commit) → (ctxOf n c).aLocal = some (now s)))
      ∧ ((bookOf s b).voted = some m ∨ (bookOf s b).complete ≠ some (prevStep m) ∨ stepChecks s b m p = none → exec (.vote b) s = .next s))

/-! ### Faults and the chip reset (R478 to R485, R490, R491, R495 to R503, R511) -/

/-- R478, R480, R481, R483, R490, R491, R501: FLT takes the earliest record, by R501's order, files it in the store with its SEQ and the action taken, and acts: ABORT and TEARDOWN on the
context that it names, by a flood of KIND 1, or for a torus or buddy port on every context of several members; RESET asserts the alert and decides a chip reset. A unit
that waits too long stops and raises WAIT; a hung handshake and a reset that is asked for raise a record. -/
def Obligations.FaultRecords : Prop :=
  (∀ (s : State) (r : FaultRec), s.pins.pwrEn = true → nextRecord s = some r → openCause r = true → noBook s → ∃ n d, exec .faultRecord s = .next n
    ∧ recordFiled (withDetail d r) s n ∧ recordsKept r s n)
  ∧ (∀ (s : State) (r : FaultRec) (a : Nat), s.pins.pwrEn = true → nextRecord s = some r → openCause r = false → a = takenAction s r →
    (∃ n, exec .faultRecord s = .next n ∧ (noBook s → recordFiled r s n ∧ recordsKept r s n)
      ∧ (∀ c g k, r.ctx = some (c, g, k) → (ctxOf s c).gen = g → (ctxOf s c).state ≠ .free → c < 16 → a ≠ 2 → bit (regRaw n (aFlt 0x10)) c = true)
      ∧ (a = 0 → n.ctxs = s.ctxs ∧ n.rst = s.rst ∧ n.links = s.links ∧ n.tiles = s.tiles ∧ n.stewards = s.stewards ∧ n.spd = s.spd)
      ∧ (a = 3 → n.pins.alert = true ∧ n.ctxs = s.ctxs ∧ n.tiles = s.tiles ∧ n.spd = s.spd ∧ ∃ x, n.rst = some x
          ∧ (s.rst = none → x.phase = 0 ∧ x.t0 = now s ∧ x.cause = BitVec.ofNat 512 (recordBits r (fld (regRaw s (aFlt 0)) 15 0) 3) ∧ x.lost = (memPath r).toList
            ∧ x.nonFree = (List.range 16).filter (fun c => decide ((ctxOf s c).state ≠ .free))))
      ∧ (a = 1 → portRecord s r = none → r.time < 2 ^ 64 → ∀ c g k, r.ctx = some (c, g, k) → c < 16 → aborted n c = true
          ∧ ctxOf n c = { ctxOf s c with state := if (ctxOf s c).state = .running then .held else (ctxOf s c).state }
          ∧ (∀ d, d ≠ c → ctxOf n d = ctxOf s d) ∧ n.rst = s.rst ∧ n.tiles = s.tiles ∧ n.stewards = s.stewards
          ∧ ∀ q ∈ floodPorts s, ∃ j, queuedAt q j s n ∧ pOpc j = 0x30 ∧ pOp j 263 256 = 1 ∧ pOp j 370 359 = ownDev s ∧ pOp j 390 375 = g.toNat)
      ∧ (a = 1 → ∀ l, portRecord s r = some l → (∀ c ∈ l, aborted n c = true ∧ (ctxOf n c).state ≠ .running) ∧ (∀ c, c ∉ l → ctxOf n c = ctxOf s c)
          ∧ n.rst = s.rst ∧ n.tiles = s.tiles)
      ∧ (a = 2 → portRecord s r = none → noBook s → ∀ c g k, r.ctx = some (c, g, k) → c < 16 → aborted n c = true ∧ (ctxOf n c).state = .teardown
          ∧ (∀ t ∈ tilesOf s c, stoppedTile s n t) ∧ n.rst = s.rst)))
  ∧ (∀ (s : State), s.pins.pwrEn = true → s.faults = [] → exec .faultRecord s = .next s)
  ∧ (∀ (s : State), live s = true →
      (∀ t n, t < 128 → n < 2 → tileRunning s t = true → (stOf s t n).run = .waiting → (stOf s t n).waitKind ≠ .waypoint → (stOf s t n).waitKind ≠ .fenceG →
        ∃ nx, exec (.waitWatchdog (.st t n)) s = .next nx ∧ stOf nx t n = { stOf s t n with run := .stopped, waitKind := .none, stopCause := 5 }
          ∧ recorded s nx 6 1 (1 + n) (tileDie t) ∧ { nx with stewards := s.stewards, faults := s.faults } = s)
      ∧ (∀ t, t < 128 → tileRunning s t = true → (vxeOf s t).waiting = true → (vxeOf s t).stopped = false →
        ∃ n, exec (.waitWatchdog (.vxe t)) s = .next n ∧ vxeOf n t = { vxeOf s t with stopped := true, waiting := false } ∧ recorded s n 6 3 5 (tileDie t)
          ∧ fld (regRaw n (aTile t 4 8)) 31 28 = 6 ∧ (∀ a, a ≠ aTile t 4 8 → regRaw n a = regRaw s a) ∧ n.spd = s.spd)
      ∧ (∀ f q x, f < 16 → q < 4096 → qOf s (qKey f q) = some x → x.error = false → (x.bound = true → (ctxOf s x.ctx).state = .running) →
        ∃ n, exec (.waitWatchdog (.hostQueue f q)) s = .next n ∧ qOf n (qKey f q) = some { x with error := true } ∧ recorded s n 6 5 0x22 4
          ∧ (∀ k, k ≠ qKey f q → qOf n k = qOf s k) ∧ { n with queues := s.queues, faults := s.faults } = s))
  ∧ (∀ (s : State) (u d x : Nat), s.pins.pwrEn = true → u < 256 → d < 6 → ∃ n, exec (.hang u d x) s = .next n ∧ onlyRecord s n ∧ recorded s n 9 1 u d)
  ∧ (∀ (s : State) (who : Who), live s = true → mayWrite who (aFlt 0x38) 4 s → ∃ n, exec (.requestedReset who) s = .next n ∧ onlyRecord s n
      ∧ recorded s n 10 8 0x2C 4)

/-- R495 to R500, R503, R511, Table 15-7: a decided reset copies its cause, floods the abort of KIND 2, triggers a Datum 64 ticks on and begins the dump, in the slot not written last;
with no slot left it goes on without one. A part that is not read in time, or not begun when the time is over, is marked; the end writes the header and its status, and
every byte outside the slot stands. A die over its budget is lost. Then the module is reset: contexts, engines, queues and the mailbox are as after power-on, HBM
stands; where the flash cannot be read it stays in phase 8 with its code, else, when every edge trains, it ends READY. Start-up that lasts raises a record. -/
def Obligations.ChipReset : Prop :=
  (∀ (s : State) (env : StartEnv) (x : Reset), s.pins.pwrEn = true → s.rst = some x → x.phase = 0 → x.t0 < 2 ^ 64 →
    ∃ n y, exec (.chipReset env) s = .next n ∧ n.rst = some y ∧ regWords n (aFlt 0x100) 8 = words64 x.cause.toNat 8
      ∧ fld (regRaw n (aFlt 8)) 31 0 = satAdd 32 (fld (regRaw s (aFlt 8)) 31 0) 1 ∧ bit (regRaw n (aFlt 8)) 36 = !x.lost.isEmpty
      ∧ n.datums = { s.datums with pend := s.datums.pend ++ [(x.t0 + 64, 6)] }
      ∧ (∀ q ∈ floodPorts s, ∃ j, queuedAt q j s n ∧ pOpc j = 0x30 ∧ pOp j 263 256 = 2 ∧ pOp j 370 359 = ownDev s)
      ∧ (∀ i, dumpSlot s x.lost = some i → y = { x with phase := 3, dump := some i, start := now s })
      ∧ (dumpSlot s x.lost = none → y = { x with phase := 4 } ∧ fld (regRaw n (aFlt 8)) 35 34 = 3)
      ∧ n.ctxs = s.ctxs ∧ n.tiles = s.tiles ∧ n.stewards = s.stewards ∧ n.hbm = s.hbm ∧ n.spd = s.spd)
  ∧ (∀ (s : State) (x : Reset), s.pins.pwrEn = true → s.rst = some x →
      (∀ part done, x.phase = 3 → x.reached ≤ part → part < 646 →
        exec (.dumpReadTimeout part done) s = .next { s with rst := some { x with reached := part + 1, bad := x.bad ++ [(part, done)] } })
      ∧ (∀ i base, x.phase = 3 → x.dump = some i → base = slotBase s i → i < 2 → hbmFree s base 0x4000000 → ∃ n, exec .dumpComplete s = .next n
        ∧ n.rst = some { x with phase := 4 } ∧ fld (regRaw n (aFlt 8)) 32 32 = i ∧ fld (regRaw n (aFlt 8)) 35 34 = (if x.bad = [] then 1 else 2)
          ∧ ofBytes (hbmRead n base 4) = 0x504D5544 ∧ hbmRead n (base + 0x8000) 0x4000 = regBytes s (aFlt 0x4000) 0x4000
          ∧ (∀ a, (a < base ∨ base + 0x4000000 ≤ a) → hbmRead n a 1 = hbmRead s a 1) ∧ (∀ a, a ≠ aFlt 8 → regRaw n a = regRaw s a)
          ∧ n.ctxs = s.ctxs ∧ n.tiles = s.tiles ∧ n.spd = s.spd)
      ∧ (∀ i begun, x.phase = 3 → x.dump = some i → x.reached ≤ begun → begun < 647 → x.start + 250000000 < 2 ^ 64 → ∃ n, exec (.dumpExpiry begun) s = .next n
        ∧ n.rst = some { x with phase := 4 } ∧ fld (regRaw n (aFlt 8)) 35 34 = 2 ∧ now n = max (now s) (x.start + 250000000)
        ∧ (∀ a, (a < slotBase s i ∨ slotBase s i + 0x4000000 ≤ a) → hbmRead n a 1 = hbmRead s a 1) ∧ n.ctxs = s.ctxs ∧ n.tiles = s.tiles)
      ∧ (∀ d, d < 4 → (x.phase = 4 ∨ x.phase = 5) → exec (.writeBackBudget d) s = .next { s with rst := some { x with lost := sinsert d x.lost } })
      ∧ (∀ env, x.phase = 4 → env.flashOk = false → (∀ c, c < 16 → (ctxOf s c).state = .free) →
        (s.ctxs.map (·.1)).Nodup → ∃ n y, exec (.chipReset env) s = .next n
        ∧ n.rst = some y ∧ y.phase = 8 ∧ y.lost = x.lost ∧ fld (regRaw n (aCmps 0)) 31 24 = 4 ∧ bit (regRaw n (aCmps 0)) 1 = false ∧ now n = now s
        ∧ n.hbm = s.hbm ∧ n.poison = s.poison ∧ (∀ t k, k < 2 → stOf n t k = {}) ∧ (∀ t, tileOf n t = {}) ∧ (∀ c, (ctxOf n c).state = .free ∧ (ctxOf n c).gen = (ctxOf s c).gen)
        ∧ n.queues = [] ∧ n.qps = [] ∧ n.sessions = [] ∧ n.mrs = [] ∧ n.compass.busy = false ∧ n.compass.answer = none ∧ n.compass.flash = s.compass.flash
        ∧ (∀ i, i < 2048 → regRaw n (aFlt (0x4000 + 8 * i)) = regRaw s (aFlt (0x4000 + 8 * i)))
        ∧ (bit (regRaw s (aCmps 0)) 1 = true → n.pins.alert = true) ∧ n.pending = s.pending)
      ∧ (∀ env, x.phase = 4 → ∃ n, exec (.chipReset env) s = .next n ∧ (∀ y, n.rst = some y → y.phase = 8 ∨ y.phase = 9)
        ∧ (n.rst = none → bit (regRaw n (aCmps 0)) 1 = true ∧ fld (regRaw n (aPwrc 0)) 7 4 = 9))
      ∧ (x.phase = 8 → x.start + 10000000000 < 2 ^ 64 → ∃ n, exec .bootTimeout s = .next n ∧ recorded s n 10 7 0x27 4 ∧ now n = max (now s) (x.start + 10000000000)
        ∧ (∀ a, a ≠ aGlob 0x200000 → regRaw n a = regRaw s a) ∧ { n with regs := s.regs, faults := s.faults } = s)
      ∧ (9 ≤ x.phase → ∃ n, exec .readyTimeout s = .next n ∧ recorded s n 10 7 0x27 4 ∧ onlyRecord s n))

/-! ### Power, clocks and the sideband (R548 to R560, R563, R565, R566, R573 to R576) -/

/-- R548, R549, R552, R553, R556, R559: PWRC_TILE_EN starts the switch of every pair whose bit changes, a pair with a tile in use may not go off, and the write waits for a survey step on
a tile of a pair it clears; the end of a switch shows the domain,
and a tile whose domain comes on is as at power-on. A sample of the rails gives each its voltage and current, and the mean of the last 100 powers its place in
PWRC_POWER; three samples out of tolerance, or a supply's own report, raise a record. A die's temperatures are kept; the loss of a clock clears its bit and is recorded. -/
def Obligations.PowerDomainsAndRails : Prop :=
  (∀ (s : State) (who : Who) (v : Word), live s = true → mayWrite who (aPwrc 0x18) 8 s →
    (s.power.enWait = [] → enHeld s v.toNat = false → (∀ i, i < 64 → bit (regRaw s (aPwrc 0x18)) i = true → bit v.toNat i = false → pairFree s i = true) →
      ∃ n, exec (.tileEn who v) s = .next n ∧ regRaw n (aPwrc 0x18) = v.toNat
        ∧ (∀ i, i < 64 → bit v.toNat i ≠ bit (regRaw s (aPwrc 0x18)) i → (pairDomain i, bit v.toNat i) ∈ n.power.switching)
        ∧ (∀ x ∈ s.power.switching, (∀ i, i < 64 → bit v.toNat i ≠ bit (regRaw s (aPwrc 0x18)) i → x.1 ≠ pairDomain i) → x ∈ n.power.switching)
        ∧ { n.power with switching := s.power.switching } = s.power
        ∧ (∀ a, a ≠ aPwrc 0x18 → regRaw n a = regRaw s a) ∧ { n with regs := s.regs, power := s.power } = s)
    ∧ (∀ i, s.power.enWait = [] → i < 64 → bit (regRaw s (aPwrc 0x18)) i = true → bit v.toNat i = false → pairFree s i = false →
      ∃ n, exec (.tileEn who v) s = .next n ∧ onlyRecord s n)
    ∧ (s.power.enWait ≠ [] ∨ (enHeld s v.toNat = true ∧ ∀ i, i < 64 → bit (regRaw s (aPwrc 0x18)) i = true → bit v.toNat i = false → pairFree s i = true) →
      exec (.tileEn who v) s = .next { s with power := { s.power with enWait := s.power.enWait ++ [(who, v.toNat)] } }))
  ∧ (∀ (s : State) (d k : Nat) (x : Nat × Bool), s.pins.pwrEn = true → d < 4 → k < 16 → s.power.switching.find? (fun x => x.1 = 18 * d + k) = some x →
      ∃ n, exec (.domainSwitchEnd d k) s = .next n ∧ domainOn n (18 * d + k) = x.2
        ∧ (∀ e, e < 80 → e ≠ 18 * d + k → domainOn n e = domainOn s e) ∧ (∀ y ∈ n.power.switching, y.1 ≠ 18 * d + k)
        ∧ (x.2 = true → ∀ t ∈ pairTiles (16 * d + k), tileOf n t = {} ∧ (∀ j, j < 2 → stOf n t j = {}) ∧ ∀ o, o < spdSize → memByte n.spd (t * spdSize + o) = unwritten)
        ∧ (∀ t, t ∉ pairTiles (16 * d + k) → tileOf n t = tileOf s t ∧ (∀ j, j < 2 → stOf n t j = stOf s t j)
            ∧ ∀ o, o < spdSize → memByte n.spd (t * spdSize + o) = memByte s.spd (t * spdSize + o))
        ∧ (x.2 = false → n.tiles = s.tiles ∧ n.stewards = s.stewards ∧ n.spd = s.spd) ∧ n.hbm = s.hbm ∧ n.ctxs = s.ctxs)
  ∧ (∀ (s : State) (l : List RailSample) (p : Nat), s.pins.pwrEn = true → l.length = 16 → p = (l.map (fun x => x.mV * x.cA)).sum →
      ∃ n, exec (.railSample l) s = .next n ∧ n.power.samples = (p :: s.power.samples).take 100
        ∧ (∀ r x, l[r]? = some x → fld (regRaw n (aPwrc (0x100 + 8 * r))) 47 32 = x.mV % 65536 ∧ fld (regRaw n (aPwrc (0x100 + 8 * r))) 63 48 = x.cA % 65536
            ∧ fld (regRaw n (aPwrc (0x100 + 8 * r))) 15 0 = fld (regRaw s (aPwrc (0x100 + 8 * r))) 15 0
            ∧ (x.fault = true → bit (regRaw n (aPwrc (0x100 + 8 * r))) 16 = true)
            ∧ (x.fault = true → bit (regRaw s (aPwrc (0x100 + 8 * r))) 16 = false → recorded s n 10 6 0x28 4)
            ∧ (railOut (fld (regRaw s (aPwrc (0x100 + 8 * r))) 15 0) x.mV = true → (tget n.power.outOf r).getD 0 = (tget s.power.outOf r).getD 0 + 1)
            ∧ (railOut (fld (regRaw s (aPwrc (0x100 + 8 * r))) 15 0) x.mV = false → (tget n.power.outOf r).getD 0 = 0))
        ∧ (p % 100000 = 0 → fld (regRaw n (aPwrc 0x20)) 15 0 = p / 100000 % 65536)
        ∧ (fld (regRaw s (aPwrc 0x24)) 23 12 * 100000 < p → n.power.level = min 7 (s.power.level + 2)) ∧ n.ctxs = s.ctxs ∧ n.hbm = s.hbm ∧ n.spd = s.spd)
  ∧ (∀ (s : State) (l : List Nat), s.pins.pwrEn = true → l.length = 6 → ∃ n, exec (.dieTemperatureSample l) s = .next n
      ∧ (∀ d v, l[d]? = some v → dieTemp n d = v % 256 ∧ n.power.dieTemps[d]? = some ((v :: s.power.dieTemps.getD d []).take 5))
      ∧ (∀ v ∈ l, s.legend.dieCrit ≤ v → recorded s n 10 6 0x28 4) ∧ ((∀ v ∈ l, v < s.legend.dieCrit) → n.faults = s.faults)
      ∧ (∀ a, a ≠ aPwrc 0x30 → a ≠ aPwrc 0x28 → regRaw n a = regRaw s a) ∧ { n with regs := s.regs, power := s.power, faults := s.faults } = s)
  ∧ (∀ (s : State) (i b : Nat) (c : Instr), s.pins.pwrEn = true → (c, b) ∈ [(Instr.referenceLoss false, 0), (.referenceLoss true, 1)] ∨
        (i < 8 ∧ i ≠ 4 ∧ c = .synthesiserLockLoss i ∧ b = 8 + i) → ∃ n, exec c s = .next n ∧ recorded s n 10 6 0x29 4
      ∧ regRaw n aClkc = setBit (regRaw s aClkc) b false ∧ (∀ a, a ≠ aClkc → regRaw n a = regRaw s a) ∧ { n with regs := s.regs, faults := s.faults } = s)

/-- R550, R560, R563, R565, R566, R573 to R576: power comes up through Table 18-5: it stops in phase 8 with its code when the flash cannot be read, else ends READY at step 9. When power goes,
all that is volatile is lost; before a planned removal ends, the Atlas is written and every context ends. SB_POS takes the first valid write since power-up and gives the
module its position; SB_STATUS reads clear the alert; the alert's address is answered only while it is asserted. -/
def Obligations.PowerAndPins : Prop :=
  (∀ (s : State) (env : StartEnv), s.pins.pwrEn = false →
    (env.flashOk = false → ∃ n x, exec (.powerUp env) s = .next n ∧ n.rst = some x ∧ x.phase = 8 ∧ fld (regRaw n (aCmps 0)) 31 24 = 4
      ∧ bit (regRaw n (aCmps 0)) 1 = false ∧ fld (regRaw n (aPwrc 0)) 7 4 = 3 ∧ regRaw n aClkc = 0xEF03 ∧ domainOn n 72 = true ∧ domainOn n 75 = true
      ∧ n.pins = { (powerOff s).pins with pwrEn := true, prsnt := true, safe := true, slotId := env.straps } ∧ n.hbm = [] ∧ n.fuses = s.fuses ∧ n.pending = s.pending)
    ∧ (∃ n, exec (.powerUp env) s = .next n ∧ (∀ x, n.rst = some x → x.phase = 8 ∨ x.phase = 9)
      ∧ (n.rst = none → bit (regRaw n (aCmps 0)) 1 = true ∧ fld (regRaw n (aPwrc 0)) 7 4 = 9))
    ∧ (∀ b, boot true env (powerBegin env s) = (true, b) → env.edgeFail = [] → ∃ n, exec (.powerUp env) s = .next n ∧ n.rst = none
      ∧ (∀ k, k < 20 → stackState n k = if k ∈ env.stackFail then 3 else 1) ∧ (∀ e d, e < 8 → d < 4 → edgeAt e d = true → fld (regRaw n (aDie d (0x100 * e))) 2 0 = 2)
      ∧ (∀ i, i < 64 → domainOn n (pairDomain i) = pairUsable n i)))
  ∧ (∀ (s : State) (env : StartEnv), s.pins.pwrEn = true → exec (.powerUp env) s = .next s)
  ∧ (∀ (s : State), s.pins.pwrEn = true →
      exec .powerLoss s = .next (powerOff s)
      ∧ (∃ n, exec .surpriseRemoval s = .next n ∧ n = { powerOff s with pins := { (powerOff s).pins with prsnt := false } })
      ∧ (∃ n, exec .plannedRemoval s = .next n ∧ powerOff n = n ∧ n.pins.pwrEn = false)
      ∧ ((∀ c, c < 16 → (ctxOf s c).state = .free) → fld (regRaw s (aPwrc 0)) 7 4 < 6 → exec .plannedRemoval s = .next (powerOff s))
      ∧ (∀ k, (∀ c, c < 16 → (ctxOf s c).state = .free) → 6 ≤ fld (regRaw s (aPwrc 0)) 7 4 → k = (regRaw s (aAtl 8) + 1) % 2 ^ 32 → quiet s →
          ∃ n, exec .plannedRemoval s = .next n ∧ flashRead n (atlasBase + 0x10000 * (k % 512)) 0x10000 = atlasRecord s k ∧ n.regs = [] ∧ n.hbm = [])
      ∧ (powerOff s).regs = [] ∧ (powerOff s).hbm = [] ∧ (powerOff s).spd = [] ∧ (powerOff s).tiles = [] ∧ (powerOff s).ctxs = [] ∧ (powerOff s).books = []
      ∧ (powerOff s).compass.flash = s.compass.flash ∧ (powerOff s).fuses = s.fuses ∧ (powerOff s).pins.pwrEn = false)
  ∧ (∀ (s : State) (v : BitVec 32), s.pins.safe = true →
      (sbPosOk s v.toNat = true → ∃ n, exec (.sbPos v) s = .next n ∧ n.pins = { s.pins with posWritten := true, sbPos := BitVec.ofNat 32 (Nat.land v.toNat 0x0FFF0777) }
        ∧ fld (regRaw n (aBlw 0 0x8000)) 3 0 = 2 * fld v.toNat 2 0 + fld s.pins.slotId.toNat 0 0
        ∧ fld (regRaw n (aBlw 0 0x8000)) 7 4 = 2 * fld v.toNat 6 4 + fld s.pins.slotId.toNat 1 1
        ∧ fld (regRaw n (aBlw 0 0x8000)) 11 8 = 2 * fld v.toNat 10 8 + fld s.pins.slotId.toNat 2 2
        ∧ ownDev n = 256 * fld (regRaw n (aBlw 0 0x8000)) 11 8 + 16 * fld (regRaw n (aBlw 0 0x8000)) 7 4 + fld (regRaw n (aBlw 0 0x8000)) 3 0
        ∧ bit (regRaw n (aBlw 0 0x8000)) 31 = true ∧ fld (regRaw n (aBlw 0 0x8008)) 11 0 = fld v.toNat 27 16
        ∧ n.ctxs = s.ctxs ∧ n.hbm = s.hbm ∧ n.tiles = s.tiles ∧ (s.rst.isSome = true → n.links = s.links))
      ∧ (sbPosOk s v.toNat = false → exec (.sbPos v) s = .next { s with pins := { s.pins with posWritten := true } })
      ∧ exec .sbStatusRead s = .next { s with pins := { s.pins with sbSent := s.pins.sbSent ++ [sbStatus s], alert := false } }
      ∧ (s.pins.alert = true → exec .alertResponse s = .next { s with pins := { s.pins with sbSent := s.pins.sbSent ++ [0x58 + s.pins.slotId.toNat] } })
      ∧ (s.pins.alert = false → exec .alertResponse s = .next s))

/-! ### The service mailbox and the Compass cores (R507, R514 to R518, R521 to R525, R542) -/

/-- R516 to R518, R523 to R525, Tables 16-8 to 16-10: a request with a reserved bit gets STATUS 2. IDENTITY answers with the serial, the base MAC and the public key; ATTEST, CERT_READ and
LEGEND_READ write at OUT, inside F0's queue range, what they name. STAGE erases the slot that is not ACTIVE and programs the image; SELECT makes a valid slot pending, or ends
what is pending; COMMIT_SVN raises the anti-rollback fuse between its bounds. The response is written to the mailbox whole, then GO and BUSY clear. -/
def Obligations.ServiceRequests : Prop :=
  (∀ (s : State) (v op : Nat) (i : Instr) (f : FlashEnd), quiet s → reqAt s op v → reqReserved v = true →
    (op, i) ∈ [(0x01, Instr.identity), (0x02, .attest), (0x03, .certRead f), (0x10, .stage f), (0x11, .select f), (0x12, .commitSvn), (0x13, .legendRead)] →
    ∃ n, exec i s = .next n ∧ responded v 2 0 s n)
  ∧ (∀ (s : State) (v : Nat), quiet s → reqReserved v = false →
      (reqAt s 0x01 v → ∃ n r, exec .identity s = .next n ∧ responded v 0 r s n ∧ fld r 63 0 = s.fuses.serial.toNat ∧ fld r 127 80 = s.fuses.baseMac.toNat
        ∧ fld r 79 64 = 1 ∧ fld r 639 128 = ofBytes (publicKey (identityKey s)))
      ∧ (∀ a g, reqAt s 0x02 v → a = fld v 127 64 → g = ecdsaSign (identityKey s) (sha256 (reportBody (fld v 383 128) s)) → serviceRange s a 384 = true →
          memAvailable s a (320 + g.length) = true → hbmFree s a (320 + g.length) → ∃ n, exec .attest s = .next n ∧ n.compass.answer = some (response v 0 0)
            ∧ hbmRead n a 320 = reportBody (fld v 383 128) s ∧ hbmRead n (a + 320) g.length = g
            ∧ (∀ b, (b < a ∨ a + 320 + g.length ≤ b) → hbmRead n b 1 = hbmRead s b 1) ∧ n.regs = s.regs ∧ n.spd = s.spd)
      ∧ (reqAt s 0x02 v → serviceRange s (fld v 127 64) 384 = false → ∃ n, exec .attest s = .next n ∧ responded v 3 0 s n)
      ∧ (∀ a d, reqAt s 0x03 v → a = fld v 127 64 → d = certificate s → serviceRange s a d.length = true → memAvailable s a d.length = true → hbmFree s a d.length →
          (∃ n, exec (.certRead .ok) s = .next n ∧ n.compass.answer = some (response v 0 (d.length <<< 64)) ∧ hbmRead n a d.length = d
            ∧ (∀ b, (b < a ∨ a + d.length ≤ b) → hbmRead n b 1 = hbmRead s b 1) ∧ n.regs = s.regs)
          ∧ (∃ n, exec (.certRead .error) s = .next n ∧ responded v 5 0 s n))
      ∧ (∀ a d, reqAt s 0x13 v → a = fld v 191 128 → (legendDir s.compass.legendImg).bind (fun es => legendTable s.compass.legendImg es (fld v 79 64)) = some d →
          serviceRange s a d.length = true → memAvailable s a d.length = true → hbmFree s a d.length → ∃ n, exec .legendRead s = .next n
            ∧ n.compass.answer = some (response v 0 (d.length <<< 128)) ∧ hbmRead n a d.length = d ∧ n.regs = s.regs)
      ∧ (reqAt s 0x13 v → (legendDir s.compass.legendImg).bind (fun es => legendTable s.compass.legendImg es (fld v 79 64)) = none →
          ∃ n, exec .legendRead s = .next n ∧ responded v 2 0 s n))
  ∧ (∀ (s : State) (v a k i : Nat), quiet s → reqReserved v = false → reqAt s 0x10 v → a = fld v 127 64 → k = fld v 159 128 →
      i = 1 - recActive (bootRecord s).2 →
      (∀ f, flashSlotSize < k → ∃ n, exec (.stage f) s = .next n ∧ responded v 2 0 s n)
      ∧ (∀ f, k ≤ flashSlotSize → serviceRange s a k = false → ∃ n, exec (.stage f) s = .next n ∧ responded v 3 0 s n)
      ∧ (k ≤ flashSlotSize → serviceRange s a k = true → recPend (bootRecord s).2 = false →
          (∃ n, exec (.stage .error) s = .next n ∧ n.compass.answer = some (response v 5 0) ∧ (∀ p ∈ n.compass.flash, p.1 < flashSlot i ∨ flashSlot i + flashSlotSize ≤ p.1)
            ∧ { n with compass := s.compass } = s)
          ∧ (∃ n, exec (.stage .ok) s = .next n ∧ flashRead n (flashSlot i) k = hbmRead s a k
            ∧ n.compass.answer = some (if slotValid n i = true then response v 0 (i <<< 96 + manSvn (manifestOf n i) <<< 128 + manVersion (manifestOf n i) <<< 160)
                else response v 4 0) ∧ { n with compass := s.compass, stackCtl := s.stackCtl, flits := s.flits } = s)))
  ∧ (∀ (s : State) (v i : Nat), quiet s → flashSorted s → reqReserved v = false → reqAt s 0x11 v → i = fld v 71 64 →
      (i < 2 → i ≠ recActive (bootRecord s).2 → slotValid s i = true →
          (∃ n, exec (.select .ok) s = .next n ∧ n.compass.answer = some (response v 0 0) ∧ recPend (bootRecord n).2 = true ∧ recPendSlot (bootRecord n).2 = i
            ∧ recTries (bootRecord n).2 = 0 ∧ recActive (bootRecord n).2 = recActive (bootRecord s).2 ∧ { n with compass := s.compass, regs := s.regs } = s)
          ∧ (∃ n, exec (.select .error) s = .next n ∧ n.compass.answer = some (response v 5 0) ∧ { n with compass := s.compass } = s))
      ∧ (∀ f, i < 2 → (i = recActive (bootRecord s).2 ∨ slotValid s i = false) → ∃ n, exec (.select f) s = .next n ∧ responded v 6 0 s n)
      ∧ (∀ f, 1 < i → i ≠ 0xFF → ∃ n, exec (.select f) s = .next n ∧ responded v 2 0 s n)
      ∧ (i = 0xFF → recPend (bootRecord s).2 = true → ∃ n, exec (.select .ok) s = .next n ∧ n.compass.answer = some (response v 0 0)
          ∧ recPend (bootRecord n).2 = false ∧ recActive (bootRecord n).2 = recActive (bootRecord s).2 ∧ { n with compass := s.compass, regs := s.regs } = s)
      ∧ (∀ f, i = 0xFF → recPend (bootRecord s).2 = false → ∃ n, exec (.select f) s = .next n ∧ responded v 0 0 s n))
  ∧ (∀ (s : State) (v k : Nat), quiet s → reqReserved v = false → reqAt s 0x12 v → k = fld v 95 64 →
      (s.fuses.fsvn ≤ k → k ≤ manSvn (manifestOf s (recActive (bootRecord s).2)) → ∃ n, exec .commitSvn s = .next n ∧ n.fuses = { s.fuses with fsvn := k }
        ∧ n.compass.answer = some (response v 0 (k <<< 32)) ∧ { n with fuses := s.fuses, compass := s.compass, regs := s.regs } = s)
      ∧ (k < s.fuses.fsvn ∨ manSvn (manifestOf s (recActive (bootRecord s).2)) < k → ∃ n, exec .commitSvn s = .next n ∧ responded v 6 0 s n))
  ∧ (∀ (s : State) (d : List Byte), quiet s → live s = true → bit (regRaw s (aCmps 8)) 0 = true → s.compass.busy = true →
      (coreState s 0 = 0 ∧ knownOps.contains (fld (reqOf s) 7 0) = true ∧ s.compass.answer = some d
        ∨ coreState s 0 = 0 ∧ knownOps.contains (fld (reqOf s) 7 0) = false ∧ d = response (reqOf s) 1 0
        ∨ coreState s 0 = 2 ∧ d = response (reqOf s) 7 0) →
      ∃ n, exec .serviceResponse s = .next n ∧ regWords n (aCmps 0x200) 32 = words64 (ofBytes d) 32 ∧ regRaw n (aCmps 8) = 0 ∧ bit (regRaw n (aCmps 0)) 0 = false
        ∧ n.compass = { s.compass with busy := false, answer := none } ∧ (∀ a, a ≠ aCmps 0 → a ≠ aCmps 8 → (a < aCmps 0x200 ∨ aCmps 0x300 ≤ a) → regRaw n a = regRaw s a)
        ∧ { n with regs := s.regs, compass := s.compass } = s)

/-- R521, R522, R542: a running core that its watchdog or another cause takes down restarts: its count and its cause are kept and a record is raised; the boot core's response is lost. The
restart's end lets it run again, or it has FAILED. The boot core writes the next Atlas record to the sector of its number; a failed write leaves that sector erased and FLASH_ERR
set. -/
def Obligations.CoreRestarts : Prop :=
  (∀ (s : State) (c k : Nat) (i : Instr), live s = true → c < 4 → coreState s c = 0 → (i = .coreWatchdog c ∧ k = 1 ∨ i = .coreRestart c k ∧ 2 ≤ k ∧ k ≤ 4) →
    ∃ n, exec i s = .next n ∧ coreState n c = 1 ∧ fld (regRaw n (aCmps (0x20 + 4 * c))) 23 16 = k
      ∧ fld (regRaw n (aCmps (0x20 + 4 * c))) 15 8 = satAdd 8 (fld (regRaw s (aCmps (0x20 + 4 * c))) 15 8) 1
      ∧ regRaw n (aCmps 0x10) = satAdd 64 (regRaw s (aCmps 0x10)) 1 ∧ bit (regRaw n (aCmps 0)) (8 + c) = false ∧ recorded s n 12 1 0x27 4
      ∧ n.compass = { s.compass with answer := if c = 0 then none else s.compass.answer, restarts := s.compass.restarts ++ [now s] }
      ∧ (3 ≤ (n.compass.restarts.filter (fun t => decide (now s < t + 600000000000))).length → bit (regRaw n (aCmps 0)) 2 = true)
      ∧ ((n.compass.restarts.filter (fun t => decide (now s < t + 600000000000))).length < 3 → bit (regRaw n (aCmps 0)) 2 = bit (regRaw s (aCmps 0)) 2)
      ∧ (∀ d, d < 4 → d ≠ c → coreState n d = coreState s d) ∧ { n with regs := s.regs, compass := s.compass, faults := s.faults } = s)
  ∧ (∀ (s : State) (c k : Nat), live s = true → c < 4 → coreState s c ≠ 0 → exec (.coreWatchdog c) s = .next s
      ∧ (2 ≤ k → k ≤ 4 → exec (.coreRestart c k) s = .next s))
  ∧ (∀ (s : State) (c : Nat), live s = true → c < 4 → coreState s c = 1 →
      (∃ n, exec (.restartEnd c true) s = .next n ∧ coreState n c = 0 ∧ bit (regRaw n (aCmps 0)) (8 + c) = true ∧ n.ctxs = s.ctxs ∧ n.spd = s.spd)
      ∧ (∃ n, exec (.restartEnd c false) s = .next n ∧ coreState n c = 2 ∧ (∀ a, a ≠ aCmps (0x20 + 4 * c) → regRaw n a = regRaw s a)
          ∧ { n with regs := s.regs } = s))
  ∧ (∀ (s : State) (b : Bool), live s = true → ∀ c, c < 4 → coreState s c ≠ 1 → exec (.restartEnd c b) s = .next s)
  ∧ (∀ (s : State) (k a : Nat), live s = true → quiet s → k = (regRaw s (aAtl 8) + 1) % 2 ^ 32 → a = atlasBase + 0x10000 * (k % 512) →
      (coreRuns s 0 = true → (∃ n, exec (.atlasWrite .ok) s = .next n ∧ flashRead n a 0x10000 = atlasRecord s k ∧ regRaw n (aAtl 8) = k ∧ bit (regRaw n (aAtl 4)) 1 = false
          ∧ { n with regs := s.regs, compass := s.compass } = s)
        ∧ (∃ n, exec (.atlasWrite .error) s = .next n ∧ (∀ p ∈ n.compass.flash, p.1 < a ∨ a + 0x10000 ≤ p.1) ∧ bit (regRaw n (aAtl 4)) 1 = true
          ∧ (∀ b, b ≠ aAtl 4 → regRaw n b = regRaw s b) ∧ { n with regs := s.regs, compass := s.compass } = s))
      ∧ ∀ e, coreRuns s 0 = false → exec (.atlasWrite e) s = .next s)

/-! ### The Datum and the Atlas (R529 to R533, R537 to R541, R543) -/

/-- R529 to R533, R537, R538: a command, a pin's edge, a match of the counter or a fabric datum triggers a latch at its tick when the source's enable is set, else it counts as missed. A fabric
datum goes out by every torus and buddy port that is UP, and goes on where it was not seen before; one that comes late counts. At the earliest tick every area takes its copy
under one number when DAT_CTL.ARM is set, which then clears, or when a chip reset asked for it.
R539 to R541, R543: a sample counts one bin for each temperature sensor, by its latest report, and for each rail, by its distance from the set-point, and one interval of powered time; the
counts saturate. A rotation of the buckets empties the oldest, which is then the current one; everything else of the record stands. -/
def Obligations.DatumAndAtlas : Prop :=
  ((∀ (s : State) (who : Who), live s = true → mayWrite who (aDat 8) 4 s →
    exec (.trigger who) s = .next { s with datums := { s.datums with pend := s.datums.pend ++ [(now s + 64, 0)] } }
    ∧ (∀ t, t = regRaw s (aDat 0x20) → ∃ n, exec (.fabricDatum who) s = .next n ∧ n.datums.number = (s.datums.number + 1) % 65536
        ∧ n.datums.seen = seePair s.datums.seen (ownDev s, s.datums.number)
        ∧ (∀ q ∈ floodPorts s, ∃ j, queuedAt q j s n ∧ pOpc j = 0x48 ∧ pOp j 271 264 = 3 ∧ pOp j 287 272 = s.datums.number % 65536 ∧ pOp j 351 288 = t % 2 ^ 64)
        ∧ (∀ q, q ∉ floodPorts s → linkOf n q = linkOf s q)
        ∧ (t ≤ now s → n.datums.pend = s.datums.pend ∧ regRaw n (aDat 0x38) = satAdd 64 (regRaw s (aDat 0x38)) 1)
        ∧ (now s < t → srcEnabled s 5 = true → n.datums.pend = s.datums.pend ++ [(t, 5)] ∧ n.regs = s.regs)
        ∧ (now s < t → srcEnabled s 5 = false → n.datums.pend = s.datums.pend ∧ regRaw n (aDat 0x28) = satAdd 64 (regRaw s (aDat 0x28)) 1)
        ∧ { n with datums := s.datums, links := s.links, sentBlks := s.sentBlks, flits := s.flits, regs := s.regs } = s))
  ∧ (∀ (s : State) (p t : Nat) (k : Packet) (x : Nat × Nat), mgmtAt s p 3 k → t = pOp k 351 288 → x = (pSrc k, pOp k 287 272) →
      (s.datums.seen.contains x = true → ∃ n, exec (.fdatum p k) s = .next n ∧ tookIn p p k s n ∧ { n with links := s.links, sentBlks := s.sentBlks, flits := s.flits } = s)
      ∧ (s.datums.seen.contains x = false → now s < t → srcEnabled s 5 = true → ∃ n, exec (.fdatum p k) s = .next n
          ∧ n.datums = { s.datums with seen := seePair s.datums.seen x, pend := s.datums.pend ++ [(t, 5)] }
          ∧ (∀ q ∈ floodPorts s, q ≠ p → queuedAt q k s n) ∧ { n with links := s.links, sentBlks := s.sentBlks, flits := s.flits, datums := s.datums } = s)
      ∧ (s.datums.seen.contains x = false → t ≤ now s → ∃ n, exec (.fdatum p k) s = .next n ∧ n.datums = { s.datums with seen := seePair s.datums.seen x }
          ∧ regRaw n (aDat 0x38) = satAdd 64 (regRaw s (aDat 0x38)) 1 ∧ (∀ a, a ≠ aDat 0x38 → regRaw n a = regRaw s a)
          ∧ (∀ q ∈ floodPorts s, q ≠ p → queuedAt q k s n) ∧ { n with links := s.links, sentBlks := s.sentBlks, flits := s.flits, datums := s.datums, regs := s.regs } = s))
  ∧ (∀ (s : State) (m : Nat), live s = true → m = regRaw s (aDat 0x18) →
      (s.datums.matched = false → s.datums.lateMatch = false → now s ≤ m → ∃ n, exec .timeMatch s = .next n ∧ now n = m ∧ bit (datCtl n) 11 = false
        ∧ (srcEnabled s 3 = true → n.datums = { s.datums with matched := true, lateMatch := false, pend := s.datums.pend ++ [(m, 3)] })
        ∧ (srcEnabled s 3 = false → n.datums = { s.datums with matched := true, lateMatch := false } ∧ regRaw n (aDat 0x28) = satAdd 64 (regRaw s (aDat 0x28)) 1)
        ∧ { n with regs := s.regs, datums := s.datums } = s)
      ∧ (s.datums.matched = false → s.datums.lateMatch = true → now s + 1 < 2 ^ 64 → srcEnabled s 3 = true → ∃ n, exec .timeMatch s = .next n ∧ now n = now s + 1
        ∧ n.datums = { s.datums with matched := true, lateMatch := false, pend := s.datums.pend ++ [(now s + 1, 3)] } ∧ bit (datCtl n) 11 = false)
      ∧ ((s.datums.matched = true ∨ s.datums.lateMatch = false ∧ m < now s) → exec .timeMatch s = .next s))
  ∧ (∀ (s : State) (r : Bool), live s = true → (bit (datCtl s) 20 = r → srcEnabled s 4 = true →
        exec (.datumIn r) s = .next { s with datums := { s.datums with pend := s.datums.pend ++ [(now s + 64, 4)] } })
      ∧ (bit (datCtl s) 20 = r → srcEnabled s 4 = false → exec (.datumIn r) s = .next (regCount (aDat 0x28) 1 s))
      ∧ (bit (datCtl s) 20 ≠ r → exec (.datumIn r) s = .next s))
  ∧ (∀ (s : State) (l : Nat) (src : List Nat), s.pins.pwrEn = true → nextTriggers s = some (l, src) → l < 2 ^ 64 →
      ∃ n, exec .latch s = .next n ∧ now n = max (now s) l ∧ n.datums = { s.datums with pend := s.datums.pend.filter (fun q => q.1 ≠ l) }
        ∧ { n with regs := s.regs, datums := s.datums } = s
        ∧ (bit (datCtl s) 0 = true ∨ 6 ∈ src → regRaw n (aDat 0x40) = (regRaw s (aDat 0x40) + 1) % 2 ^ 32 ∧ regRaw n (aDat 0x10) = l ∧ bit (datCtl n) 0 = false
          ∧ (∀ t, t < 128 → regRaw n (aTile t 8 0) = regRaw n (aDat 0x40) ∧ regRaw n (aTile t 8 0x108) = (stOf s t 0).pc.toNat
              ∧ regRaw n (aTile t 8 0x118) = (stOf s t 1).pc.toNat)
          ∧ (∀ c, c < 16 → (ctxOf s c).func < 16 → (ctxOf s c).lastResult < 65536 → fld (regRaw n (aDat (0x50100 + 8 * c))) 47 32 = (ctxOf s c).gen.toNat))
        ∧ (bit (datCtl s) 0 = false → 6 ∉ src → regRaw n (aDat 0x28) = satAdd 64 (regRaw s (aDat 0x28)) src.length
          ∧ ∀ a, a ≠ aDat 0x28 → a ≠ aGlob 0x200000 → regRaw n a = regRaw s a))
  ∧ (∀ (s : State), s.pins.pwrEn = true → s.datums.pend = [] → exec .latch s = .next s))
  ∧ ((∀ (s : State) (l : List Nat), live s = true → l.length = 16 → ∃ n, exec (.atlSample l) s = .next n
    ∧ (∀ d, d < 6 → img32 n (0x100 + 72 * d + 4 * tempBin (dieTemp s d)) = satAdd 32 (img32 s (0x100 + 72 * d + 4 * tempBin (dieTemp s d))) 1)
    ∧ (∀ k, k < 20 → img32 n (0x100 + 72 * (6 + k) + 4 * tempBin (stackTemp s k)) = satAdd 32 (img32 s (0x100 + 72 * (6 + k) + 4 * tempBin (stackTemp s k))) 1)
    ∧ (∀ r v b : Nat, l[r]? = some v → b = voltBin ((v : Int) - (fld (regRaw s (aPwrc (0x100 + 8 * r))) 15 0 : Int)) →
        img32 n (0x900 + 72 * r + 4 * b) = satAdd 32 (img32 s (0x900 + 72 * r + 4 * b)) 1)
    ∧ (∀ d b, d < 26 → b < 18 → b ≠ tempBin (if d < 6 then dieTemp s d else stackTemp s (d - 6)) → img32 n (0x100 + 72 * d + 4 * b) = img32 s (0x100 + 72 * d + 4 * b))
    ∧ regRaw n (aImg 0x40) = satAdd 64 (regRaw s (aImg 0x40)) 1
    ∧ (∀ a, (a < aAtl 0x10000 ∨ aAtl 0x20000 ≤ a) → a ≠ aAtl 0x10 → regRaw n a = regRaw s a) ∧ { n with regs := s.regs } = s)
  ∧ (∀ (s : State), live s = true → ∃ n, exec .bucketRotation s = .next n ∧ n.power = { s.power with bucket := s.power.bucket + 1 }
      ∧ (∀ i, i < 12 → img32 n (0x1E00 + 48 * (s.power.bucket + 1).val + 4 * i) = 0)
      ∧ (∀ h i, h < 24 → h ≠ (s.power.bucket + 1).val → i < 12 → img32 n (0x1E00 + 48 * h + 4 * i) = img32 s (0x1E00 + 48 * h + 4 * i))
      ∧ (∀ a, (a < aImg (0x1E00 + 48 * (s.power.bucket + 1).val) ∨ aImg (0x1E00 + 48 * (s.power.bucket + 1).val) + 48 ≤ a) → regRaw n a = regRaw s a)
      ∧ { n with regs := s.regs, power := s.power } = s)
  ∧ (∀ v, tempBin v < 18) ∧ (∀ v, voltBin v < 18) ∧ (∀ v, 50 ≤ v → v < 210 → 10 * tempBin v + 40 ≤ v ∧ v < 10 * tempBin v + 50))

end
end

