-- ==== Sys2Proof/Laws/Tables.lean ====
section
/-!
SUPPORT. The laws of tables and memories: a read after a write of the same key gives what was written, every other key is as before, and the
canonical form is kept.
-/

namespace Sys2Proof.Machine

variable {α : Type}

/-! ### Reads after writes -/

theorem tget_tput (t : Tab α) (k : Nat) (v : α) (j : Nat) : tget (tput t k v) j = if j = k then some v else tget t j := by
  induction t with
  | nil => by_cases h : k = j <;> simp [tput, tget, h, eq_comm]
  | cons p r ih =>
    obtain ⟨k', v'⟩ := p
    by_cases h1 : k < k'
    · by_cases h : j = k
      · subst h; simp [tput, tget, h1]
      · have : k ≠ j := fun e => h e.symm
        simp [tput, tget, h1, h, this]
    · by_cases h2 : k = k'
      · subst h2
        by_cases h : j = k
        · subst h; simp [tput, tget]
        · have : k ≠ j := fun e => h e.symm
          simp [tput, tget, h, this]
      · by_cases h3 : k' = j
        · subst h3
          have : k' ≠ k := fun e => h2 e.symm
          simp [tput, tget, h1, h2, this]
        · simp [tput, tget, h1, h2, h3, ih]

theorem tget_tdel (t : Tab α) (k j : Nat) : tget (tdel t k) j = if j = k then none else tget t j := by
  induction t with
  | nil => simp [tdel, tget]
  | cons p r ih =>
    obtain ⟨k', v'⟩ := p
    by_cases h1 : k' = k
    · subst h1
      by_cases h : j = k'
      · subst h; simpa [tdel] using ih
      · have : k' ≠ j := fun e => h e.symm
        simp [tdel, tget, ih, h, this]
    · by_cases h3 : k' = j
      · subst h3; simp [tdel, tget, h1]
      · simp [tdel, tget, h1, h3, ih]

/-- A read of a table after a write. -/
theorem tgetD_tset [DecidableEq α] (d : α) (t : Tab α) (k : Nat) (v : α) (j : Nat) :
    tgetD d (tset d t k v) j = if j = k then v else tgetD d t j := by
  unfold tgetD tset
  by_cases hv : v = d
  · by_cases h : j = k <;> simp [hv, tget_tdel, h]
  · by_cases h : j = k <;> simp [hv, tget_tput, h]

@[simp] theorem tgetD_tset_self [DecidableEq α] (d : α) (t : Tab α) (k : Nat) (v : α) : tgetD d (tset d t k v) k = v := by
  simp [tgetD_tset]

@[simp] theorem tgetD_tset_ne [DecidableEq α] (d : α) (t : Tab α) (k : Nat) (v : α) {j : Nat} (h : j ≠ k) :
    tgetD d (tset d t k v) j = tgetD d t j := by
  simp [tgetD_tset, h]

/-- A write leaves the entries of other keys. -/
theorem tget_tset_ne [DecidableEq α] (d : α) (t : Tab α) (k : Nat) (v : α) {j : Nat} (h : j ≠ k) : tget (tset d t k v) j = tget t j := by
  unfold tset
  split
  · simp [tget_tdel, h]
  · simp [tget_tput, h]

/-! ### The canonical form -/

theorem sortedFrom_weaken {b c : Nat} (h : b ≤ c) {t : Tab α} (hs : sortedFrom (some c) t = true) : sortedFrom (some b) t = true := by
  cases t with
  | nil => rfl
  | cons p r =>
    obtain ⟨k, v⟩ := p
    simp only [sortedFrom, Bool.and_eq_true, decide_eq_true_eq] at hs ⊢
    exact ⟨by omega, hs.2⟩

theorem sortedFrom_tput {b k : Nat} (hb : b < k) (v : α) {t : Tab α} (hs : sortedFrom (some b) t = true) :
    sortedFrom (some b) (tput t k v) = true := by
  induction t generalizing b with
  | nil => simp [tput, sortedFrom, hb]
  | cons p r ih =>
    obtain ⟨k', v'⟩ := p
    simp only [sortedFrom, Bool.and_eq_true, decide_eq_true_eq] at hs
    by_cases h1 : k < k'
    · simp [tput, h1, sortedFrom, hb, hs.2]
    · by_cases h2 : k = k'
      · subst h2; simp [tput, sortedFrom, hb, hs.2]
      · have : k' < k := by omega
        simp [tput, h1, h2, sortedFrom, hs.1, ih this hs.2]

theorem sortedFrom_tdel {b : Nat} (k : Nat) {t : Tab α} (hs : sortedFrom (some b) t = true) : sortedFrom (some b) (tdel t k) = true := by
  induction t generalizing b with
  | nil => rfl
  | cons p r ih =>
    obtain ⟨k', v'⟩ := p
    simp only [sortedFrom, Bool.and_eq_true, decide_eq_true_eq] at hs
    by_cases h : k' = k
    · simp only [tdel, if_pos h]; exact ih (sortedFrom_weaken (by omega) hs.2)
    · simp only [tdel, if_neg h, sortedFrom, Bool.and_eq_true, decide_eq_true_eq]; exact ⟨hs.1, ih hs.2⟩

theorem sorted_tput (k : Nat) (v : α) {t : Tab α} (hs : sortedFrom none t = true) : sortedFrom none (tput t k v) = true := by
  cases t with
  | nil => rfl
  | cons p r =>
    obtain ⟨k', v'⟩ := p
    simp only [sortedFrom] at hs
    by_cases h1 : k < k'
    · simp [tput, h1, sortedFrom, hs]
    · by_cases h2 : k = k'
      · subst h2; simp [tput, sortedFrom, hs]
      · simp [tput, h1, h2, sortedFrom, sortedFrom_tput (by omega : k' < k) v hs]

theorem sorted_tdel (k : Nat) {t : Tab α} (hs : sortedFrom none t = true) : sortedFrom none (tdel t k) = true := by
  induction t with
  | nil => rfl
  | cons p r ih =>
    obtain ⟨k', v'⟩ := p
    simp only [sortedFrom] at hs
    by_cases h : k' = k
    · simp only [tdel, if_pos h]
      refine ih ?_
      cases r with
      | nil => rfl
      | cons q r' =>
        obtain ⟨k2, v2⟩ := q
        simp only [sortedFrom, Bool.and_eq_true] at hs ⊢
        exact hs.2
    · simp only [tdel, if_neg h, sortedFrom]; exact sortedFrom_tdel k hs

theorem all_tput {p : Nat × α → Bool} {k : Nat} {v : α} (hp : p (k, v) = true) {t : Tab α} (h : t.all p = true) : (tput t k v).all p = true := by
  induction t with
  | nil => simp [tput, hp]
  | cons q r ih =>
    obtain ⟨k', v'⟩ := q
    simp only [List.all_cons, Bool.and_eq_true] at h
    by_cases h1 : k < k'
    · simp only [tput, if_pos h1, List.all_cons, hp, h.1, Bool.true_and]
      exact h.2
    · by_cases h2 : k = k'
      · simp only [tput, if_neg h1, if_pos h2, List.all_cons, hp, h.2, Bool.and_self]
      · simp only [tput, if_neg h1, if_neg h2, List.all_cons, h.1, ih h.2, Bool.and_self]

theorem all_tdel {p : Nat × α → Bool} (k : Nat) {t : Tab α} (h : t.all p = true) : (tdel t k).all p = true := by
  induction t with
  | nil => rfl
  | cons q r ih =>
    obtain ⟨k', v'⟩ := q
    simp only [List.all_cons, Bool.and_eq_true] at h
    by_cases h1 : k' = k
    · simp only [tdel, if_pos h1]; exact ih h.2
    · simp only [tdel, if_neg h1, List.all_cons, h.1, ih h.2, Bool.and_self]

/-- A write keeps the canonical form. -/
theorem tabWf_tset [DecidableEq α] {d : α} {t : Tab α} (k : Nat) (v : α) (h : tabWf d t = true) : tabWf d (tset d t k v) = true := by
  unfold tabWf at h ⊢
  rw [Bool.and_eq_true] at h
  unfold tset
  by_cases hv : v = d
  · simp only [if_pos hv, sorted_tdel k h.1, all_tdel k h.2, Bool.and_self]
  · rw [if_neg hv, sorted_tput k v h.1, Bool.true_and]
    exact all_tput (p := fun p => decide (p.2 ≠ d)) (by simpa using hv) h.2

theorem sortedFrom_filter {b : Nat} (p : Nat × α → Bool) {t : Tab α} (hs : sortedFrom (some b) t = true) :
    sortedFrom (some b) (t.filter p) = true := by
  induction t generalizing b with
  | nil => rfl
  | cons q r ih =>
    obtain ⟨k, v⟩ := q
    simp only [sortedFrom, Bool.and_eq_true, decide_eq_true_eq] at hs
    by_cases h : p (k, v) = true
    · simp only [List.filter_cons, h, if_true, sortedFrom, Bool.and_eq_true, decide_eq_true_eq]; exact ⟨hs.1, ih hs.2⟩
    · simp only [List.filter_cons, h]; exact ih (sortedFrom_weaken (by omega) hs.2)

/-- A table with entries left out keeps the canonical form. -/
theorem tabWf_filter [DecidableEq α] {d : α} {t : Tab α} (p : Nat × α → Bool) (h : tabWf d t = true) : tabWf d (t.filter p) = true := by
  unfold tabWf at h ⊢
  rw [Bool.and_eq_true] at h ⊢
  refine ⟨?_, ?_⟩
  · have h1 := h.1
    clear h
    induction t with
    | nil => rfl
    | cons q r ih =>
      obtain ⟨k, v⟩ := q
      simp only [sortedFrom] at h1
      by_cases hp : p (k, v) = true
      · simp only [List.filter_cons, hp, if_true, sortedFrom]; exact sortedFrom_filter p h1
      · simp only [List.filter_cons, hp]
        refine ih ?_
        cases r with
        | nil => rfl
        | cons q' r' =>
          obtain ⟨k2, v2⟩ := q'
          simp only [sortedFrom, Bool.and_eq_true] at h1 ⊢
          exact h1.2
  · rw [List.all_eq_true] at h ⊢
    intro x hx
    exact h.2 x (List.mem_of_mem_filter hx)

/-! ### Memories -/

/-- A memory keeps its canonical form through a write of bytes, and through the clearing of a range. -/
theorem memWrite_wf {m : Tab Byte} (d : List Byte) (a : Nat) (h : Memory.wf m = true) : Memory.wf (memWrite m a d) = true := by
  induction d generalizing m a with
  | nil => exact h
  | cons b r ih => exact ih (a + 1) (tabWf_tset a b h)

theorem memZero_wf {m : Tab Byte} (lo hi : Nat) (h : Memory.wf m = true) : Memory.wf (memZero m lo hi) = true := tabWf_filter _ h

/-- A byte outside the range written is as before. -/
theorem memByte_memWrite_out {m : Tab Byte} (d : List Byte) (a j : Nat) (h : j < a ∨ a + d.length ≤ j) :
    memByte (memWrite m a d) j = memByte m j := by
  induction d generalizing m a with
  | nil => rfl
  | cons b r ih =>
    simp only [List.length_cons] at h
    have hne : j ≠ a := by omega
    rw [memWrite, ih (a + 1) (by omega)]
    simp [memByte, hne]

/-- A byte inside the range reads as written. -/
theorem memByte_memWrite_in {m : Tab Byte} (d : List Byte) (a i : Nat) (h : i < d.length) :
    memByte (memWrite m a d) (a + i) = d[i] := by
  induction d generalizing m a i with
  | nil => simp at h
  | cons b r ih =>
    cases i with
    | zero =>
      rw [Nat.add_zero, memWrite, memByte_memWrite_out r (a + 1) a (by omega)]
      simp [memByte]
    | succ i =>
      have h' : i < r.length := by simpa using h
      have := ih (m := tset unwritten m a b) (a + 1) i h'
      rw [memWrite, show a + (i + 1) = a + 1 + i by omega, this]
      simp

end Sys2Proof.Machine
end

