-- ==== Sys2Proof/Laws/State.lean ====
section
/-!
SUPPORT. What every update of the state leaves as it was, field by field, and what a read gives after an update.
-/

namespace Sys2Proof.Machine

/-! ### regPut -/

@[simp] theorem regPut_pending (a v : Nat) (s : State) : (regPut a v s).pending = s.pending := (rfl)
@[simp] theorem regPut_hbm (a v : Nat) (s : State) : (regPut a v s).hbm = s.hbm := (rfl)
@[simp] theorem regPut_pin (a v : Nat) (s : State) : (regPut a v s).pin = s.pin := (rfl)
@[simp] theorem regPut_spd (a v : Nat) (s : State) : (regPut a v s).spd = s.spd := (rfl)
@[simp] theorem regPut_poison (a v : Nat) (s : State) : (regPut a v s).poison = s.poison := (rfl)
@[simp] theorem regPut_dirty (a v : Nat) (s : State) : (regPut a v s).dirty = s.dirty := (rfl)
@[simp] theorem regPut_pinBase (a v : Nat) (s : State) : (regPut a v s).pinBase = s.pinBase := (rfl)
@[simp] theorem regPut_pinPoison (a v : Nat) (s : State) : (regPut a v s).pinPoison = s.pinPoison := (rfl)
@[simp] theorem regPut_late (a v : Nat) (s : State) : (regPut a v s).late = s.late := (rfl)
@[simp] theorem regPut_flits (a v : Nat) (s : State) : (regPut a v s).flits = s.flits := (rfl)
@[simp] theorem regPut_tiles (a v : Nat) (s : State) : (regPut a v s).tiles = s.tiles := (rfl)
@[simp] theorem regPut_stewards (a v : Nat) (s : State) : (regPut a v s).stewards = s.stewards := (rfl)
@[simp] theorem regPut_ctxs (a v : Nat) (s : State) : (regPut a v s).ctxs = s.ctxs := (rfl)
@[simp] theorem regPut_ctxQueue (a v : Nat) (s : State) : (regPut a v s).ctxQueue = s.ctxQueue := (rfl)
@[simp] theorem regPut_accs (a v : Nat) (s : State) : (regPut a v s).accs = s.accs := (rfl)
@[simp] theorem regPut_entries (a v : Nat) (s : State) : (regPut a v s).entries = s.entries := (rfl)
@[simp] theorem regPut_credits (a v : Nat) (s : State) : (regPut a v s).credits = s.credits := (rfl)
@[simp] theorem regPut_scacheOp (a v : Nat) (s : State) : (regPut a v s).scacheOp = s.scacheOp := (rfl)
@[simp] theorem regPut_stackCtl (a v : Nat) (s : State) : (regPut a v s).stackCtl = s.stackCtl := (rfl)
@[simp] theorem regPut_links (a v : Nat) (s : State) : (regPut a v s).links = s.links := (rfl)
@[simp] theorem regPut_sentPkts (a v : Nat) (s : State) : (regPut a v s).sentPkts = s.sentPkts := (rfl)
@[simp] theorem regPut_sentBlks (a v : Nat) (s : State) : (regPut a v s).sentBlks = s.sentBlks := (rfl)
@[simp] theorem regPut_mer (a v : Nat) (s : State) : (regPut a v s).mer = s.mer := (rfl)
@[simp] theorem regPut_sessions (a v : Nat) (s : State) : (regPut a v s).sessions = s.sessions := (rfl)
@[simp] theorem regPut_queues (a v : Nat) (s : State) : (regPut a v s).queues = s.queues := (rfl)
@[simp] theorem regPut_rrNext (a v : Nat) (s : State) : (regPut a v s).rrNext = s.rrNext := (rfl)
@[simp] theorem regPut_mrs (a v : Nat) (s : State) : (regPut a v s).mrs = s.mrs := (rfl)
@[simp] theorem regPut_qps (a v : Nat) (s : State) : (regPut a v s).qps = s.qps := (rfl)
@[simp] theorem regPut_sentHost (a v : Nat) (s : State) : (regPut a v s).sentHost = s.sentHost := (rfl)
@[simp] theorem regPut_sentRoce (a v : Nat) (s : State) : (regPut a v s).sentRoce = s.sentRoce := (rfl)
@[simp] theorem regPut_sentFrames (a v : Nat) (s : State) : (regPut a v s).sentFrames = s.sentFrames := (rfl)
@[simp] theorem regPut_paused (a v : Nat) (s : State) : (regPut a v s).paused = s.paused := (rfl)
@[simp] theorem regPut_heldHost (a v : Nat) (s : State) : (regPut a v s).heldHost = s.heldHost := (rfl)
@[simp] theorem regPut_heldRoce (a v : Nat) (s : State) : (regPut a v s).heldRoce = s.heldRoce := (rfl)
@[simp] theorem regPut_lostEv (a v : Nat) (s : State) : (regPut a v s).lostEv = s.lostEv := (rfl)
@[simp] theorem regPut_books (a v : Nat) (s : State) : (regPut a v s).books = s.books := (rfl)
@[simp] theorem regPut_pool (a v : Nat) (s : State) : (regPut a v s).pool = s.pool := (rfl)
@[simp] theorem regPut_faults (a v : Nat) (s : State) : (regPut a v s).faults = s.faults := (rfl)
@[simp] theorem regPut_floodNo (a v : Nat) (s : State) : (regPut a v s).floodNo = s.floodNo := (rfl)
@[simp] theorem regPut_floods (a v : Nat) (s : State) : (regPut a v s).floods = s.floods := (rfl)
@[simp] theorem regPut_rst (a v : Nat) (s : State) : (regPut a v s).rst = s.rst := (rfl)
@[simp] theorem regPut_fuses (a v : Nat) (s : State) : (regPut a v s).fuses = s.fuses := (rfl)
@[simp] theorem regPut_compass (a v : Nat) (s : State) : (regPut a v s).compass = s.compass := (rfl)
@[simp] theorem regPut_legend (a v : Nat) (s : State) : (regPut a v s).legend = s.legend := (rfl)
@[simp] theorem regPut_datums (a v : Nat) (s : State) : (regPut a v s).datums = s.datums := (rfl)
@[simp] theorem regPut_power (a v : Nat) (s : State) : (regPut a v s).power = s.power := (rfl)
@[simp] theorem regPut_pins (a v : Nat) (s : State) : (regPut a v s).pins = s.pins := (rfl)
@[simp] theorem regPut_nextId (a v : Nat) (s : State) : (regPut a v s).nextId = s.nextId := (rfl)
@[simp] theorem regPut_free (a v : Nat) (s : State) : (regPut a v s).free = s.free := (rfl)

/-! ### setTile -/

@[simp] theorem setTile_pending (t : Nat) (x : Tile) (s : State) : (setTile t x s).pending = s.pending := (rfl)
@[simp] theorem setTile_regs (t : Nat) (x : Tile) (s : State) : (setTile t x s).regs = s.regs := (rfl)
@[simp] theorem setTile_hbm (t : Nat) (x : Tile) (s : State) : (setTile t x s).hbm = s.hbm := (rfl)
@[simp] theorem setTile_pin (t : Nat) (x : Tile) (s : State) : (setTile t x s).pin = s.pin := (rfl)
@[simp] theorem setTile_spd (t : Nat) (x : Tile) (s : State) : (setTile t x s).spd = s.spd := (rfl)
@[simp] theorem setTile_poison (t : Nat) (x : Tile) (s : State) : (setTile t x s).poison = s.poison := (rfl)
@[simp] theorem setTile_dirty (t : Nat) (x : Tile) (s : State) : (setTile t x s).dirty = s.dirty := (rfl)
@[simp] theorem setTile_pinBase (t : Nat) (x : Tile) (s : State) : (setTile t x s).pinBase = s.pinBase := (rfl)
@[simp] theorem setTile_pinPoison (t : Nat) (x : Tile) (s : State) : (setTile t x s).pinPoison = s.pinPoison := (rfl)
@[simp] theorem setTile_late (t : Nat) (x : Tile) (s : State) : (setTile t x s).late = s.late := (rfl)
@[simp] theorem setTile_flits (t : Nat) (x : Tile) (s : State) : (setTile t x s).flits = s.flits := (rfl)
@[simp] theorem setTile_stewards (t : Nat) (x : Tile) (s : State) : (setTile t x s).stewards = s.stewards := (rfl)
@[simp] theorem setTile_ctxs (t : Nat) (x : Tile) (s : State) : (setTile t x s).ctxs = s.ctxs := (rfl)
@[simp] theorem setTile_ctxQueue (t : Nat) (x : Tile) (s : State) : (setTile t x s).ctxQueue = s.ctxQueue := (rfl)
@[simp] theorem setTile_accs (t : Nat) (x : Tile) (s : State) : (setTile t x s).accs = s.accs := (rfl)
@[simp] theorem setTile_entries (t : Nat) (x : Tile) (s : State) : (setTile t x s).entries = s.entries := (rfl)
@[simp] theorem setTile_credits (t : Nat) (x : Tile) (s : State) : (setTile t x s).credits = s.credits := (rfl)
@[simp] theorem setTile_scacheOp (t : Nat) (x : Tile) (s : State) : (setTile t x s).scacheOp = s.scacheOp := (rfl)
@[simp] theorem setTile_stackCtl (t : Nat) (x : Tile) (s : State) : (setTile t x s).stackCtl = s.stackCtl := (rfl)
@[simp] theorem setTile_links (t : Nat) (x : Tile) (s : State) : (setTile t x s).links = s.links := (rfl)
@[simp] theorem setTile_sentPkts (t : Nat) (x : Tile) (s : State) : (setTile t x s).sentPkts = s.sentPkts := (rfl)
@[simp] theorem setTile_sentBlks (t : Nat) (x : Tile) (s : State) : (setTile t x s).sentBlks = s.sentBlks := (rfl)
@[simp] theorem setTile_mer (t : Nat) (x : Tile) (s : State) : (setTile t x s).mer = s.mer := (rfl)
@[simp] theorem setTile_sessions (t : Nat) (x : Tile) (s : State) : (setTile t x s).sessions = s.sessions := (rfl)
@[simp] theorem setTile_queues (t : Nat) (x : Tile) (s : State) : (setTile t x s).queues = s.queues := (rfl)
@[simp] theorem setTile_rrNext (t : Nat) (x : Tile) (s : State) : (setTile t x s).rrNext = s.rrNext := (rfl)
@[simp] theorem setTile_mrs (t : Nat) (x : Tile) (s : State) : (setTile t x s).mrs = s.mrs := (rfl)
@[simp] theorem setTile_qps (t : Nat) (x : Tile) (s : State) : (setTile t x s).qps = s.qps := (rfl)
@[simp] theorem setTile_sentHost (t : Nat) (x : Tile) (s : State) : (setTile t x s).sentHost = s.sentHost := (rfl)
@[simp] theorem setTile_sentRoce (t : Nat) (x : Tile) (s : State) : (setTile t x s).sentRoce = s.sentRoce := (rfl)
@[simp] theorem setTile_sentFrames (t : Nat) (x : Tile) (s : State) : (setTile t x s).sentFrames = s.sentFrames := (rfl)
@[simp] theorem setTile_paused (t : Nat) (x : Tile) (s : State) : (setTile t x s).paused = s.paused := (rfl)
@[simp] theorem setTile_heldHost (t : Nat) (x : Tile) (s : State) : (setTile t x s).heldHost = s.heldHost := (rfl)
@[simp] theorem setTile_heldRoce (t : Nat) (x : Tile) (s : State) : (setTile t x s).heldRoce = s.heldRoce := (rfl)
@[simp] theorem setTile_lostEv (t : Nat) (x : Tile) (s : State) : (setTile t x s).lostEv = s.lostEv := (rfl)
@[simp] theorem setTile_books (t : Nat) (x : Tile) (s : State) : (setTile t x s).books = s.books := (rfl)
@[simp] theorem setTile_pool (t : Nat) (x : Tile) (s : State) : (setTile t x s).pool = s.pool := (rfl)
@[simp] theorem setTile_faults (t : Nat) (x : Tile) (s : State) : (setTile t x s).faults = s.faults := (rfl)
@[simp] theorem setTile_floodNo (t : Nat) (x : Tile) (s : State) : (setTile t x s).floodNo = s.floodNo := (rfl)
@[simp] theorem setTile_floods (t : Nat) (x : Tile) (s : State) : (setTile t x s).floods = s.floods := (rfl)
@[simp] theorem setTile_rst (t : Nat) (x : Tile) (s : State) : (setTile t x s).rst = s.rst := (rfl)
@[simp] theorem setTile_fuses (t : Nat) (x : Tile) (s : State) : (setTile t x s).fuses = s.fuses := (rfl)
@[simp] theorem setTile_compass (t : Nat) (x : Tile) (s : State) : (setTile t x s).compass = s.compass := (rfl)
@[simp] theorem setTile_legend (t : Nat) (x : Tile) (s : State) : (setTile t x s).legend = s.legend := (rfl)
@[simp] theorem setTile_datums (t : Nat) (x : Tile) (s : State) : (setTile t x s).datums = s.datums := (rfl)
@[simp] theorem setTile_power (t : Nat) (x : Tile) (s : State) : (setTile t x s).power = s.power := (rfl)
@[simp] theorem setTile_pins (t : Nat) (x : Tile) (s : State) : (setTile t x s).pins = s.pins := (rfl)
@[simp] theorem setTile_nextId (t : Nat) (x : Tile) (s : State) : (setTile t x s).nextId = s.nextId := (rfl)
@[simp] theorem setTile_free (t : Nat) (x : Tile) (s : State) : (setTile t x s).free = s.free := (rfl)

/-! ### setSt -/

@[simp] theorem setSt_pending (t n : Nat) (x : Steward) (s : State) : (setSt t n x s).pending = s.pending := (rfl)
@[simp] theorem setSt_regs (t n : Nat) (x : Steward) (s : State) : (setSt t n x s).regs = s.regs := (rfl)
@[simp] theorem setSt_hbm (t n : Nat) (x : Steward) (s : State) : (setSt t n x s).hbm = s.hbm := (rfl)
@[simp] theorem setSt_pin (t n : Nat) (x : Steward) (s : State) : (setSt t n x s).pin = s.pin := (rfl)
@[simp] theorem setSt_spd (t n : Nat) (x : Steward) (s : State) : (setSt t n x s).spd = s.spd := (rfl)
@[simp] theorem setSt_poison (t n : Nat) (x : Steward) (s : State) : (setSt t n x s).poison = s.poison := (rfl)
@[simp] theorem setSt_dirty (t n : Nat) (x : Steward) (s : State) : (setSt t n x s).dirty = s.dirty := (rfl)
@[simp] theorem setSt_pinBase (t n : Nat) (x : Steward) (s : State) : (setSt t n x s).pinBase = s.pinBase := (rfl)
@[simp] theorem setSt_pinPoison (t n : Nat) (x : Steward) (s : State) : (setSt t n x s).pinPoison = s.pinPoison := (rfl)
@[simp] theorem setSt_late (t n : Nat) (x : Steward) (s : State) : (setSt t n x s).late = s.late := (rfl)
@[simp] theorem setSt_flits (t n : Nat) (x : Steward) (s : State) : (setSt t n x s).flits = s.flits := (rfl)
@[simp] theorem setSt_tiles (t n : Nat) (x : Steward) (s : State) : (setSt t n x s).tiles = s.tiles := (rfl)
@[simp] theorem setSt_ctxs (t n : Nat) (x : Steward) (s : State) : (setSt t n x s).ctxs = s.ctxs := (rfl)
@[simp] theorem setSt_ctxQueue (t n : Nat) (x : Steward) (s : State) : (setSt t n x s).ctxQueue = s.ctxQueue := (rfl)
@[simp] theorem setSt_accs (t n : Nat) (x : Steward) (s : State) : (setSt t n x s).accs = s.accs := (rfl)
@[simp] theorem setSt_entries (t n : Nat) (x : Steward) (s : State) : (setSt t n x s).entries = s.entries := (rfl)
@[simp] theorem setSt_credits (t n : Nat) (x : Steward) (s : State) : (setSt t n x s).credits = s.credits := (rfl)
@[simp] theorem setSt_scacheOp (t n : Nat) (x : Steward) (s : State) : (setSt t n x s).scacheOp = s.scacheOp := (rfl)
@[simp] theorem setSt_stackCtl (t n : Nat) (x : Steward) (s : State) : (setSt t n x s).stackCtl = s.stackCtl := (rfl)
@[simp] theorem setSt_links (t n : Nat) (x : Steward) (s : State) : (setSt t n x s).links = s.links := (rfl)
@[simp] theorem setSt_sentPkts (t n : Nat) (x : Steward) (s : State) : (setSt t n x s).sentPkts = s.sentPkts := (rfl)
@[simp] theorem setSt_sentBlks (t n : Nat) (x : Steward) (s : State) : (setSt t n x s).sentBlks = s.sentBlks := (rfl)
@[simp] theorem setSt_mer (t n : Nat) (x : Steward) (s : State) : (setSt t n x s).mer = s.mer := (rfl)
@[simp] theorem setSt_sessions (t n : Nat) (x : Steward) (s : State) : (setSt t n x s).sessions = s.sessions := (rfl)
@[simp] theorem setSt_queues (t n : Nat) (x : Steward) (s : State) : (setSt t n x s).queues = s.queues := (rfl)
@[simp] theorem setSt_rrNext (t n : Nat) (x : Steward) (s : State) : (setSt t n x s).rrNext = s.rrNext := (rfl)
@[simp] theorem setSt_mrs (t n : Nat) (x : Steward) (s : State) : (setSt t n x s).mrs = s.mrs := (rfl)
@[simp] theorem setSt_qps (t n : Nat) (x : Steward) (s : State) : (setSt t n x s).qps = s.qps := (rfl)
@[simp] theorem setSt_sentHost (t n : Nat) (x : Steward) (s : State) : (setSt t n x s).sentHost = s.sentHost := (rfl)
@[simp] theorem setSt_sentRoce (t n : Nat) (x : Steward) (s : State) : (setSt t n x s).sentRoce = s.sentRoce := (rfl)
@[simp] theorem setSt_sentFrames (t n : Nat) (x : Steward) (s : State) : (setSt t n x s).sentFrames = s.sentFrames := (rfl)
@[simp] theorem setSt_paused (t n : Nat) (x : Steward) (s : State) : (setSt t n x s).paused = s.paused := (rfl)
@[simp] theorem setSt_heldHost (t n : Nat) (x : Steward) (s : State) : (setSt t n x s).heldHost = s.heldHost := (rfl)
@[simp] theorem setSt_heldRoce (t n : Nat) (x : Steward) (s : State) : (setSt t n x s).heldRoce = s.heldRoce := (rfl)
@[simp] theorem setSt_lostEv (t n : Nat) (x : Steward) (s : State) : (setSt t n x s).lostEv = s.lostEv := (rfl)
@[simp] theorem setSt_books (t n : Nat) (x : Steward) (s : State) : (setSt t n x s).books = s.books := (rfl)
@[simp] theorem setSt_pool (t n : Nat) (x : Steward) (s : State) : (setSt t n x s).pool = s.pool := (rfl)
@[simp] theorem setSt_faults (t n : Nat) (x : Steward) (s : State) : (setSt t n x s).faults = s.faults := (rfl)
@[simp] theorem setSt_floodNo (t n : Nat) (x : Steward) (s : State) : (setSt t n x s).floodNo = s.floodNo := (rfl)
@[simp] theorem setSt_floods (t n : Nat) (x : Steward) (s : State) : (setSt t n x s).floods = s.floods := (rfl)
@[simp] theorem setSt_rst (t n : Nat) (x : Steward) (s : State) : (setSt t n x s).rst = s.rst := (rfl)
@[simp] theorem setSt_fuses (t n : Nat) (x : Steward) (s : State) : (setSt t n x s).fuses = s.fuses := (rfl)
@[simp] theorem setSt_compass (t n : Nat) (x : Steward) (s : State) : (setSt t n x s).compass = s.compass := (rfl)
@[simp] theorem setSt_legend (t n : Nat) (x : Steward) (s : State) : (setSt t n x s).legend = s.legend := (rfl)
@[simp] theorem setSt_datums (t n : Nat) (x : Steward) (s : State) : (setSt t n x s).datums = s.datums := (rfl)
@[simp] theorem setSt_power (t n : Nat) (x : Steward) (s : State) : (setSt t n x s).power = s.power := (rfl)
@[simp] theorem setSt_pins (t n : Nat) (x : Steward) (s : State) : (setSt t n x s).pins = s.pins := (rfl)
@[simp] theorem setSt_nextId (t n : Nat) (x : Steward) (s : State) : (setSt t n x s).nextId = s.nextId := (rfl)
@[simp] theorem setSt_free (t n : Nat) (x : Steward) (s : State) : (setSt t n x s).free = s.free := (rfl)

/-! ### setCtx -/

@[simp] theorem setCtx_pending (c : Nat) (x : Ctx) (s : State) : (setCtx c x s).pending = s.pending := (rfl)
@[simp] theorem setCtx_regs (c : Nat) (x : Ctx) (s : State) : (setCtx c x s).regs = s.regs := (rfl)
@[simp] theorem setCtx_hbm (c : Nat) (x : Ctx) (s : State) : (setCtx c x s).hbm = s.hbm := (rfl)
@[simp] theorem setCtx_pin (c : Nat) (x : Ctx) (s : State) : (setCtx c x s).pin = s.pin := (rfl)
@[simp] theorem setCtx_spd (c : Nat) (x : Ctx) (s : State) : (setCtx c x s).spd = s.spd := (rfl)
@[simp] theorem setCtx_poison (c : Nat) (x : Ctx) (s : State) : (setCtx c x s).poison = s.poison := (rfl)
@[simp] theorem setCtx_dirty (c : Nat) (x : Ctx) (s : State) : (setCtx c x s).dirty = s.dirty := (rfl)
@[simp] theorem setCtx_pinBase (c : Nat) (x : Ctx) (s : State) : (setCtx c x s).pinBase = s.pinBase := (rfl)
@[simp] theorem setCtx_pinPoison (c : Nat) (x : Ctx) (s : State) : (setCtx c x s).pinPoison = s.pinPoison := (rfl)
@[simp] theorem setCtx_late (c : Nat) (x : Ctx) (s : State) : (setCtx c x s).late = s.late := (rfl)
@[simp] theorem setCtx_flits (c : Nat) (x : Ctx) (s : State) : (setCtx c x s).flits = s.flits := (rfl)
@[simp] theorem setCtx_tiles (c : Nat) (x : Ctx) (s : State) : (setCtx c x s).tiles = s.tiles := (rfl)
@[simp] theorem setCtx_stewards (c : Nat) (x : Ctx) (s : State) : (setCtx c x s).stewards = s.stewards := (rfl)
@[simp] theorem setCtx_ctxQueue (c : Nat) (x : Ctx) (s : State) : (setCtx c x s).ctxQueue = s.ctxQueue := (rfl)
@[simp] theorem setCtx_accs (c : Nat) (x : Ctx) (s : State) : (setCtx c x s).accs = s.accs := (rfl)
@[simp] theorem setCtx_entries (c : Nat) (x : Ctx) (s : State) : (setCtx c x s).entries = s.entries := (rfl)
@[simp] theorem setCtx_credits (c : Nat) (x : Ctx) (s : State) : (setCtx c x s).credits = s.credits := (rfl)
@[simp] theorem setCtx_scacheOp (c : Nat) (x : Ctx) (s : State) : (setCtx c x s).scacheOp = s.scacheOp := (rfl)
@[simp] theorem setCtx_stackCtl (c : Nat) (x : Ctx) (s : State) : (setCtx c x s).stackCtl = s.stackCtl := (rfl)
@[simp] theorem setCtx_links (c : Nat) (x : Ctx) (s : State) : (setCtx c x s).links = s.links := (rfl)
@[simp] theorem setCtx_sentPkts (c : Nat) (x : Ctx) (s : State) : (setCtx c x s).sentPkts = s.sentPkts := (rfl)
@[simp] theorem setCtx_sentBlks (c : Nat) (x : Ctx) (s : State) : (setCtx c x s).sentBlks = s.sentBlks := (rfl)
@[simp] theorem setCtx_mer (c : Nat) (x : Ctx) (s : State) : (setCtx c x s).mer = s.mer := (rfl)
@[simp] theorem setCtx_sessions (c : Nat) (x : Ctx) (s : State) : (setCtx c x s).sessions = s.sessions := (rfl)
@[simp] theorem setCtx_queues (c : Nat) (x : Ctx) (s : State) : (setCtx c x s).queues = s.queues := (rfl)
@[simp] theorem setCtx_rrNext (c : Nat) (x : Ctx) (s : State) : (setCtx c x s).rrNext = s.rrNext := (rfl)
@[simp] theorem setCtx_mrs (c : Nat) (x : Ctx) (s : State) : (setCtx c x s).mrs = s.mrs := (rfl)
@[simp] theorem setCtx_qps (c : Nat) (x : Ctx) (s : State) : (setCtx c x s).qps = s.qps := (rfl)
@[simp] theorem setCtx_sentHost (c : Nat) (x : Ctx) (s : State) : (setCtx c x s).sentHost = s.sentHost := (rfl)
@[simp] theorem setCtx_sentRoce (c : Nat) (x : Ctx) (s : State) : (setCtx c x s).sentRoce = s.sentRoce := (rfl)
@[simp] theorem setCtx_sentFrames (c : Nat) (x : Ctx) (s : State) : (setCtx c x s).sentFrames = s.sentFrames := (rfl)
@[simp] theorem setCtx_paused (c : Nat) (x : Ctx) (s : State) : (setCtx c x s).paused = s.paused := (rfl)
@[simp] theorem setCtx_heldHost (c : Nat) (x : Ctx) (s : State) : (setCtx c x s).heldHost = s.heldHost := (rfl)
@[simp] theorem setCtx_heldRoce (c : Nat) (x : Ctx) (s : State) : (setCtx c x s).heldRoce = s.heldRoce := (rfl)
@[simp] theorem setCtx_lostEv (c : Nat) (x : Ctx) (s : State) : (setCtx c x s).lostEv = s.lostEv := (rfl)
@[simp] theorem setCtx_books (c : Nat) (x : Ctx) (s : State) : (setCtx c x s).books = s.books := (rfl)
@[simp] theorem setCtx_pool (c : Nat) (x : Ctx) (s : State) : (setCtx c x s).pool = s.pool := (rfl)
@[simp] theorem setCtx_faults (c : Nat) (x : Ctx) (s : State) : (setCtx c x s).faults = s.faults := (rfl)
@[simp] theorem setCtx_floodNo (c : Nat) (x : Ctx) (s : State) : (setCtx c x s).floodNo = s.floodNo := (rfl)
@[simp] theorem setCtx_floods (c : Nat) (x : Ctx) (s : State) : (setCtx c x s).floods = s.floods := (rfl)
@[simp] theorem setCtx_rst (c : Nat) (x : Ctx) (s : State) : (setCtx c x s).rst = s.rst := (rfl)
@[simp] theorem setCtx_fuses (c : Nat) (x : Ctx) (s : State) : (setCtx c x s).fuses = s.fuses := (rfl)
@[simp] theorem setCtx_compass (c : Nat) (x : Ctx) (s : State) : (setCtx c x s).compass = s.compass := (rfl)
@[simp] theorem setCtx_legend (c : Nat) (x : Ctx) (s : State) : (setCtx c x s).legend = s.legend := (rfl)
@[simp] theorem setCtx_datums (c : Nat) (x : Ctx) (s : State) : (setCtx c x s).datums = s.datums := (rfl)
@[simp] theorem setCtx_power (c : Nat) (x : Ctx) (s : State) : (setCtx c x s).power = s.power := (rfl)
@[simp] theorem setCtx_pins (c : Nat) (x : Ctx) (s : State) : (setCtx c x s).pins = s.pins := (rfl)
@[simp] theorem setCtx_nextId (c : Nat) (x : Ctx) (s : State) : (setCtx c x s).nextId = s.nextId := (rfl)
@[simp] theorem setCtx_free (c : Nat) (x : Ctx) (s : State) : (setCtx c x s).free = s.free := (rfl)

/-! ### modLink -/

@[simp] theorem modLink_pending (p : Nat) (f : Link → Link) (s : State) : (modLink p f s).pending = s.pending := (rfl)
@[simp] theorem modLink_regs (p : Nat) (f : Link → Link) (s : State) : (modLink p f s).regs = s.regs := (rfl)
@[simp] theorem modLink_hbm (p : Nat) (f : Link → Link) (s : State) : (modLink p f s).hbm = s.hbm := (rfl)
@[simp] theorem modLink_pin (p : Nat) (f : Link → Link) (s : State) : (modLink p f s).pin = s.pin := (rfl)
@[simp] theorem modLink_spd (p : Nat) (f : Link → Link) (s : State) : (modLink p f s).spd = s.spd := (rfl)
@[simp] theorem modLink_poison (p : Nat) (f : Link → Link) (s : State) : (modLink p f s).poison = s.poison := (rfl)
@[simp] theorem modLink_dirty (p : Nat) (f : Link → Link) (s : State) : (modLink p f s).dirty = s.dirty := (rfl)
@[simp] theorem modLink_pinBase (p : Nat) (f : Link → Link) (s : State) : (modLink p f s).pinBase = s.pinBase := (rfl)
@[simp] theorem modLink_pinPoison (p : Nat) (f : Link → Link) (s : State) : (modLink p f s).pinPoison = s.pinPoison := (rfl)
@[simp] theorem modLink_late (p : Nat) (f : Link → Link) (s : State) : (modLink p f s).late = s.late := (rfl)
@[simp] theorem modLink_flits (p : Nat) (f : Link → Link) (s : State) : (modLink p f s).flits = s.flits := (rfl)
@[simp] theorem modLink_tiles (p : Nat) (f : Link → Link) (s : State) : (modLink p f s).tiles = s.tiles := (rfl)
@[simp] theorem modLink_stewards (p : Nat) (f : Link → Link) (s : State) : (modLink p f s).stewards = s.stewards := (rfl)
@[simp] theorem modLink_ctxs (p : Nat) (f : Link → Link) (s : State) : (modLink p f s).ctxs = s.ctxs := (rfl)
@[simp] theorem modLink_ctxQueue (p : Nat) (f : Link → Link) (s : State) : (modLink p f s).ctxQueue = s.ctxQueue := (rfl)
@[simp] theorem modLink_accs (p : Nat) (f : Link → Link) (s : State) : (modLink p f s).accs = s.accs := (rfl)
@[simp] theorem modLink_entries (p : Nat) (f : Link → Link) (s : State) : (modLink p f s).entries = s.entries := (rfl)
@[simp] theorem modLink_credits (p : Nat) (f : Link → Link) (s : State) : (modLink p f s).credits = s.credits := (rfl)
@[simp] theorem modLink_scacheOp (p : Nat) (f : Link → Link) (s : State) : (modLink p f s).scacheOp = s.scacheOp := (rfl)
@[simp] theorem modLink_stackCtl (p : Nat) (f : Link → Link) (s : State) : (modLink p f s).stackCtl = s.stackCtl := (rfl)
@[simp] theorem modLink_sentPkts (p : Nat) (f : Link → Link) (s : State) : (modLink p f s).sentPkts = s.sentPkts := (rfl)
@[simp] theorem modLink_sentBlks (p : Nat) (f : Link → Link) (s : State) : (modLink p f s).sentBlks = s.sentBlks := (rfl)
@[simp] theorem modLink_mer (p : Nat) (f : Link → Link) (s : State) : (modLink p f s).mer = s.mer := (rfl)
@[simp] theorem modLink_sessions (p : Nat) (f : Link → Link) (s : State) : (modLink p f s).sessions = s.sessions := (rfl)
@[simp] theorem modLink_queues (p : Nat) (f : Link → Link) (s : State) : (modLink p f s).queues = s.queues := (rfl)
@[simp] theorem modLink_rrNext (p : Nat) (f : Link → Link) (s : State) : (modLink p f s).rrNext = s.rrNext := (rfl)
@[simp] theorem modLink_mrs (p : Nat) (f : Link → Link) (s : State) : (modLink p f s).mrs = s.mrs := (rfl)
@[simp] theorem modLink_qps (p : Nat) (f : Link → Link) (s : State) : (modLink p f s).qps = s.qps := (rfl)
@[simp] theorem modLink_sentHost (p : Nat) (f : Link → Link) (s : State) : (modLink p f s).sentHost = s.sentHost := (rfl)
@[simp] theorem modLink_sentRoce (p : Nat) (f : Link → Link) (s : State) : (modLink p f s).sentRoce = s.sentRoce := (rfl)
@[simp] theorem modLink_sentFrames (p : Nat) (f : Link → Link) (s : State) : (modLink p f s).sentFrames = s.sentFrames := (rfl)
@[simp] theorem modLink_paused (p : Nat) (f : Link → Link) (s : State) : (modLink p f s).paused = s.paused := (rfl)
@[simp] theorem modLink_heldHost (p : Nat) (f : Link → Link) (s : State) : (modLink p f s).heldHost = s.heldHost := (rfl)
@[simp] theorem modLink_heldRoce (p : Nat) (f : Link → Link) (s : State) : (modLink p f s).heldRoce = s.heldRoce := (rfl)
@[simp] theorem modLink_lostEv (p : Nat) (f : Link → Link) (s : State) : (modLink p f s).lostEv = s.lostEv := (rfl)
@[simp] theorem modLink_books (p : Nat) (f : Link → Link) (s : State) : (modLink p f s).books = s.books := (rfl)
@[simp] theorem modLink_pool (p : Nat) (f : Link → Link) (s : State) : (modLink p f s).pool = s.pool := (rfl)
@[simp] theorem modLink_faults (p : Nat) (f : Link → Link) (s : State) : (modLink p f s).faults = s.faults := (rfl)
@[simp] theorem modLink_floodNo (p : Nat) (f : Link → Link) (s : State) : (modLink p f s).floodNo = s.floodNo := (rfl)
@[simp] theorem modLink_floods (p : Nat) (f : Link → Link) (s : State) : (modLink p f s).floods = s.floods := (rfl)
@[simp] theorem modLink_rst (p : Nat) (f : Link → Link) (s : State) : (modLink p f s).rst = s.rst := (rfl)
@[simp] theorem modLink_fuses (p : Nat) (f : Link → Link) (s : State) : (modLink p f s).fuses = s.fuses := (rfl)
@[simp] theorem modLink_compass (p : Nat) (f : Link → Link) (s : State) : (modLink p f s).compass = s.compass := (rfl)
@[simp] theorem modLink_legend (p : Nat) (f : Link → Link) (s : State) : (modLink p f s).legend = s.legend := (rfl)
@[simp] theorem modLink_datums (p : Nat) (f : Link → Link) (s : State) : (modLink p f s).datums = s.datums := (rfl)
@[simp] theorem modLink_power (p : Nat) (f : Link → Link) (s : State) : (modLink p f s).power = s.power := (rfl)
@[simp] theorem modLink_pins (p : Nat) (f : Link → Link) (s : State) : (modLink p f s).pins = s.pins := (rfl)
@[simp] theorem modLink_nextId (p : Nat) (f : Link → Link) (s : State) : (modLink p f s).nextId = s.nextId := (rfl)
@[simp] theorem modLink_free (p : Nat) (f : Link → Link) (s : State) : (modLink p f s).free = s.free := (rfl)

/-! ### modStack -/

@[simp] theorem modStack_pending (k : Nat) (f : Stack → Stack) (s : State) : (modStack k f s).pending = s.pending := (rfl)
@[simp] theorem modStack_regs (k : Nat) (f : Stack → Stack) (s : State) : (modStack k f s).regs = s.regs := (rfl)
@[simp] theorem modStack_hbm (k : Nat) (f : Stack → Stack) (s : State) : (modStack k f s).hbm = s.hbm := (rfl)
@[simp] theorem modStack_pin (k : Nat) (f : Stack → Stack) (s : State) : (modStack k f s).pin = s.pin := (rfl)
@[simp] theorem modStack_spd (k : Nat) (f : Stack → Stack) (s : State) : (modStack k f s).spd = s.spd := (rfl)
@[simp] theorem modStack_poison (k : Nat) (f : Stack → Stack) (s : State) : (modStack k f s).poison = s.poison := (rfl)
@[simp] theorem modStack_dirty (k : Nat) (f : Stack → Stack) (s : State) : (modStack k f s).dirty = s.dirty := (rfl)
@[simp] theorem modStack_pinBase (k : Nat) (f : Stack → Stack) (s : State) : (modStack k f s).pinBase = s.pinBase := (rfl)
@[simp] theorem modStack_pinPoison (k : Nat) (f : Stack → Stack) (s : State) : (modStack k f s).pinPoison = s.pinPoison := (rfl)
@[simp] theorem modStack_late (k : Nat) (f : Stack → Stack) (s : State) : (modStack k f s).late = s.late := (rfl)
@[simp] theorem modStack_flits (k : Nat) (f : Stack → Stack) (s : State) : (modStack k f s).flits = s.flits := (rfl)
@[simp] theorem modStack_tiles (k : Nat) (f : Stack → Stack) (s : State) : (modStack k f s).tiles = s.tiles := (rfl)
@[simp] theorem modStack_stewards (k : Nat) (f : Stack → Stack) (s : State) : (modStack k f s).stewards = s.stewards := (rfl)
@[simp] theorem modStack_ctxs (k : Nat) (f : Stack → Stack) (s : State) : (modStack k f s).ctxs = s.ctxs := (rfl)
@[simp] theorem modStack_ctxQueue (k : Nat) (f : Stack → Stack) (s : State) : (modStack k f s).ctxQueue = s.ctxQueue := (rfl)
@[simp] theorem modStack_accs (k : Nat) (f : Stack → Stack) (s : State) : (modStack k f s).accs = s.accs := (rfl)
@[simp] theorem modStack_entries (k : Nat) (f : Stack → Stack) (s : State) : (modStack k f s).entries = s.entries := (rfl)
@[simp] theorem modStack_credits (k : Nat) (f : Stack → Stack) (s : State) : (modStack k f s).credits = s.credits := (rfl)
@[simp] theorem modStack_scacheOp (k : Nat) (f : Stack → Stack) (s : State) : (modStack k f s).scacheOp = s.scacheOp := (rfl)
@[simp] theorem modStack_links (k : Nat) (f : Stack → Stack) (s : State) : (modStack k f s).links = s.links := (rfl)
@[simp] theorem modStack_sentPkts (k : Nat) (f : Stack → Stack) (s : State) : (modStack k f s).sentPkts = s.sentPkts := (rfl)
@[simp] theorem modStack_sentBlks (k : Nat) (f : Stack → Stack) (s : State) : (modStack k f s).sentBlks = s.sentBlks := (rfl)
@[simp] theorem modStack_mer (k : Nat) (f : Stack → Stack) (s : State) : (modStack k f s).mer = s.mer := (rfl)
@[simp] theorem modStack_sessions (k : Nat) (f : Stack → Stack) (s : State) : (modStack k f s).sessions = s.sessions := (rfl)
@[simp] theorem modStack_queues (k : Nat) (f : Stack → Stack) (s : State) : (modStack k f s).queues = s.queues := (rfl)
@[simp] theorem modStack_rrNext (k : Nat) (f : Stack → Stack) (s : State) : (modStack k f s).rrNext = s.rrNext := (rfl)
@[simp] theorem modStack_mrs (k : Nat) (f : Stack → Stack) (s : State) : (modStack k f s).mrs = s.mrs := (rfl)
@[simp] theorem modStack_qps (k : Nat) (f : Stack → Stack) (s : State) : (modStack k f s).qps = s.qps := (rfl)
@[simp] theorem modStack_sentHost (k : Nat) (f : Stack → Stack) (s : State) : (modStack k f s).sentHost = s.sentHost := (rfl)
@[simp] theorem modStack_sentRoce (k : Nat) (f : Stack → Stack) (s : State) : (modStack k f s).sentRoce = s.sentRoce := (rfl)
@[simp] theorem modStack_sentFrames (k : Nat) (f : Stack → Stack) (s : State) : (modStack k f s).sentFrames = s.sentFrames := (rfl)
@[simp] theorem modStack_paused (k : Nat) (f : Stack → Stack) (s : State) : (modStack k f s).paused = s.paused := (rfl)
@[simp] theorem modStack_heldHost (k : Nat) (f : Stack → Stack) (s : State) : (modStack k f s).heldHost = s.heldHost := (rfl)
@[simp] theorem modStack_heldRoce (k : Nat) (f : Stack → Stack) (s : State) : (modStack k f s).heldRoce = s.heldRoce := (rfl)
@[simp] theorem modStack_lostEv (k : Nat) (f : Stack → Stack) (s : State) : (modStack k f s).lostEv = s.lostEv := (rfl)
@[simp] theorem modStack_books (k : Nat) (f : Stack → Stack) (s : State) : (modStack k f s).books = s.books := (rfl)
@[simp] theorem modStack_pool (k : Nat) (f : Stack → Stack) (s : State) : (modStack k f s).pool = s.pool := (rfl)
@[simp] theorem modStack_faults (k : Nat) (f : Stack → Stack) (s : State) : (modStack k f s).faults = s.faults := (rfl)
@[simp] theorem modStack_floodNo (k : Nat) (f : Stack → Stack) (s : State) : (modStack k f s).floodNo = s.floodNo := (rfl)
@[simp] theorem modStack_floods (k : Nat) (f : Stack → Stack) (s : State) : (modStack k f s).floods = s.floods := (rfl)
@[simp] theorem modStack_rst (k : Nat) (f : Stack → Stack) (s : State) : (modStack k f s).rst = s.rst := (rfl)
@[simp] theorem modStack_fuses (k : Nat) (f : Stack → Stack) (s : State) : (modStack k f s).fuses = s.fuses := (rfl)
@[simp] theorem modStack_compass (k : Nat) (f : Stack → Stack) (s : State) : (modStack k f s).compass = s.compass := (rfl)
@[simp] theorem modStack_legend (k : Nat) (f : Stack → Stack) (s : State) : (modStack k f s).legend = s.legend := (rfl)
@[simp] theorem modStack_datums (k : Nat) (f : Stack → Stack) (s : State) : (modStack k f s).datums = s.datums := (rfl)
@[simp] theorem modStack_power (k : Nat) (f : Stack → Stack) (s : State) : (modStack k f s).power = s.power := (rfl)
@[simp] theorem modStack_pins (k : Nat) (f : Stack → Stack) (s : State) : (modStack k f s).pins = s.pins := (rfl)
@[simp] theorem modStack_nextId (k : Nat) (f : Stack → Stack) (s : State) : (modStack k f s).nextId = s.nextId := (rfl)
@[simp] theorem modStack_free (k : Nat) (f : Stack → Stack) (s : State) : (modStack k f s).free = s.free := (rfl)

/-! ### modBook -/

@[simp] theorem modBook_pending (b : Nat) (f : Book → Book) (s : State) : (modBook b f s).pending = s.pending := (rfl)
@[simp] theorem modBook_regs (b : Nat) (f : Book → Book) (s : State) : (modBook b f s).regs = s.regs := (rfl)
@[simp] theorem modBook_hbm (b : Nat) (f : Book → Book) (s : State) : (modBook b f s).hbm = s.hbm := (rfl)
@[simp] theorem modBook_pin (b : Nat) (f : Book → Book) (s : State) : (modBook b f s).pin = s.pin := (rfl)
@[simp] theorem modBook_spd (b : Nat) (f : Book → Book) (s : State) : (modBook b f s).spd = s.spd := (rfl)
@[simp] theorem modBook_poison (b : Nat) (f : Book → Book) (s : State) : (modBook b f s).poison = s.poison := (rfl)
@[simp] theorem modBook_dirty (b : Nat) (f : Book → Book) (s : State) : (modBook b f s).dirty = s.dirty := (rfl)
@[simp] theorem modBook_pinBase (b : Nat) (f : Book → Book) (s : State) : (modBook b f s).pinBase = s.pinBase := (rfl)
@[simp] theorem modBook_pinPoison (b : Nat) (f : Book → Book) (s : State) : (modBook b f s).pinPoison = s.pinPoison := (rfl)
@[simp] theorem modBook_late (b : Nat) (f : Book → Book) (s : State) : (modBook b f s).late = s.late := (rfl)
@[simp] theorem modBook_flits (b : Nat) (f : Book → Book) (s : State) : (modBook b f s).flits = s.flits := (rfl)
@[simp] theorem modBook_tiles (b : Nat) (f : Book → Book) (s : State) : (modBook b f s).tiles = s.tiles := (rfl)
@[simp] theorem modBook_stewards (b : Nat) (f : Book → Book) (s : State) : (modBook b f s).stewards = s.stewards := (rfl)
@[simp] theorem modBook_ctxs (b : Nat) (f : Book → Book) (s : State) : (modBook b f s).ctxs = s.ctxs := (rfl)
@[simp] theorem modBook_ctxQueue (b : Nat) (f : Book → Book) (s : State) : (modBook b f s).ctxQueue = s.ctxQueue := (rfl)
@[simp] theorem modBook_accs (b : Nat) (f : Book → Book) (s : State) : (modBook b f s).accs = s.accs := (rfl)
@[simp] theorem modBook_entries (b : Nat) (f : Book → Book) (s : State) : (modBook b f s).entries = s.entries := (rfl)
@[simp] theorem modBook_credits (b : Nat) (f : Book → Book) (s : State) : (modBook b f s).credits = s.credits := (rfl)
@[simp] theorem modBook_scacheOp (b : Nat) (f : Book → Book) (s : State) : (modBook b f s).scacheOp = s.scacheOp := (rfl)
@[simp] theorem modBook_stackCtl (b : Nat) (f : Book → Book) (s : State) : (modBook b f s).stackCtl = s.stackCtl := (rfl)
@[simp] theorem modBook_links (b : Nat) (f : Book → Book) (s : State) : (modBook b f s).links = s.links := (rfl)
@[simp] theorem modBook_sentPkts (b : Nat) (f : Book → Book) (s : State) : (modBook b f s).sentPkts = s.sentPkts := (rfl)
@[simp] theorem modBook_sentBlks (b : Nat) (f : Book → Book) (s : State) : (modBook b f s).sentBlks = s.sentBlks := (rfl)
@[simp] theorem modBook_mer (b : Nat) (f : Book → Book) (s : State) : (modBook b f s).mer = s.mer := (rfl)
@[simp] theorem modBook_sessions (b : Nat) (f : Book → Book) (s : State) : (modBook b f s).sessions = s.sessions := (rfl)
@[simp] theorem modBook_queues (b : Nat) (f : Book → Book) (s : State) : (modBook b f s).queues = s.queues := (rfl)
@[simp] theorem modBook_rrNext (b : Nat) (f : Book → Book) (s : State) : (modBook b f s).rrNext = s.rrNext := (rfl)
@[simp] theorem modBook_mrs (b : Nat) (f : Book → Book) (s : State) : (modBook b f s).mrs = s.mrs := (rfl)
@[simp] theorem modBook_qps (b : Nat) (f : Book → Book) (s : State) : (modBook b f s).qps = s.qps := (rfl)
@[simp] theorem modBook_sentHost (b : Nat) (f : Book → Book) (s : State) : (modBook b f s).sentHost = s.sentHost := (rfl)
@[simp] theorem modBook_sentRoce (b : Nat) (f : Book → Book) (s : State) : (modBook b f s).sentRoce = s.sentRoce := (rfl)
@[simp] theorem modBook_sentFrames (b : Nat) (f : Book → Book) (s : State) : (modBook b f s).sentFrames = s.sentFrames := (rfl)
@[simp] theorem modBook_paused (b : Nat) (f : Book → Book) (s : State) : (modBook b f s).paused = s.paused := (rfl)
@[simp] theorem modBook_heldHost (b : Nat) (f : Book → Book) (s : State) : (modBook b f s).heldHost = s.heldHost := (rfl)
@[simp] theorem modBook_heldRoce (b : Nat) (f : Book → Book) (s : State) : (modBook b f s).heldRoce = s.heldRoce := (rfl)
@[simp] theorem modBook_lostEv (b : Nat) (f : Book → Book) (s : State) : (modBook b f s).lostEv = s.lostEv := (rfl)
@[simp] theorem modBook_pool (b : Nat) (f : Book → Book) (s : State) : (modBook b f s).pool = s.pool := (rfl)
@[simp] theorem modBook_faults (b : Nat) (f : Book → Book) (s : State) : (modBook b f s).faults = s.faults := (rfl)
@[simp] theorem modBook_floodNo (b : Nat) (f : Book → Book) (s : State) : (modBook b f s).floodNo = s.floodNo := (rfl)
@[simp] theorem modBook_floods (b : Nat) (f : Book → Book) (s : State) : (modBook b f s).floods = s.floods := (rfl)
@[simp] theorem modBook_rst (b : Nat) (f : Book → Book) (s : State) : (modBook b f s).rst = s.rst := (rfl)
@[simp] theorem modBook_fuses (b : Nat) (f : Book → Book) (s : State) : (modBook b f s).fuses = s.fuses := (rfl)
@[simp] theorem modBook_compass (b : Nat) (f : Book → Book) (s : State) : (modBook b f s).compass = s.compass := (rfl)
@[simp] theorem modBook_legend (b : Nat) (f : Book → Book) (s : State) : (modBook b f s).legend = s.legend := (rfl)
@[simp] theorem modBook_datums (b : Nat) (f : Book → Book) (s : State) : (modBook b f s).datums = s.datums := (rfl)
@[simp] theorem modBook_power (b : Nat) (f : Book → Book) (s : State) : (modBook b f s).power = s.power := (rfl)
@[simp] theorem modBook_pins (b : Nat) (f : Book → Book) (s : State) : (modBook b f s).pins = s.pins := (rfl)
@[simp] theorem modBook_nextId (b : Nat) (f : Book → Book) (s : State) : (modBook b f s).nextId = s.nextId := (rfl)
@[simp] theorem modBook_free (b : Nat) (f : Book → Book) (s : State) : (modBook b f s).free = s.free := (rfl)

/-! ### setQ -/

@[simp] theorem setQ_pending (k : Nat) (q : Queue) (s : State) : (setQ k q s).pending = s.pending := (rfl)
@[simp] theorem setQ_regs (k : Nat) (q : Queue) (s : State) : (setQ k q s).regs = s.regs := (rfl)
@[simp] theorem setQ_hbm (k : Nat) (q : Queue) (s : State) : (setQ k q s).hbm = s.hbm := (rfl)
@[simp] theorem setQ_pin (k : Nat) (q : Queue) (s : State) : (setQ k q s).pin = s.pin := (rfl)
@[simp] theorem setQ_spd (k : Nat) (q : Queue) (s : State) : (setQ k q s).spd = s.spd := (rfl)
@[simp] theorem setQ_poison (k : Nat) (q : Queue) (s : State) : (setQ k q s).poison = s.poison := (rfl)
@[simp] theorem setQ_dirty (k : Nat) (q : Queue) (s : State) : (setQ k q s).dirty = s.dirty := (rfl)
@[simp] theorem setQ_pinBase (k : Nat) (q : Queue) (s : State) : (setQ k q s).pinBase = s.pinBase := (rfl)
@[simp] theorem setQ_pinPoison (k : Nat) (q : Queue) (s : State) : (setQ k q s).pinPoison = s.pinPoison := (rfl)
@[simp] theorem setQ_late (k : Nat) (q : Queue) (s : State) : (setQ k q s).late = s.late := (rfl)
@[simp] theorem setQ_flits (k : Nat) (q : Queue) (s : State) : (setQ k q s).flits = s.flits := (rfl)
@[simp] theorem setQ_tiles (k : Nat) (q : Queue) (s : State) : (setQ k q s).tiles = s.tiles := (rfl)
@[simp] theorem setQ_stewards (k : Nat) (q : Queue) (s : State) : (setQ k q s).stewards = s.stewards := (rfl)
@[simp] theorem setQ_ctxs (k : Nat) (q : Queue) (s : State) : (setQ k q s).ctxs = s.ctxs := (rfl)
@[simp] theorem setQ_ctxQueue (k : Nat) (q : Queue) (s : State) : (setQ k q s).ctxQueue = s.ctxQueue := (rfl)
@[simp] theorem setQ_accs (k : Nat) (q : Queue) (s : State) : (setQ k q s).accs = s.accs := (rfl)
@[simp] theorem setQ_entries (k : Nat) (q : Queue) (s : State) : (setQ k q s).entries = s.entries := (rfl)
@[simp] theorem setQ_credits (k : Nat) (q : Queue) (s : State) : (setQ k q s).credits = s.credits := (rfl)
@[simp] theorem setQ_scacheOp (k : Nat) (q : Queue) (s : State) : (setQ k q s).scacheOp = s.scacheOp := (rfl)
@[simp] theorem setQ_stackCtl (k : Nat) (q : Queue) (s : State) : (setQ k q s).stackCtl = s.stackCtl := (rfl)
@[simp] theorem setQ_links (k : Nat) (q : Queue) (s : State) : (setQ k q s).links = s.links := (rfl)
@[simp] theorem setQ_sentPkts (k : Nat) (q : Queue) (s : State) : (setQ k q s).sentPkts = s.sentPkts := (rfl)
@[simp] theorem setQ_sentBlks (k : Nat) (q : Queue) (s : State) : (setQ k q s).sentBlks = s.sentBlks := (rfl)
@[simp] theorem setQ_mer (k : Nat) (q : Queue) (s : State) : (setQ k q s).mer = s.mer := (rfl)
@[simp] theorem setQ_sessions (k : Nat) (q : Queue) (s : State) : (setQ k q s).sessions = s.sessions := (rfl)
@[simp] theorem setQ_rrNext (k : Nat) (q : Queue) (s : State) : (setQ k q s).rrNext = s.rrNext := (rfl)
@[simp] theorem setQ_mrs (k : Nat) (q : Queue) (s : State) : (setQ k q s).mrs = s.mrs := (rfl)
@[simp] theorem setQ_qps (k : Nat) (q : Queue) (s : State) : (setQ k q s).qps = s.qps := (rfl)
@[simp] theorem setQ_sentHost (k : Nat) (q : Queue) (s : State) : (setQ k q s).sentHost = s.sentHost := (rfl)
@[simp] theorem setQ_sentRoce (k : Nat) (q : Queue) (s : State) : (setQ k q s).sentRoce = s.sentRoce := (rfl)
@[simp] theorem setQ_sentFrames (k : Nat) (q : Queue) (s : State) : (setQ k q s).sentFrames = s.sentFrames := (rfl)
@[simp] theorem setQ_paused (k : Nat) (q : Queue) (s : State) : (setQ k q s).paused = s.paused := (rfl)
@[simp] theorem setQ_heldHost (k : Nat) (q : Queue) (s : State) : (setQ k q s).heldHost = s.heldHost := (rfl)
@[simp] theorem setQ_heldRoce (k : Nat) (q : Queue) (s : State) : (setQ k q s).heldRoce = s.heldRoce := (rfl)
@[simp] theorem setQ_lostEv (k : Nat) (q : Queue) (s : State) : (setQ k q s).lostEv = s.lostEv := (rfl)
@[simp] theorem setQ_books (k : Nat) (q : Queue) (s : State) : (setQ k q s).books = s.books := (rfl)
@[simp] theorem setQ_pool (k : Nat) (q : Queue) (s : State) : (setQ k q s).pool = s.pool := (rfl)
@[simp] theorem setQ_faults (k : Nat) (q : Queue) (s : State) : (setQ k q s).faults = s.faults := (rfl)
@[simp] theorem setQ_floodNo (k : Nat) (q : Queue) (s : State) : (setQ k q s).floodNo = s.floodNo := (rfl)
@[simp] theorem setQ_floods (k : Nat) (q : Queue) (s : State) : (setQ k q s).floods = s.floods := (rfl)
@[simp] theorem setQ_rst (k : Nat) (q : Queue) (s : State) : (setQ k q s).rst = s.rst := (rfl)
@[simp] theorem setQ_fuses (k : Nat) (q : Queue) (s : State) : (setQ k q s).fuses = s.fuses := (rfl)
@[simp] theorem setQ_compass (k : Nat) (q : Queue) (s : State) : (setQ k q s).compass = s.compass := (rfl)
@[simp] theorem setQ_legend (k : Nat) (q : Queue) (s : State) : (setQ k q s).legend = s.legend := (rfl)
@[simp] theorem setQ_datums (k : Nat) (q : Queue) (s : State) : (setQ k q s).datums = s.datums := (rfl)
@[simp] theorem setQ_power (k : Nat) (q : Queue) (s : State) : (setQ k q s).power = s.power := (rfl)
@[simp] theorem setQ_pins (k : Nat) (q : Queue) (s : State) : (setQ k q s).pins = s.pins := (rfl)
@[simp] theorem setQ_nextId (k : Nat) (q : Queue) (s : State) : (setQ k q s).nextId = s.nextId := (rfl)
@[simp] theorem setQ_free (k : Nat) (q : Queue) (s : State) : (setQ k q s).free = s.free := (rfl)

/-! ### setQp -/

@[simp] theorem setQp_pending (n : Nat) (x : Qp) (s : State) : (setQp n x s).pending = s.pending := (rfl)
@[simp] theorem setQp_regs (n : Nat) (x : Qp) (s : State) : (setQp n x s).regs = s.regs := (rfl)
@[simp] theorem setQp_hbm (n : Nat) (x : Qp) (s : State) : (setQp n x s).hbm = s.hbm := (rfl)
@[simp] theorem setQp_pin (n : Nat) (x : Qp) (s : State) : (setQp n x s).pin = s.pin := (rfl)
@[simp] theorem setQp_spd (n : Nat) (x : Qp) (s : State) : (setQp n x s).spd = s.spd := (rfl)
@[simp] theorem setQp_poison (n : Nat) (x : Qp) (s : State) : (setQp n x s).poison = s.poison := (rfl)
@[simp] theorem setQp_dirty (n : Nat) (x : Qp) (s : State) : (setQp n x s).dirty = s.dirty := (rfl)
@[simp] theorem setQp_pinBase (n : Nat) (x : Qp) (s : State) : (setQp n x s).pinBase = s.pinBase := (rfl)
@[simp] theorem setQp_pinPoison (n : Nat) (x : Qp) (s : State) : (setQp n x s).pinPoison = s.pinPoison := (rfl)
@[simp] theorem setQp_late (n : Nat) (x : Qp) (s : State) : (setQp n x s).late = s.late := (rfl)
@[simp] theorem setQp_flits (n : Nat) (x : Qp) (s : State) : (setQp n x s).flits = s.flits := (rfl)
@[simp] theorem setQp_tiles (n : Nat) (x : Qp) (s : State) : (setQp n x s).tiles = s.tiles := (rfl)
@[simp] theorem setQp_stewards (n : Nat) (x : Qp) (s : State) : (setQp n x s).stewards = s.stewards := (rfl)
@[simp] theorem setQp_ctxs (n : Nat) (x : Qp) (s : State) : (setQp n x s).ctxs = s.ctxs := (rfl)
@[simp] theorem setQp_ctxQueue (n : Nat) (x : Qp) (s : State) : (setQp n x s).ctxQueue = s.ctxQueue := (rfl)
@[simp] theorem setQp_accs (n : Nat) (x : Qp) (s : State) : (setQp n x s).accs = s.accs := (rfl)
@[simp] theorem setQp_entries (n : Nat) (x : Qp) (s : State) : (setQp n x s).entries = s.entries := (rfl)
@[simp] theorem setQp_credits (n : Nat) (x : Qp) (s : State) : (setQp n x s).credits = s.credits := (rfl)
@[simp] theorem setQp_scacheOp (n : Nat) (x : Qp) (s : State) : (setQp n x s).scacheOp = s.scacheOp := (rfl)
@[simp] theorem setQp_stackCtl (n : Nat) (x : Qp) (s : State) : (setQp n x s).stackCtl = s.stackCtl := (rfl)
@[simp] theorem setQp_links (n : Nat) (x : Qp) (s : State) : (setQp n x s).links = s.links := (rfl)
@[simp] theorem setQp_sentPkts (n : Nat) (x : Qp) (s : State) : (setQp n x s).sentPkts = s.sentPkts := (rfl)
@[simp] theorem setQp_sentBlks (n : Nat) (x : Qp) (s : State) : (setQp n x s).sentBlks = s.sentBlks := (rfl)
@[simp] theorem setQp_mer (n : Nat) (x : Qp) (s : State) : (setQp n x s).mer = s.mer := (rfl)
@[simp] theorem setQp_sessions (n : Nat) (x : Qp) (s : State) : (setQp n x s).sessions = s.sessions := (rfl)
@[simp] theorem setQp_queues (n : Nat) (x : Qp) (s : State) : (setQp n x s).queues = s.queues := (rfl)
@[simp] theorem setQp_rrNext (n : Nat) (x : Qp) (s : State) : (setQp n x s).rrNext = s.rrNext := (rfl)
@[simp] theorem setQp_mrs (n : Nat) (x : Qp) (s : State) : (setQp n x s).mrs = s.mrs := (rfl)
@[simp] theorem setQp_sentHost (n : Nat) (x : Qp) (s : State) : (setQp n x s).sentHost = s.sentHost := (rfl)
@[simp] theorem setQp_sentRoce (n : Nat) (x : Qp) (s : State) : (setQp n x s).sentRoce = s.sentRoce := (rfl)
@[simp] theorem setQp_sentFrames (n : Nat) (x : Qp) (s : State) : (setQp n x s).sentFrames = s.sentFrames := (rfl)
@[simp] theorem setQp_paused (n : Nat) (x : Qp) (s : State) : (setQp n x s).paused = s.paused := (rfl)
@[simp] theorem setQp_heldHost (n : Nat) (x : Qp) (s : State) : (setQp n x s).heldHost = s.heldHost := (rfl)
@[simp] theorem setQp_heldRoce (n : Nat) (x : Qp) (s : State) : (setQp n x s).heldRoce = s.heldRoce := (rfl)
@[simp] theorem setQp_lostEv (n : Nat) (x : Qp) (s : State) : (setQp n x s).lostEv = s.lostEv := (rfl)
@[simp] theorem setQp_books (n : Nat) (x : Qp) (s : State) : (setQp n x s).books = s.books := (rfl)
@[simp] theorem setQp_pool (n : Nat) (x : Qp) (s : State) : (setQp n x s).pool = s.pool := (rfl)
@[simp] theorem setQp_faults (n : Nat) (x : Qp) (s : State) : (setQp n x s).faults = s.faults := (rfl)
@[simp] theorem setQp_floodNo (n : Nat) (x : Qp) (s : State) : (setQp n x s).floodNo = s.floodNo := (rfl)
@[simp] theorem setQp_floods (n : Nat) (x : Qp) (s : State) : (setQp n x s).floods = s.floods := (rfl)
@[simp] theorem setQp_rst (n : Nat) (x : Qp) (s : State) : (setQp n x s).rst = s.rst := (rfl)
@[simp] theorem setQp_fuses (n : Nat) (x : Qp) (s : State) : (setQp n x s).fuses = s.fuses := (rfl)
@[simp] theorem setQp_compass (n : Nat) (x : Qp) (s : State) : (setQp n x s).compass = s.compass := (rfl)
@[simp] theorem setQp_legend (n : Nat) (x : Qp) (s : State) : (setQp n x s).legend = s.legend := (rfl)
@[simp] theorem setQp_datums (n : Nat) (x : Qp) (s : State) : (setQp n x s).datums = s.datums := (rfl)
@[simp] theorem setQp_power (n : Nat) (x : Qp) (s : State) : (setQp n x s).power = s.power := (rfl)
@[simp] theorem setQp_pins (n : Nat) (x : Qp) (s : State) : (setQp n x s).pins = s.pins := (rfl)
@[simp] theorem setQp_nextId (n : Nat) (x : Qp) (s : State) : (setQp n x s).nextId = s.nextId := (rfl)
@[simp] theorem setQp_free (n : Nat) (x : Qp) (s : State) : (setQp n x s).free = s.free := (rfl)

/-! ### raise -/

@[simp] theorem raise_pending (r : FaultRec) (s : State) : (raise r s).pending = s.pending := by unfold raise; split <;> rfl
@[simp] theorem raise_regs (r : FaultRec) (s : State) : (raise r s).regs = s.regs := by unfold raise; split <;> rfl
@[simp] theorem raise_hbm (r : FaultRec) (s : State) : (raise r s).hbm = s.hbm := by unfold raise; split <;> rfl
@[simp] theorem raise_pin (r : FaultRec) (s : State) : (raise r s).pin = s.pin := by unfold raise; split <;> rfl
@[simp] theorem raise_spd (r : FaultRec) (s : State) : (raise r s).spd = s.spd := by unfold raise; split <;> rfl
@[simp] theorem raise_poison (r : FaultRec) (s : State) : (raise r s).poison = s.poison := by unfold raise; split <;> rfl
@[simp] theorem raise_dirty (r : FaultRec) (s : State) : (raise r s).dirty = s.dirty := by unfold raise; split <;> rfl
@[simp] theorem raise_pinBase (r : FaultRec) (s : State) : (raise r s).pinBase = s.pinBase := by unfold raise; split <;> rfl
@[simp] theorem raise_pinPoison (r : FaultRec) (s : State) : (raise r s).pinPoison = s.pinPoison := by unfold raise; split <;> rfl
@[simp] theorem raise_late (r : FaultRec) (s : State) : (raise r s).late = s.late := by unfold raise; split <;> rfl
@[simp] theorem raise_flits (r : FaultRec) (s : State) : (raise r s).flits = s.flits := by unfold raise; split <;> rfl
@[simp] theorem raise_tiles (r : FaultRec) (s : State) : (raise r s).tiles = s.tiles := by unfold raise; split <;> rfl
@[simp] theorem raise_stewards (r : FaultRec) (s : State) : (raise r s).stewards = s.stewards := by unfold raise; split <;> rfl
@[simp] theorem raise_ctxs (r : FaultRec) (s : State) : (raise r s).ctxs = s.ctxs := by unfold raise; split <;> rfl
@[simp] theorem raise_ctxQueue (r : FaultRec) (s : State) : (raise r s).ctxQueue = s.ctxQueue := by unfold raise; split <;> rfl
@[simp] theorem raise_accs (r : FaultRec) (s : State) : (raise r s).accs = s.accs := by unfold raise; split <;> rfl
@[simp] theorem raise_entries (r : FaultRec) (s : State) : (raise r s).entries = s.entries := by unfold raise; split <;> rfl
@[simp] theorem raise_credits (r : FaultRec) (s : State) : (raise r s).credits = s.credits := by unfold raise; split <;> rfl
@[simp] theorem raise_scacheOp (r : FaultRec) (s : State) : (raise r s).scacheOp = s.scacheOp := by unfold raise; split <;> rfl
@[simp] theorem raise_stackCtl (r : FaultRec) (s : State) : (raise r s).stackCtl = s.stackCtl := by unfold raise; split <;> rfl
@[simp] theorem raise_links (r : FaultRec) (s : State) : (raise r s).links = s.links := by unfold raise; split <;> rfl
@[simp] theorem raise_sentPkts (r : FaultRec) (s : State) : (raise r s).sentPkts = s.sentPkts := by unfold raise; split <;> rfl
@[simp] theorem raise_sentBlks (r : FaultRec) (s : State) : (raise r s).sentBlks = s.sentBlks := by unfold raise; split <;> rfl
@[simp] theorem raise_mer (r : FaultRec) (s : State) : (raise r s).mer = s.mer := by unfold raise; split <;> rfl
@[simp] theorem raise_sessions (r : FaultRec) (s : State) : (raise r s).sessions = s.sessions := by unfold raise; split <;> rfl
@[simp] theorem raise_queues (r : FaultRec) (s : State) : (raise r s).queues = s.queues := by unfold raise; split <;> rfl
@[simp] theorem raise_rrNext (r : FaultRec) (s : State) : (raise r s).rrNext = s.rrNext := by unfold raise; split <;> rfl
@[simp] theorem raise_mrs (r : FaultRec) (s : State) : (raise r s).mrs = s.mrs := by unfold raise; split <;> rfl
@[simp] theorem raise_qps (r : FaultRec) (s : State) : (raise r s).qps = s.qps := by unfold raise; split <;> rfl
@[simp] theorem raise_sentHost (r : FaultRec) (s : State) : (raise r s).sentHost = s.sentHost := by unfold raise; split <;> rfl
@[simp] theorem raise_sentRoce (r : FaultRec) (s : State) : (raise r s).sentRoce = s.sentRoce := by unfold raise; split <;> rfl
@[simp] theorem raise_sentFrames (r : FaultRec) (s : State) : (raise r s).sentFrames = s.sentFrames := by unfold raise; split <;> rfl
@[simp] theorem raise_paused (r : FaultRec) (s : State) : (raise r s).paused = s.paused := by unfold raise; split <;> rfl
@[simp] theorem raise_heldHost (r : FaultRec) (s : State) : (raise r s).heldHost = s.heldHost := by unfold raise; split <;> rfl
@[simp] theorem raise_heldRoce (r : FaultRec) (s : State) : (raise r s).heldRoce = s.heldRoce := by unfold raise; split <;> rfl
@[simp] theorem raise_lostEv (r : FaultRec) (s : State) : (raise r s).lostEv = s.lostEv := by unfold raise; split <;> rfl
@[simp] theorem raise_books (r : FaultRec) (s : State) : (raise r s).books = s.books := by unfold raise; split <;> rfl
@[simp] theorem raise_pool (r : FaultRec) (s : State) : (raise r s).pool = s.pool := by unfold raise; split <;> rfl
@[simp] theorem raise_floodNo (r : FaultRec) (s : State) : (raise r s).floodNo = s.floodNo := by unfold raise; split <;> rfl
@[simp] theorem raise_floods (r : FaultRec) (s : State) : (raise r s).floods = s.floods := by unfold raise; split <;> rfl
@[simp] theorem raise_rst (r : FaultRec) (s : State) : (raise r s).rst = s.rst := by unfold raise; split <;> rfl
@[simp] theorem raise_fuses (r : FaultRec) (s : State) : (raise r s).fuses = s.fuses := by unfold raise; split <;> rfl
@[simp] theorem raise_compass (r : FaultRec) (s : State) : (raise r s).compass = s.compass := by unfold raise; split <;> rfl
@[simp] theorem raise_legend (r : FaultRec) (s : State) : (raise r s).legend = s.legend := by unfold raise; split <;> rfl
@[simp] theorem raise_datums (r : FaultRec) (s : State) : (raise r s).datums = s.datums := by unfold raise; split <;> rfl
@[simp] theorem raise_power (r : FaultRec) (s : State) : (raise r s).power = s.power := by unfold raise; split <;> rfl
@[simp] theorem raise_pins (r : FaultRec) (s : State) : (raise r s).pins = s.pins := by unfold raise; split <;> rfl
@[simp] theorem raise_nextId (r : FaultRec) (s : State) : (raise r s).nextId = s.nextId := by unfold raise; split <;> rfl
@[simp] theorem raise_free (r : FaultRec) (s : State) : (raise r s).free = s.free := by unfold raise; split <;> rfl

/-! ### Derived updates -/

@[simp] theorem regMod_eq (a : Nat) (f : Nat → Nat) (s : State) : regMod a f s = regPut a (f (regRaw s a)) s := (rfl)
@[simp] theorem regFld_eq (a hi lo v : Nat) (s : State) : regFld a hi lo v s = regPut a (setFld (regRaw s a) hi lo v) s := (rfl)
@[simp] theorem regCount_eq (a n : Nat) (s : State) : regCount a n s = regPut a (satAdd 64 (regRaw s a) n) s := (rfl)
@[simp] theorem modTile_eq (t : Nat) (f : Tile → Tile) (s : State) : modTile t f s = setTile t (f (tileOf s t)) s := (rfl)
@[simp] theorem modSt_eq (t n : Nat) (f : Steward → Steward) (s : State) : modSt t n f s = setSt t n (f (stOf s t n)) s := (rfl)
@[simp] theorem modCtx_eq (c : Nat) (f : Ctx → Ctx) (s : State) : modCtx c f s = setCtx c (f (ctxOf s c)) s := (rfl)

/-! ### Reads after updates -/

/-- A register after a write of a register. -/
theorem regRaw_regPut (a v b : Nat) (s : State) : regRaw (regPut a v s) b = if b = a then v % 2 ^ 64 else regRaw s b := by
  by_cases h : b = a
  · subst h; simp [regRaw, regPut]
  · simp [regRaw, regPut, tgetD, tget_tset_ne, h]

@[simp] theorem regRaw_regPut_self (a v : Nat) (s : State) : regRaw (regPut a v s) a = v % 2 ^ 64 := by simp [regRaw_regPut]

@[simp] theorem regRaw_regPut_ne (a v : Nat) {b : Nat} (s : State) (h : b ≠ a) : regRaw (regPut a v s) b = regRaw s b := by
  simp [regRaw_regPut, h]

theorem tileOf_setTile (t : Nat) (x : Tile) (s : State) (u : Nat) : tileOf (setTile t x s) u = if u = t then x else tileOf s u := by
  simp [tileOf, setTile, tgetD_tset]

@[simp] theorem tileOf_setTile_self (t : Nat) (x : Tile) (s : State) : tileOf (setTile t x s) t = x := by simp [tileOf_setTile]

@[simp] theorem tileOf_setTile_ne (t : Nat) (x : Tile) (s : State) {u : Nat} (h : u ≠ t) : tileOf (setTile t x s) u = tileOf s u := by
  simp [tileOf_setTile, h]

@[simp] theorem stOf_setSt_self (t n : Nat) (x : Steward) (s : State) : stOf (setSt t n x s) t n = x := by simp [stOf, setSt]

theorem stOf_setSt_ne (t n : Nat) (x : Steward) (s : State) {u m : Nat} (h : 2 * u + m ≠ 2 * t + n) : stOf (setSt t n x s) u m = stOf s u m := by
  simp [stOf, setSt, h]

theorem ctxOf_setCtx (c : Nat) (x : Ctx) (s : State) (d : Nat) : ctxOf (setCtx c x s) d = if d = c then x else ctxOf s d := by
  simp [ctxOf, setCtx, tgetD_tset]

@[simp] theorem ctxOf_setCtx_self (c : Nat) (x : Ctx) (s : State) : ctxOf (setCtx c x s) c = x := by simp [ctxOf_setCtx]

@[simp] theorem ctxOf_setCtx_ne (c : Nat) (x : Ctx) (s : State) {d : Nat} (h : d ≠ c) : ctxOf (setCtx c x s) d = ctxOf s d := by
  simp [ctxOf_setCtx, h]

@[simp] theorem linkOf_modLink_self (p : Nat) (f : Link → Link) (s : State) : linkOf (modLink p f s) p = f (linkOf s p) := by
  simp [linkOf, modLink]

@[simp] theorem linkOf_modLink_ne (p : Nat) (f : Link → Link) (s : State) {q : Nat} (h : q ≠ p) : linkOf (modLink p f s) q = linkOf s q := by
  simp [linkOf, modLink, h]

@[simp] theorem stackOf_modStack_self (k : Nat) (f : Stack → Stack) (s : State) : stackOf (modStack k f s) k = f (stackOf s k) := by
  simp [stackOf, modStack]

@[simp] theorem stackOf_modStack_ne (k : Nat) (f : Stack → Stack) (s : State) {j : Nat} (h : j ≠ k) :
    stackOf (modStack k f s) j = stackOf s j := by
  simp [stackOf, modStack, h]

@[simp] theorem bookOf_modBook_self (b : Nat) (f : Book → Book) (s : State) : bookOf (modBook b f s) b = f (bookOf s b) := by
  simp [bookOf, modBook]

@[simp] theorem bookOf_modBook_ne (b : Nat) (f : Book → Book) (s : State) {j : Nat} (h : j ≠ b) : bookOf (modBook b f s) j = bookOf s j := by
  simp [bookOf, modBook, h]

@[simp] theorem qOf_setQ_self (k : Nat) (q : Queue) (s : State) : qOf (setQ k q s) k = some q := by simp [qOf, setQ, tget_tput]

@[simp] theorem qOf_setQ_ne (k : Nat) (q : Queue) (s : State) {j : Nat} (h : j ≠ k) : qOf (setQ k q s) j = qOf s j := by
  simp [qOf, setQ, tget_tput, h]

/-! ### Accessors that other updates leave -/

@[simp] theorem tileOf_regPut (a v : Nat) (y : Nat) (s : State) : tileOf (regPut a v s) y = tileOf s y := (rfl)
@[simp] theorem stOf_regPut (a v : Nat) (y z : Nat) (s : State) : stOf (regPut a v s) y z = stOf s y z := (rfl)
@[simp] theorem ctxOf_regPut (a v : Nat) (y : Nat) (s : State) : ctxOf (regPut a v s) y = ctxOf s y := (rfl)
@[simp] theorem linkOf_regPut (a v : Nat) (y : Nat) (s : State) : linkOf (regPut a v s) y = linkOf s y := (rfl)
@[simp] theorem stackOf_regPut (a v : Nat) (y : Nat) (s : State) : stackOf (regPut a v s) y = stackOf s y := (rfl)
@[simp] theorem bookOf_regPut (a v : Nat) (y : Nat) (s : State) : bookOf (regPut a v s) y = bookOf s y := (rfl)
@[simp] theorem qOf_regPut (a v : Nat) (y : Nat) (s : State) : qOf (regPut a v s) y = qOf s y := (rfl)
@[simp] theorem regRaw_setTile (t : Nat) (x : Tile) (y : Nat) (s : State) : regRaw (setTile t x s) y = regRaw s y := (rfl)
@[simp] theorem stOf_setTile (t : Nat) (x : Tile) (y z : Nat) (s : State) : stOf (setTile t x s) y z = stOf s y z := (rfl)
@[simp] theorem ctxOf_setTile (t : Nat) (x : Tile) (y : Nat) (s : State) : ctxOf (setTile t x s) y = ctxOf s y := (rfl)
@[simp] theorem linkOf_setTile (t : Nat) (x : Tile) (y : Nat) (s : State) : linkOf (setTile t x s) y = linkOf s y := (rfl)
@[simp] theorem stackOf_setTile (t : Nat) (x : Tile) (y : Nat) (s : State) : stackOf (setTile t x s) y = stackOf s y := (rfl)
@[simp] theorem bookOf_setTile (t : Nat) (x : Tile) (y : Nat) (s : State) : bookOf (setTile t x s) y = bookOf s y := (rfl)
@[simp] theorem qOf_setTile (t : Nat) (x : Tile) (y : Nat) (s : State) : qOf (setTile t x s) y = qOf s y := (rfl)
@[simp] theorem regRaw_setSt (t n : Nat) (x : Steward) (y : Nat) (s : State) : regRaw (setSt t n x s) y = regRaw s y := (rfl)
@[simp] theorem tileOf_setSt (t n : Nat) (x : Steward) (y : Nat) (s : State) : tileOf (setSt t n x s) y = tileOf s y := (rfl)
@[simp] theorem ctxOf_setSt (t n : Nat) (x : Steward) (y : Nat) (s : State) : ctxOf (setSt t n x s) y = ctxOf s y := (rfl)
@[simp] theorem linkOf_setSt (t n : Nat) (x : Steward) (y : Nat) (s : State) : linkOf (setSt t n x s) y = linkOf s y := (rfl)
@[simp] theorem stackOf_setSt (t n : Nat) (x : Steward) (y : Nat) (s : State) : stackOf (setSt t n x s) y = stackOf s y := (rfl)
@[simp] theorem bookOf_setSt (t n : Nat) (x : Steward) (y : Nat) (s : State) : bookOf (setSt t n x s) y = bookOf s y := (rfl)
@[simp] theorem qOf_setSt (t n : Nat) (x : Steward) (y : Nat) (s : State) : qOf (setSt t n x s) y = qOf s y := (rfl)
@[simp] theorem regRaw_setCtx (c : Nat) (x : Ctx) (y : Nat) (s : State) : regRaw (setCtx c x s) y = regRaw s y := (rfl)
@[simp] theorem tileOf_setCtx (c : Nat) (x : Ctx) (y : Nat) (s : State) : tileOf (setCtx c x s) y = tileOf s y := (rfl)
@[simp] theorem stOf_setCtx (c : Nat) (x : Ctx) (y z : Nat) (s : State) : stOf (setCtx c x s) y z = stOf s y z := (rfl)
@[simp] theorem linkOf_setCtx (c : Nat) (x : Ctx) (y : Nat) (s : State) : linkOf (setCtx c x s) y = linkOf s y := (rfl)
@[simp] theorem stackOf_setCtx (c : Nat) (x : Ctx) (y : Nat) (s : State) : stackOf (setCtx c x s) y = stackOf s y := (rfl)
@[simp] theorem bookOf_setCtx (c : Nat) (x : Ctx) (y : Nat) (s : State) : bookOf (setCtx c x s) y = bookOf s y := (rfl)
@[simp] theorem qOf_setCtx (c : Nat) (x : Ctx) (y : Nat) (s : State) : qOf (setCtx c x s) y = qOf s y := (rfl)
@[simp] theorem regRaw_modLink (p : Nat) (f : Link → Link) (y : Nat) (s : State) : regRaw (modLink p f s) y = regRaw s y := (rfl)
@[simp] theorem tileOf_modLink (p : Nat) (f : Link → Link) (y : Nat) (s : State) : tileOf (modLink p f s) y = tileOf s y := (rfl)
@[simp] theorem stOf_modLink (p : Nat) (f : Link → Link) (y z : Nat) (s : State) : stOf (modLink p f s) y z = stOf s y z := (rfl)
@[simp] theorem ctxOf_modLink (p : Nat) (f : Link → Link) (y : Nat) (s : State) : ctxOf (modLink p f s) y = ctxOf s y := (rfl)
@[simp] theorem stackOf_modLink (p : Nat) (f : Link → Link) (y : Nat) (s : State) : stackOf (modLink p f s) y = stackOf s y := (rfl)
@[simp] theorem bookOf_modLink (p : Nat) (f : Link → Link) (y : Nat) (s : State) : bookOf (modLink p f s) y = bookOf s y := (rfl)
@[simp] theorem qOf_modLink (p : Nat) (f : Link → Link) (y : Nat) (s : State) : qOf (modLink p f s) y = qOf s y := (rfl)
@[simp] theorem regRaw_modStack (k : Nat) (f : Stack → Stack) (y : Nat) (s : State) : regRaw (modStack k f s) y = regRaw s y := (rfl)
@[simp] theorem tileOf_modStack (k : Nat) (f : Stack → Stack) (y : Nat) (s : State) : tileOf (modStack k f s) y = tileOf s y := (rfl)
@[simp] theorem stOf_modStack (k : Nat) (f : Stack → Stack) (y z : Nat) (s : State) : stOf (modStack k f s) y z = stOf s y z := (rfl)
@[simp] theorem ctxOf_modStack (k : Nat) (f : Stack → Stack) (y : Nat) (s : State) : ctxOf (modStack k f s) y = ctxOf s y := (rfl)
@[simp] theorem linkOf_modStack (k : Nat) (f : Stack → Stack) (y : Nat) (s : State) : linkOf (modStack k f s) y = linkOf s y := (rfl)
@[simp] theorem bookOf_modStack (k : Nat) (f : Stack → Stack) (y : Nat) (s : State) : bookOf (modStack k f s) y = bookOf s y := (rfl)
@[simp] theorem qOf_modStack (k : Nat) (f : Stack → Stack) (y : Nat) (s : State) : qOf (modStack k f s) y = qOf s y := (rfl)
@[simp] theorem regRaw_modBook (b : Nat) (f : Book → Book) (y : Nat) (s : State) : regRaw (modBook b f s) y = regRaw s y := (rfl)
@[simp] theorem tileOf_modBook (b : Nat) (f : Book → Book) (y : Nat) (s : State) : tileOf (modBook b f s) y = tileOf s y := (rfl)
@[simp] theorem stOf_modBook (b : Nat) (f : Book → Book) (y z : Nat) (s : State) : stOf (modBook b f s) y z = stOf s y z := (rfl)
@[simp] theorem ctxOf_modBook (b : Nat) (f : Book → Book) (y : Nat) (s : State) : ctxOf (modBook b f s) y = ctxOf s y := (rfl)
@[simp] theorem linkOf_modBook (b : Nat) (f : Book → Book) (y : Nat) (s : State) : linkOf (modBook b f s) y = linkOf s y := (rfl)
@[simp] theorem stackOf_modBook (b : Nat) (f : Book → Book) (y : Nat) (s : State) : stackOf (modBook b f s) y = stackOf s y := (rfl)
@[simp] theorem qOf_modBook (b : Nat) (f : Book → Book) (y : Nat) (s : State) : qOf (modBook b f s) y = qOf s y := (rfl)
@[simp] theorem regRaw_setQ (k : Nat) (q : Queue) (y : Nat) (s : State) : regRaw (setQ k q s) y = regRaw s y := (rfl)
@[simp] theorem tileOf_setQ (k : Nat) (q : Queue) (y : Nat) (s : State) : tileOf (setQ k q s) y = tileOf s y := (rfl)
@[simp] theorem stOf_setQ (k : Nat) (q : Queue) (y z : Nat) (s : State) : stOf (setQ k q s) y z = stOf s y z := (rfl)
@[simp] theorem ctxOf_setQ (k : Nat) (q : Queue) (y : Nat) (s : State) : ctxOf (setQ k q s) y = ctxOf s y := (rfl)
@[simp] theorem linkOf_setQ (k : Nat) (q : Queue) (y : Nat) (s : State) : linkOf (setQ k q s) y = linkOf s y := (rfl)
@[simp] theorem stackOf_setQ (k : Nat) (q : Queue) (y : Nat) (s : State) : stackOf (setQ k q s) y = stackOf s y := (rfl)
@[simp] theorem bookOf_setQ (k : Nat) (q : Queue) (y : Nat) (s : State) : bookOf (setQ k q s) y = bookOf s y := (rfl)
@[simp] theorem regRaw_setQp (n : Nat) (x : Qp) (y : Nat) (s : State) : regRaw (setQp n x s) y = regRaw s y := (rfl)
@[simp] theorem tileOf_setQp (n : Nat) (x : Qp) (y : Nat) (s : State) : tileOf (setQp n x s) y = tileOf s y := (rfl)
@[simp] theorem stOf_setQp (n : Nat) (x : Qp) (y z : Nat) (s : State) : stOf (setQp n x s) y z = stOf s y z := (rfl)
@[simp] theorem ctxOf_setQp (n : Nat) (x : Qp) (y : Nat) (s : State) : ctxOf (setQp n x s) y = ctxOf s y := (rfl)
@[simp] theorem linkOf_setQp (n : Nat) (x : Qp) (y : Nat) (s : State) : linkOf (setQp n x s) y = linkOf s y := (rfl)
@[simp] theorem stackOf_setQp (n : Nat) (x : Qp) (y : Nat) (s : State) : stackOf (setQp n x s) y = stackOf s y := (rfl)
@[simp] theorem bookOf_setQp (n : Nat) (x : Qp) (y : Nat) (s : State) : bookOf (setQp n x s) y = bookOf s y := (rfl)
@[simp] theorem qOf_setQp (n : Nat) (x : Qp) (y : Nat) (s : State) : qOf (setQp n x s) y = qOf s y := (rfl)
@[simp] theorem regRaw_raise (r : FaultRec) (y : Nat) (s : State) : regRaw (raise r s) y = regRaw s y := by unfold raise; split <;> rfl
@[simp] theorem tileOf_raise (r : FaultRec) (y : Nat) (s : State) : tileOf (raise r s) y = tileOf s y := by unfold raise; split <;> rfl
@[simp] theorem stOf_raise (r : FaultRec) (y z : Nat) (s : State) : stOf (raise r s) y z = stOf s y z := by unfold raise; split <;> rfl
@[simp] theorem ctxOf_raise (r : FaultRec) (y : Nat) (s : State) : ctxOf (raise r s) y = ctxOf s y := by unfold raise; split <;> rfl
@[simp] theorem linkOf_raise (r : FaultRec) (y : Nat) (s : State) : linkOf (raise r s) y = linkOf s y := by unfold raise; split <;> rfl
@[simp] theorem stackOf_raise (r : FaultRec) (y : Nat) (s : State) : stackOf (raise r s) y = stackOf s y := by unfold raise; split <;> rfl
@[simp] theorem bookOf_raise (r : FaultRec) (y : Nat) (s : State) : bookOf (raise r s) y = bookOf s y := by unfold raise; split <;> rfl
@[simp] theorem qOf_raise (r : FaultRec) (y : Nat) (s : State) : qOf (raise r s) y = qOf s y := by unfold raise; split <;> rfl

end Sys2Proof.Machine
end

