-- ==== Sys2Proof/Laws/Memory.lean ====
section
/-!
SUPPORT. Every operation on the memories keeps their canonical form: the writes, the clearings, pinning, and the memory after reset.
-/

namespace Sys2Proof.Machine

theorem memOk_iff (s : State) : s.memOk = true ↔ Memory.wf s.hbm = true ∧ Memory.wf s.pin = true ∧ Memory.wf s.spd = true := by
  simp [State.memOk, and_assoc]

/-- An operation that leaves the three memories keeps their form. -/
theorem memOk_same {s n : State} (hh : n.hbm = s.hbm) (hp : n.pin = s.pin) (hs : n.spd = s.spd) : n.memOk = s.memOk := by
  simp [State.memOk, hh, hp, hs]

theorem memOk_reset : State.reset.memOk = true := by decide

/-- A memory with nothing listed is in canonical form. -/
theorem wf_nil : Memory.wf [] = true := rfl

/-- A fold of writes to a memory keeps its form. -/
theorem foldl_tset_wf {β : Type} (k : β → Nat) (v : β → Byte) (l : List β) {m : Tab Byte} (h : Memory.wf m = true) :
    Memory.wf (l.foldl (fun m x => tset unwritten m (k x) (v x)) m) = true := by
  induction l generalizing m with
  | nil => exact h
  | cons x r ih => exact ih (tabWf_tset (k x) (v x) h)

/-- A fold of an operation that keeps the form keeps it. -/
theorem foldl_memOk {β : Type} {f : State → β → State} (hf : ∀ s x, s.memOk = true → (f s x).memOk = true) (l : List β) {s : State}
    (h : s.memOk = true) : (l.foldl f s).memOk = true := by
  induction l generalizing s with
  | nil => exact h
  | cons x r ih => exact ih (hf s x h)

/-! ### Stacked memory -/

theorem pinWrite_keeps (d : List Byte) (a : Nat) {s : State} (h : s.memOk = true) : (pinWrite a d s).memOk = true := by
  induction d generalizing a s with
  | nil => exact h
  | cons b r ih =>
    rw [memOk_iff] at h
    unfold pinWrite
    split
    · exact ih (a + 1) ((memOk_iff _).2 ⟨h.1, tabWf_tset a b h.2.1, h.2.2⟩)
    · exact ih (a + 1) ((memOk_iff _).2 ⟨tabWf_tset a b h.1, h.2.1, h.2.2⟩)

/-- A write of bytes to HBM keeps the form, pinned or not (R303, R323). -/
theorem hbmWrite_keeps (a : Nat) (d : List Byte) {s : State} (h : s.memOk = true) : (hbmWrite a d s).memOk = true := by
  simp only [hbmWrite]
  split
  · exact pinWrite_keeps d a h
  · rw [memOk_iff] at h ⊢
    exact ⟨memWrite_wf d a h.1, h.2⟩

/-- Clearing HBM, whole or of one die, leaves a memory in canonical form. -/
theorem hbmClear_keeps {s : State} (h : s.memOk = true) : (hbmClear s).memOk = true := by
  rw [memOk_iff] at h ⊢
  exact ⟨wf_nil, h.2⟩

theorem hbmClearDie_keeps (d : Nat) {s : State} (h : s.memOk = true) : (hbmClearDie d s).memOk = true := by
  unfold hbmClearDie
  split
  · exact hbmClear_keeps h
  · rw [memOk_iff] at h ⊢
    exact ⟨memZero_wf _ _ h.1, h.2⟩

/-- A power-on of dies' memory without self refresh (R333). -/
theorem loseDomains_keeps (dies : List Nat) {s : State} (h : s.memOk = true) : (loseDomains dies s).memOk = true := by
  rw [memOk_iff] at h ⊢
  exact ⟨tabWf_filter _ h.1, h.2⟩

/-- Pinning, whatever the dirty lines it discards hold (R323, R324). -/
theorem loseDirty_keeps (d b n : Nat) {s : State} (h : s.memOk = true) : (loseDirty d b n s).memOk = true := by
  dsimp only [loseDirty]
  apply foldl_memOk
  · intro s l hs; exact hs
  rw [memOk_iff] at h ⊢
  exact ⟨foldl_tset_wf (fun p : Nat × Nat => p.1) (fun p => BitVec.ofNat 8 (Config.freeNat (s.free + p.2))) _ h.1, h.2⟩

/-- Unpinning (R324). -/
theorem dropPins_keeps (d : Nat) {s : State} (h : s.memOk = true) : (dropPins d s).memOk = true := by
  rw [memOk_iff] at h ⊢
  exact ⟨h.1, tabWf_filter _ h.2.1, h.2.2⟩

theorem pinCtlWrite_keeps (d v : Nat) {s n : State} (h : s.memOk = true) (hn : pinCtlWrite d v s = some n) : n.memOk = true := by
  simp only [pinCtlWrite] at hn
  split at hn
  · split at hn
    · cases hn
    · split at hn
      · cases hn; exact h
      · cases hn; exact dropPins_keeps d h
  · split at hn
    · split at hn
      · cases hn; exact loseDirty_keeps d _ _ (dropPins_keeps d h)
      · cases hn
    · cases hn; exact h

/-- FLUSH and CLEAR of the stack caches (R309, R331). -/
theorem scacheCmdComplete_keeps (d : Nat) {s : State} (h : s.memOk = true) : (scacheCmdComplete d s).memOk = true := by
  unfold scacheCmdComplete
  split
  · exact h
  · rename_i base top _
    by_cases ho : top = 0
    · simp only [ho, if_true]; exact h
    · simp only [ho, if_false]
      rw [memOk_iff] at h ⊢
      exact ⟨tabWf_filter _ h.1, tabWf_filter _ h.2.1, h.2.2⟩

/-! ### Scratchpads -/

@[simp] theorem endReservations_hbm (t o n : Nat) (s : State) : (endReservations t o n s).hbm = s.hbm := by
  simp only [endReservations, List.foldl_cons, List.foldl_nil]
  repeat' split
  all_goals rfl

@[simp] theorem endReservations_pin (t o n : Nat) (s : State) : (endReservations t o n s).pin = s.pin := by
  simp only [endReservations, List.foldl_cons, List.foldl_nil]
  repeat' split
  all_goals rfl

@[simp] theorem endReservations_spd (t o n : Nat) (s : State) : (endReservations t o n s).spd = s.spd := by
  simp only [endReservations, List.foldl_cons, List.foldl_nil]
  repeat' split
  all_goals rfl

/-- What a write to a scratchpad does to the three memories: bytes of that scratchpad, and nothing else. -/
@[simp] theorem spdWrite_spd (t o : Nat) (d : List Byte) (s : State) : (spdWrite t o d s).spd = memWrite s.spd (t * spdSize + o) d := by
  simp [spdWrite]
@[simp] theorem spdWrite_hbm (t o : Nat) (d : List Byte) (s : State) : (spdWrite t o d s).hbm = s.hbm := by simp [spdWrite]
@[simp] theorem spdWrite_pin (t o : Nat) (d : List Byte) (s : State) : (spdWrite t o d s).pin = s.pin := by simp [spdWrite]

theorem spdWrite_keeps (t o : Nat) (d : List Byte) {s : State} (h : s.memOk = true) : (spdWrite t o d s).memOk = true := by
  rw [memOk_iff] at h ⊢
  simp only [spdWrite_hbm, spdWrite_pin, spdWrite_spd]
  exact ⟨h.1, h.2.1, memWrite_wf d _ h.2.2⟩

/-- A write of a request at a scratchpad's port keeps the form (R290–R292). -/
theorem portWrite_keeps (t : Nat) (lost : List Nat) (o : Nat) (d : List Byte) {s : State} (h : s.memOk = true) :
    (portWrite t lost o d s).memOk = true := by
  have hf : ((d.zip (List.range d.length)).foldl (fun s b =>
      if lost.contains ((o + b.2) / 8) then s else { s with spd := tset unwritten s.spd (t * spdSize + o + b.2) b.1 }) s).memOk = true := by
    refine foldl_memOk ?_ _ h
    intro s x hs
    split
    · exact hs
    · rw [memOk_iff] at hs ⊢
      exact ⟨hs.1, hs.2.1, tabWf_tset _ _ hs.2.2⟩
  unfold portWrite
  by_cases hb : (tileOf s t).eccBad = [] <;> simp only [hb, if_true, if_false] <;> exact hf

/-- What CREATE and a tile's power-on do to its scratchpad (R73, R293). -/
theorem createTile_keeps (t : Nat) {s : State} (h : s.memOk = true) : (createTile t s).memOk = true := by
  rw [memOk_iff] at h ⊢
  exact ⟨h.1, h.2.1, memZero_wf _ _ h.2.2⟩

theorem tileFresh_keeps (t : Nat) {s : State} (h : s.memOk = true) : (tileFresh t s).memOk = true := by
  rw [memOk_iff] at h ⊢
  exact ⟨h.1, h.2.1, memZero_wf _ _ h.2.2⟩

/-- Phase 7 of a chip reset: stacked memory stands, the scratchpads and pinned lines end. -/
theorem internalReset_keeps {s : State} (h : s.memOk = true) : (internalReset s).memOk = true := by
  rw [memOk_iff] at h ⊢
  exact ⟨h.1, wf_nil, wf_nil⟩

/-! ### Bytes of a scratchpad -/

/-- A read of bytes is the reads of its bytes. -/
theorem memRead_length (m : Tab Byte) (a n : Nat) : (memRead m a n).length = n := by
  induction n generalizing a with
  | zero => rfl
  | succ n ih => simp [memRead, ih]

theorem memRead_getElem (m : Tab Byte) (a n i : Nat) (h : i < (memRead m a n).length) : (memRead m a n)[i] = memByte m (a + i) := by
  induction n generalizing a i with
  | zero => simp [memRead] at h
  | succ n ih =>
    cases i with
    | zero => simp [memRead]
    | succ i =>
      simp only [memRead, List.getElem_cons_succ]
      rw [ih]
      congr 1; omega

end Sys2Proof.Machine
end

