-- ==== Sys2Proof/Laws/Steward.lean ====
section
/-!
SUPPORT. What a command does on a live module and elsewhere, and what a steward's row does where its instruction is next.
-/

namespace Sys2Proof.Machine

theorem act_live {s : State} {f : State → State} {ok : Bool} (h : live s = true) (hok : ok = true) : act ok s f = .next (f s) := by
  simp [act, whenLive, h, hok]

theorem act_idle {s : State} {f : State → State} {ok : Bool} (h : live s = false) (hok : ok = true) : act ok s f = .next s := by
  simp [act, whenLive, h, hok]

theorem act_next {s n : State} {f : State → State} {ok : Bool} (h : act ok s f = .next n) : ok = true ∧ n = whenLive s f := by
  cases ok with
  | false => simp [act] at h
  | true => exact ⟨rfl, by simpa [act] using h.symm⟩

theorem tileOk_of {t : Nat} (h : t < 128) : tileOk t = true := by simp [tileOk, h]

theorem stOk_of {t n : Nat} (h : t < 128) (hn : n < 2) : (tileOk t && decide (n < 2)) = true := by simp [tileOk, h, hn]

/-- Two states that differ in nothing but in how the stewards' table lists the same stewards. -/
def sameSt (n m : State) : Prop := { n with stewards := m.stewards } = m ∧ ∀ u j, stOf n u j = stOf m u j

theorem sameSt_refl (s : State) : sameSt s s := ⟨rfl, fun _ _ => rfl⟩

theorem stOf_setSt (t n : Nat) (x : Steward) (s : State) (u m : Nat) :
    stOf (setSt t n x s) u m = if 2 * u + m = 2 * t + n then x else stOf s u m := by
  simp [stOf, setSt, tgetD_tset]

theorem stepEnd_sameSt (t n : Nat) (s : State) : sameSt (stepEnd t n false s) s := by
  refine ⟨rfl, fun u j => ?_⟩
  simp only [stepEnd, modSt_eq, Bool.false_eq_true, false_and, if_false, stOf_setSt]
  split
  · rename_i h
    simp only [stOf, h]
  · rfl

/-- A steward's row at its instruction: the instruction's effect, up to how the stewards are listed. -/
theorem stRow_at {k : RvRow} {s s' : State} {t n w len raw : Nat} (h : stAt s t n w len raw s') (hk : rvRow w = k)
    (bad : Fetched → State → State) (f : Nat → Nat → Nat → State → State) :
    ∃ nx, act (tileOk t && decide (n < 2)) s (stRow k t n bad f) = .next nx ∧ sameSt nx (f w len raw s') := by
  obtain ⟨hl, ht, hn, h⟩ := h
  refine ⟨stRow k t n bad f s, act_live hl (stOk_of ht hn), ?_⟩
  rcases h with ⟨hr, hw, h1, h2, h3⟩ | ⟨hr, hh, hf⟩
  · subst h1 h2 h3
    simp only [stRow, hr, hw, hk, if_true]
    exact sameSt_refl _
  · simp only [stRow, hr, hh, hf, hk, if_true, Bool.false_eq_true, if_false]
    exact stepEnd_sameSt t n _

theorem stOwn_at {k : RvRow} {s s' : State} {t n w len raw : Nat} (h : stAt s t n w len raw s') (hk : rvRow w = k)
    (f : Nat → Nat → Nat → Nat → Nat → State → State) :
    ∃ nx, act (tileOk t && decide (n < 2)) s (stOwn k t n f) = .next nx ∧ sameSt nx (f t n w len raw s') := stRow_at h hk _ _

theorem sameSt_onlySt {t k : Nat} {s n m : State} (h : sameSt n m) (hm : onlySt t k s m) : onlySt t k s n := by
  refine ⟨?_, fun u j hj hu => (h.2 u j).trans (hm.2 u j hj hu)⟩
  have := hm.1
  rw [← h.1] at this
  exact this

theorem setSt_onlySt (t k : Nat) (hk : k < 2) (x : Steward) (s : State) : onlySt t k s (setSt t k x s) := by
  refine ⟨rfl, fun u j hj hu => ?_⟩
  rw [stOf_setSt, if_neg]
  intro h
  exact hu ⟨by omega, by omega⟩

/-- The instruction retires: only its steward changes. -/
theorem stDone_retires (t n len rd v : Nat) (hn : n < 2) (s : State) : stRetires t n len rd v s (stDone t n len rd v s) :=
  ⟨setSt_onlySt t n hn _ s, by simp [stDone, retired]⟩

theorem sameSt_retires {t k len rd v : Nat} {s n m : State} (h : sameSt n m) (hm : stRetires t k len rd v s m) : stRetires t k len rd v s n :=
  ⟨sameSt_onlySt h hm.1, (h.2 t k).trans hm.2⟩

theorem stAt_lt {s s' : State} {t n w len raw : Nat} (h : stAt s t n w len raw s') : n < 2 := h.2.2.1

end Sys2Proof.Machine
end

