-- ==== Sys2Proof/Laws/Vector.lean ====
section
/-!
SUPPORT. The vector engine: the row of an instruction that is done puts the engine past it; lanes of joined images.
-/

namespace Sys2Proof.Machine

theorem regRaw_eq_of_regs {s n : State} (h : n.regs = s.regs) (a : Nat) : regRaw n a = regRaw s a := by simp only [regRaw, h]

theorem tileOf_eq_of_tiles {s n : State} (h : n.tiles = s.tiles) (t : Nat) : tileOf n t = tileOf s t := by simp only [tileOf, h]

@[simp] theorem tileOf_modVxe_self (t : Nat) (f : Vxe → Vxe) (s : State) : tileOf (modVxe t f s) t = { tileOf s t with vxe := f (vxeOf s t) } := by
  simp [modVxe, vxeOf]

@[simp] theorem vxeOf_modVxe_self (t : Nat) (f : Vxe → Vxe) (s : State) : vxeOf (modVxe t f s) t = f (vxeOf s t) := by
  simp [vxeOf]

theorem tileOf_modVxe_ne (t : Nat) (f : Vxe → Vxe) (s : State) {u : Nat} (h : u ≠ t) : tileOf (modVxe t f s) u = tileOf s u := by
  simp [modVxe, h]

theorem modVxe_others (t : Nat) (f : Vxe → Vxe) (s : State) : { modVxe t f s with tiles := s.tiles } = s := (rfl)

/-- The row of an instruction whose action is done on a state with the engine at the same place. -/
theorem vxeRow_done {s s' : State} {t op : Nat} {f : Nat → State → VRes} (h : vxeRuns s t op) (hf : f (vxeWord s t) s = .done s')
    (hi : (vxeOf s' t).index = (vxeOf s t).index) (hm : (vxeOf s' t).mc = (vxeOf s t).mc) :
    act (tileOk t) s (vxeRow op t false f) = .next (modVxe t stepped s') := by
  obtain ⟨h1, h2, h3, h4, h5, h6⟩ := h
  have h7 : (vUses (vOpc (tgetD (0 : Word) (vxeOf s t).mc ((vxeOf s t).index + 1)).toNat)).isNone = false := by
    cases hh : vUses (vOpc (tgetD (0 : Word) (vxeOf s t).mc ((vxeOf s t).index + 1)).toNat) with
    | none => rw [hh] at h6; cases h6
    | some _ => rfl
  have hw : vxeWord (modVxe t (fun v => { v with index := (vxeOf s t).index + 1, waiting := false }) s') t
      = (tgetD (0 : Word) (vxeOf s t).mc ((vxeOf s t).index + 1)).toNat := by
    unfold vxeWord
    rw [vxeOf_modVxe_self]
    simp only [hm]
  have hadv : vxeAdvance t s' = modVxe t (fun v => { v with index := (vxeOf s t).index + 1, waiting := false }) s' := by
    unfold vxeAdvance
    simp only [hi, if_neg (show ¬ 8191 ≤ (vxeOf s t).index by omega)]
    unfold vxeAt
    simp only [hw, h7]
    rfl
  have hst : modVxe t (fun v => { v with index := (vxeOf s t).index + 1, waiting := false }) s' = modVxe t stepped s' := by
    unfold modVxe
    have : (tileOf s' t).vxe.index = (vxeOf s t).index := hi
    simp only [modTile_eq, stepped, this]
  have hr : vxeRow op t false f s = modVxe t stepped s' := by
    unfold vxeRow
    simp only [h3, if_true, h4, hf, hadv, hst]
    rfl
  have ht : tileOk t = true := by simp [tileOk, h2]
  simp only [act, ht, if_true, whenLive, h1, hr]

/-- An instruction that only changes the engine. -/
theorem vxeRow_did {s : State} {t op : Nat} {f : Nat → State → VRes} {g : Vxe → Vxe} (h : vxeRuns s t op)
    (hf : f (vxeWord s t) s = .done (modVxe t g s)) (hi : (g (vxeOf s t)).index = (vxeOf s t).index) (hm : (g (vxeOf s t)).mc = (vxeOf s t).mc) :
    ∃ n, act (tileOk t) s (vxeRow op t false f) = .next n ∧ vxeDid t g s n := by
  refine ⟨_, vxeRow_done h hf (by rw [vxeOf_modVxe_self]; exact hi) (by rw [vxeOf_modVxe_self]; exact hm), ⟨rfl, ?_⟩, ?_⟩
  · intro u hu
    rw [tileOf_modVxe_ne _ _ _ hu, tileOf_modVxe_ne _ _ _ hu]
  · rw [tileOf_modVxe_self, tileOf_modVxe_self, vxeOf_modVxe_self]

@[simp] theorem withVreg_index (d v : Nat) (x : Vxe) : (withVreg d v x).index = x.index := (rfl)
@[simp] theorem withVreg_mc (d v : Nat) (x : Vxe) : (withVreg d v x).mc = x.mc := (rfl)
@[simp] theorem withMreg_index (d v : Nat) (x : Vxe) : (withMreg d v x).index = x.index := (rfl)
@[simp] theorem withMreg_mc (d v : Nat) (x : Vxe) : (withMreg d v x).mc = x.mc := (rfl)
@[simp] theorem withRacc_index (d : Nat) (r : Racc) (x : Vxe) : (withRacc d r x).index = x.index := (rfl)
@[simp] theorem withRacc_mc (d : Nat) (r : Racc) (x : Vxe) : (withRacc d r x).mc = x.mc := (rfl)

/-- An instruction that writes one vector register, one mask register, one accumulator. -/
theorem vxeRow_vreg {s : State} {t op d v : Nat} {f : Nat → State → VRes} (h : vxeRuns s t op) (hf : f (vxeWord s t) s = .done (setVreg t d v s)) :
    ∃ n, act (tileOk t) s (vxeRow op t false f) = .next n ∧ vxeDid t (withVreg d v) s n :=
  vxeRow_did h hf (withVreg_index _ _ _) (withVreg_mc _ _ _)
theorem vxeRow_mreg {s : State} {t op d v : Nat} {f : Nat → State → VRes} (h : vxeRuns s t op) (hf : f (vxeWord s t) s = .done (setMreg t d v s)) :
    ∃ n, act (tileOk t) s (vxeRow op t false f) = .next n ∧ vxeDid t (withMreg d v) s n :=
  vxeRow_did h hf (withMreg_index _ _ _) (withMreg_mc _ _ _)
theorem vxeRow_racc {s : State} {t op d : Nat} {r : Racc} {f : Nat → State → VRes} (h : vxeRuns s t op) (hf : f (vxeWord s t) s = .done (setRacc t d r s)) :
    ∃ n, act (tileOk t) s (vxeRow op t false f) = .next n ∧ vxeDid t (withRacc d r) s n :=
  vxeRow_did h hf (withRacc_index _ _ _) (withRacc_mc _ _ _)

theorem joinLanes_nil (w : Nat) : joinLanes w [] = 0 := (rfl)

/-- Element i of joined elements. -/
theorem joinLanes_get (w : Nat) (l : List Nat) (i : Nat) : (joinLanes w l >>> (w * i)) % 2 ^ w = l.getD i 0 % 2 ^ w := by
  induction l generalizing i with
  | nil => simp [joinLanes]
  | cons x r ih =>
    have hx : x % 2 ^ w < 2 ^ w := Nat.mod_lt _ (Nat.two_pow_pos w)
    cases i with
    | zero => simp [joinLanes, Nat.shiftLeft_eq]
    | succ i =>
      have h1 : joinLanes w (x :: r) >>> (w * (i + 1)) = joinLanes w r >>> (w * i) := by
        rw [show w * (i + 1) = w + w * i by ring, Nat.shiftRight_add]
        congr 1
        simp only [joinLanes, Nat.shiftLeft_eq, Nat.shiftRight_eq_div_pow]
        rw [Nat.add_mul_div_right _ _ (Nat.two_pow_pos w), Nat.div_eq_of_lt hx, Nat.zero_add]
      rw [h1, ih]
      simp

theorem laneOf_joinLanes (l : List Nat) (i : Nat) : laneOf (joinLanes 32 l) i = l.getD i 0 % 2 ^ 32 := joinLanes_get 32 l i

theorem bit_joinLanes (l : List Nat) (i : Nat) : bit (joinLanes 1 l) i = decide (l.getD i 0 % 2 = 1) := by
  have h := joinLanes_get 1 l i
  rw [one_mul, pow_one] at h
  simp only [bit, Nat.testBit, ← h, Nat.one_and_eq_mod_two]
  cases hb : (joinLanes 1 l >>> i) % 2 with
  | zero => simp
  | succ k => cases k with
    | zero => simp
    | succ k => omega

theorem laneOf_lt (a l : Nat) : laneOf a l < 2 ^ 32 := Nat.mod_lt _ (Nat.two_pow_pos 32)

end Sys2Proof.Machine
end

