-- ==== Sys2Proof/Tests/Slice0.lean ====
section
/-!
SUPPORT. Tests of single steps with results taken from the spec, and for each statement with hypotheses a state and operands that meet them.
-/

set_option Elab.async false

namespace Sys2Proof.Tests

open Machine

/-! ### Helpers -/

/-- A powered module outside chip reset. -/
def on : State := { ({} : State) with pins := { pwrEn := true, prsnt := true, safe := true } }

/-- Registers set. -/
def withRegs (l : Tab Word) (s : State) : State := { s with regs := l.foldl (fun t p => tput t p.1 p.2) s.regs }

/-- The same with every tile domain on and every stack READY. -/
def up : State :=
  withRegs ((List.range 20).map (fun k => (aHbmc k 0, 1#64)) ++ [(aPwrc 0x8, 0xFFFFFFFFFFFFFFFF#64), (aPwrc 0x10, 0xFFFF#64)]) on

/-- An agent may write a register, as a Bool. -/
def mayB (who : Who) (a w : Nat) (s : State) : Bool :=
  (who == .f0 || who == .compass) && (match regFor who true a w s with | .ok _ => true | .error _ => false)

theorem mayB_ok (who : Who) (a w : Nat) (s : State) (h : mayB who a w s = true) : mayWrite who a w s := by
  unfold mayB at h
  simp only [Bool.and_eq_true, Bool.or_eq_true, beq_iff_eq] at h
  refine ⟨h.1, ?_⟩
  cases hr : regFor who true a w s with
  | ok r => exact ⟨r, rfl⟩
  | error e => simp [hr] at h

theorem quiet_of (s : State) (h : (List.range 4).all (fun c => (List.range 64).all (fun k => !traceOn s c k)) = true) : quiet s := by
  intro c k hc hk
  have h1 := List.all_eq_true.1 h c (List.mem_range.2 hc)
  have h2 := List.all_eq_true.1 h1 k (List.mem_range.2 hk)
  simpa using h2

/-- What the next state of a command shows. -/
def after {α : Type} (i : Instr) (s : State) (f : State → α) : Option α := (nextOf (exec i s)).map f

/-! ### The block as a whole -/

theorem witness_StepRunsFront_1 : ({ on with pending := [.faultRecord] } : State).pending = .faultRecord :: [] := rfl
theorem witness_StepRunsFront_2 : (({} : State).pending = [] ∧ ({} : State).pins.pwrEn = false) ∧ (on.pending = [] ∧ on.pins.pwrEn = true) := by decide +kernel
theorem test_idle_tick : (nextOf (step on)).map now = some 1 := by decide +kernel

/-- Every kind of number out of range is refused: tile, steward, array, stream, slot, buffer, port, context, function, queue, book, die, stack, MRU,
memory partition, access width, mailbox, bank, line, edge, sub-port, priority, core. -/
theorem test_wf_refuses :
    [Instr.nop 128 false, .wfi 0 2, .mac 0 2 0 false, .shadowLoad 0 0 2, .vsOpen .f0 0 8 0, .bufferOpens 0 0 2, .ccred 16 ⟨0, []⟩, .loadComplete 16,
      .create .f0 0 16 false, .queueCreate 0 4096, .queueQuery 16 0, .vote 16, .scacheFlush .f0 4, .quar .f0 20, .entryAllocation 80,
      .regulatorWrite .f0 0 17 0, .registerWrite .f0 0 3 0, .mailboxDelivery 0 16, .messageQueueEntry 0 4, .writeBack 0 32,
      .lineDecode 0xF000000000 .cacheCe, .seqTimeout 0xF000000000, .edgeLane 8, .subPortDown 8, .priorityFlowControl 8 true, .coreWatchdog 4,
      .dbgHalt (.steward 128 0) 0 0, .start (.queue 16 0) 0, .waitWatchdog (.ma 0 2 0), .hang 256 0 0, .coreRestart 0 5, .synthesiserLockLoss 4,
      .packetSend 0 8, .temperatureReport 0 256, .contourEviction 0 4096, .domainSwitchEnd 0 16, .dieTemperatureSample [], .atlSample [], .railSample [],
      .freset .f0 16, .networkHousekeeping 4 [], .dumpReadTimeout 646 0, .dumpExpiry 647, .flitCrcFailure 8 0, .stackInterfaceFault 20].all
      (fun i => !wellFormed i) = true := by decide +kernel
theorem test_ill_formed_faults : exec (.nop 128 false) on = .fault .noSuchUnit ∧ exec (.coreRestart 0 5) on = .fault .noSuchUnit := ⟨rfl, rfl⟩
theorem witness_EveryCommandCompletes : wellFormed (.nop 127 false) = true ∧ wellFormed (.nop 128 false) = false := by decide +kernel
theorem witness_OnlyLiveModuleActs : live ({} : State) = false ∧ actsOffline (.wfi 0 0) = false ∧ wellFormed (.wfi 0 0) = true := by decide +kernel
theorem witness_OffStaysOff : Off State.reset ∧ step State.reset = .next State.reset := by
  exact ⟨⟨rfl, rfl⟩, rfl⟩

/-- A steward of tile 0, context 3, at an instruction of four bytes at address 0, with a trap handler. -/
def stX (w : Nat) : Steward := { run := .running, icache := [(0, toBytes 64 w)], mtvec := 0x400 }
def ctxRegs (more : Tab Word) : Tab Word :=
  (withRegs more (withRegs [(aCtx 3 0x10, 0x3#64), (aCtx 3 0x20, 0x1#64), (aCtx 3 0x28, 0x3FE00000#64)] up)).regs
/-- Context 3 of tiles 0 and 1, which may reach the first GiB of HBM. -/
def inCtx (x : Ctx) : State := { up with regs := ctxRegs [], ctxs := [(3, x)] }
def stC (x : Ctx) (w : Nat) (f : Steward → Steward) : State := { inCtx x with stewards := [(0, f (stX w))], spd := memWrite [] 0 (toBytes 4 w) }
/-- Context 3 running, with two members: this module, device 0, of rank 0, and device 1 of rank 1. -/
def run3 : Ctx :=
  { state := .running, func := 2, gen := 5, members := 2, jobMap := [(0, { rank := 0, gen := 5, ctx := 3 }), (1, { rank := 1, gen := 6, ctx := 4 })] }
def stS (w : Nat) (f : Steward → Steward) : State := stC run3 w f
/-- In a torus of two devices, with every port UP. -/
def torus (s : State) : State := withRegs ((aBlw 0 0x8008, 1#64) :: (List.range 16).map (fun p => (aBlw p 4, 2#64))) s
def withReg (k v : Nat) (x : Steward) : Steward := setGpr k v x

theorem witness_RegisterAccess_1 : live up = true ∧ widthOk 8 = true ∧ aDat 0x20 < 2 ^ 40
    ∧ (match writeReg .f0 (aDat 0x20) 8 0x40 up with | .ok n => decide (regRaw n (aDat 0x20) = 0x40) | .error _ => false) = true
    ∧ (match writeReg .f0 (aDat 0x20) 2 0x40 up with | .ok _ => false | .error e => decide (e = 1)) = true := by decide +kernel
theorem test_misaligned_register_write_files_a_record :
    after (.registerWrite .f0 (aTile 5 6 0) 2 0x40) up (fun n => n.faults.map (fun r => (r.cls, r.code, r.unit, r.die))) = some [(1, 1, 0x22, 4)] := by decide +kernel
theorem witness_RegisterAccess_plain : aDat 0x20 = aGlob 0x300020
    ∧ (match regFor .f0 true (aDat 0x20) 8 up with | .ok r => !r.wide && decide (r.rw = 2 ^ 64 - 1) | .error _ => false) = true := by decide +kernel
theorem test_plain_register_write : after (.registerWrite .f0 (aDat 0) 4 0xFFFFFFFF) up (fun n => regRaw n (aDat 0)) = some 0x133E01 := by decide +kernel
theorem witness_RegisterAccess_2 : live (stS 0x0020A023 (fun x => withReg 1 0x1006000 (withReg 2 0x40 x))) = true
    ∧ nextStore (stS 0x0020A023 (fun x => withReg 1 0x1006000 (withReg 2 0x40 x))) 0 0 = some (aTile 0 6 0, 4, 0x40)
    ∧ nextStore (stS 0x0020A023 (fun x => withReg 1 0x1006000 (withReg 2 0x40 x))) 0 0 ≠ some (aTile 0 6 0, 8, 0x40) := by decide +kernel
theorem witness_RegisterAccess_3 : whoOk .f0 = true ∧ (127 : Nat) < 128 ∧ (15 : Nat) < 16 := by decide +kernel
theorem witness_MemoryReadAfterWrite : on.memOk = true := by decide +kernel
theorem test_hbm_canonical : (hbmWrite 4 [1, 0, 2] (hbmWrite 5 [7] on)).hbm = [(4, 1), (6, 2)] := by decide +kernel

/-! ### Vector engine (chapter 6) -/

/-- Engine 0 at microinstruction w of a run of one iteration, with no registers but those that f sets. -/
def vS (w : Nat) (f : Vxe → Vxe) : State :=
  { up with tiles := [(0, { ({} : Tile) with vxe := f { begun := true, runs := [⟨0, 0, 0, none⟩], mc := [(0, BitVec.ofNat 64 w)] } })] }

/-- A microinstruction of opcode, destination and sources (Table 6-3). -/
def vw (op vd v1 v2 v3 : Nat) : Nat := op + vd <<< 8 + v1 <<< 13 + v2 <<< 18 + v3 <<< 23

/-- INT32 mode, a function, an immediate. -/
def vI : Nat := 3 <<< 57
def vF (k : Nat) : Nat := k <<< 60
def vK (k : Nat) : Nat := k <<< 40

/-- Lanes 0 and 1 of a vector register; the others 0. -/
def vr (k a b : Nat) (x : Vxe) : Vxe := { x with vreg := tset 0 x.vreg k (BitVec.ofNat 4096 (a + b <<< 32)) }
/-- Lanes 0 and 1 of a register of the engine after the command. -/
def got (i : Instr) (s : State) (d : Nat) : Option (Nat × Nat) := after i s (fun n => (laneOf (vreg n 0 d) 0, laneOf (vreg n 0 d) 1))

theorem witness_VxeRuns_begin :
    live (vS 0 (fun x => { x with begun := false })) = true ∧ (vxeOf (vS 0 (fun x => { x with begun := false })) 0).stopped = false
      ∧ (vxeOf (vS 0 (fun x => { x with begun := false })) 0).runs = [⟨0, 0, 0, none⟩] ∧ argBad (BitVec.toNat (0 : BitVec 512)) = false
      ∧ (vUses (vOpc 0)).isSome = true := by decide +kernel
theorem witness_VxeRuns_nop : vxeRuns (vS 0x00 id) 0 0x00 := by unfold vxeRuns; decide +kernel
theorem witness_VxeRuns_end : vxeReady (vS 0x01 id) 0 1 = true ∧ vLegal (vxeWord (vS 0x01 id) 0) = true
    ∧ (vxeOf (vS 0x01 (fun x => { x with runs := [⟨0, 1, 0, none⟩] })) 0).iter < 1 ∧ 0 ≤ (vxeOf (vS 0x01 id) 0).iter := by decide +kernel
/-- R200: the argument block gives the address registers; the strides advance them. -/
theorem test_run_begin : after (.runBegin 0) (vS 0 (fun x => { x with begun := false, runs := [⟨0, 1, 0x000000040000000C00000000#512 <<< 64 ||| 7#512, none⟩] }))
    (fun n => (arOf n 0 0, arOf n 0 1, arOf n 0 2, (vxeOf n 0).index)) = some (7, 0, 4, 0) := by decide +kernel
theorem test_end_next : after (.endIteration 0 false)
    (vS 0x01 (fun x => { x with runs := [⟨0, 1, 0x5000007#512, none⟩], ar := [(0, 7#24)] })) (fun n => ((vxeOf n 0).iter, arOf n 0 0)) = some (1, 12) := by decide +kernel
theorem test_end_last : after (.endIteration 0 false) (vS 0x01 id) (fun n => ((vxeOf n 0).runs.length, (vxeOf n 0).count)) = some (0, 1) := by decide +kernel

theorem witness_VxeMemory_vld : vxeRuns (vS (vw 0x08 3 0 0 0 + vK 131064) id) 0 0x08 ∧ vAddr (vS (vw 0x08 3 0 0 0 + vK 2) id) 0 (vw 0x08 3 0 0 0 + vK 2) 64 = (128 : Nat)
    ∧ firstUe (vS (vw 0x08 3 0 0 0 + vK 2) id) 0 [(128, 512)] = none := by unfold vxeRuns; decide +kernel
theorem witness_VxeMemory_vldb : vxeRuns (vS (vw 0x0A 3 0 0 0) id) 0 0x0A ∧ firstUe (vS (vw 0x0A 3 0 0 0) id) 0 [(0, 4)] = none := by unfold vxeRuns; decide +kernel
theorem witness_VxeMemory_mld : vxeRuns (vS (vw 0x0B 3 0 0 0) id) 0 0x0B ∧ firstUe (vS (vw 0x0B 3 0 0 0) id) 0 [(0, 16)] = none := by unfold vxeRuns; decide +kernel
theorem witness_VxeMemory_vst : vxeRuns (vS (vw 0x09 0 3 0 0) id) 0 0x09 ∧ (tileOf (vS (vw 0x09 0 3 0 0) id) 0).ports.got = []
    ∧ ∀ l, l < 128 → bit (vEn (vS (vw 0x09 0 3 0 0) id) 0 (vw 0x09 0 3 0 0)) l = true → vsWritable (vS (vw 0x09 0 3 0 0) id) 0 (4 * l) 4 = true := by
  unfold vxeRuns; decide +kernel
theorem witness_VxeMemory_mst : vxeRuns (vS (vw 0x0C 0 3 0 0) id) 0 0x0C ∧ (tileOf (vS (vw 0x0C 0 3 0 0) id) 0).ports.got = [] ∧ ∀ l, l < 4 → vsWritable (vS (vw 0x0C 0 3 0 0) id) 0 (4 * l) 4 = true := by
  unfold vxeRuns; decide +kernel
theorem test_vld : got (.vld 0 false) { vS (vw 0x08 3 0 0 0 + vK 2) id with spd := [(128, 7), (132, 9)] } 3 = some (7, 9) := by decide +kernel
theorem test_vldb : got (.vldb 0 false) { vS (vw 0x0A 3 0 0 0) id with spd := [(0, 7)] } 3 = some (7, 7) := by decide +kernel
theorem test_vst : after (.vst 0 false) (vS (vw 0x09 0 3 0 0 + vK 1) (vr 3 0x102 0x304)) (fun n => n.spd) = some [(64, 2), (65, 1), (68, 4), (69, 3)] := by decide +kernel
theorem test_vst_masked : after (.vst 0 false) (vS (vw 0x09 0 3 0 0 + 1 <<< 31) (fun x => { vr 3 0x102 0x304 x with mreg := [(0, 2)] })) (fun n => n.spd)
    = some [(4, 4), (5, 3)] := by decide +kernel
theorem test_mld_mst : after (.mld 0 false) { vS (vw 0x0B 3 0 0 0) id with spd := [(0, 7)] } (fun n => mreg n 0 3) = some 7
    ∧ after (.mst 0 false) (vS (vw 0x0C 0 3 0 0) (fun x => { x with mreg := [(3, 0x201)] })) (fun n => n.spd) = some [(0, 1), (1, 2)] := by decide +kernel

theorem witness_VxeElement : vxeRuns (vS (vw 0x10 1 2 3 0 + vI) id) 0 0x10 ∧ vxeRuns (vS (vw 0x13 1 2 3 4) id) 0 0x13 ∧ vxeRuns (vS (vw 0x18 1 2 3 0) id) 0 0x18
    ∧ vxeRuns (vS (vw 0x16 1 2 0 0 + vI) id) 0 0x16 ∧ vxeRuns (vS (vw 0x19 1 2 3 0) id) 0 0x19 ∧ vxeRuns (vS (vw 0x1A 1 2 0 0 + vI) id) 0 0x1A
    ∧ vxeRuns (vS (vw 0x20 1 2 3 0) id) 0 0x20 ∧ vxeRuns (vS (vw 0x21 1 2 3 0) id) 0 0x21 := by unfold vxeRuns; decide +kernel
theorem test_vadd_int : got (.vadd 0 false) (vS (vw 0x10 1 2 3 0 + vI) (fun x => vr 2 0xFFFFFFFF 5 (vr 3 2 7 x))) 1 = some (1, 12) := by decide +kernel
theorem test_vadd_f32 : got (.vadd 0 false) (vS (vw 0x10 1 2 3 0) (fun x => vr 2 0x3F800000 0x40000000 (vr 3 0x3F800000 0xC0000000 x))) 1
    = some (0x40000000, 0) := by decide +kernel
theorem test_vsub_int : got (.vsub 0 false) (vS (vw 0x11 1 2 3 0 + vI) (fun x => vr 2 1 5 (vr 3 2 7 x))) 1 = some (0xFFFFFFFF, 0xFFFFFFFE) := by decide +kernel
theorem test_vmul : got (.vmul 0 false) (vS (vw 0x12 1 2 3 0 + vI) (fun x => vr 2 0x10001 5 (vr 3 0x10001 7 x))) 1 = some (0x20001, 35)
    ∧ got (.vmul 0 false) (vS (vw 0x12 1 2 3 0) (fun x => vr 2 0x40000000 0 (vr 3 0x40400000 0 x))) 1 = some (0x40C00000, 0) := by decide +kernel
theorem test_vfma : got (.vfma 0 false) (vS (vw 0x13 1 2 3 4) (fun x => vr 2 0x40000000 0 (vr 3 0x40400000 0 (vr 4 0x3F800000 0 x)))) 1
    = some (0x40E00000, 0) := by decide +kernel
theorem test_vmax_signed : got (.vmax 0 false) (vS (vw 0x14 1 2 3 0 + vI) (fun x => vr 2 0xFFFFFFFF 5 (vr 3 2 7 x))) 1 = some (2, 7) := by decide +kernel
theorem test_vmin_signed : got (.vmin 0 false) (vS (vw 0x15 1 2 3 0 + vI) (fun x => vr 2 0xFFFFFFFF 5 (vr 3 2 7 x))) 1 = some (0xFFFFFFFF, 5) := by decide +kernel
theorem test_vabs : got (.vabs 0 false) (vS (vw 0x16 1 2 0 0) (vr 2 0xBF800000 0x40000000)) 1 = some (0x3F800000, 0x40000000) := by decide +kernel
theorem test_vneg : got (.vneg 0 false) (vS (vw 0x17 1 2 0 0) (vr 2 0xBF800000 0x40000000)) 1 = some (0x3F800000, 0xC0000000) := by decide +kernel
theorem test_vdiv : got (.vdiv 0 false) (vS (vw 0x18 1 2 3 0) (fun x => vr 2 0x40C00000 0x3F800000 (vr 3 0x40400000 0x40400000 x))) 1
    = some (0x40000000, 0x3EAAAAAB) := by decide +kernel
theorem test_vsel : got (.vsel 0 false) (vS (vw 0x19 1 2 3 0) (fun x => { vr 2 1 2 (vr 3 3 4 x) with mreg := [(0, 2)] })) 1 = some (3, 2) := by decide +kernel
theorem test_viota : got (.viota 0 false) (vS (vw 0x1A 1 2 0 0 + vI) (vr 2 0xFFFFFFFF 9)) 1 = some (0xFFFFFFFF, 0) := by decide +kernel
theorem test_vcmp_lt : after (.vcmp 0 false) (vS (vw 0x20 1 2 3 0 + vI + vF 2) (fun x => vr 2 0xFFFFFFFF 9 (vr 3 0 1 x))) (fun n => fld (mreg n 0 1) 1 0) = some 1 := by
  decide +kernel
theorem test_mop_and : after (.mop 0 false) (vS (vw 0x21 1 2 3 0) (fun x => { x with mreg := [(2, 6), (3, 3)] })) (fun n => mreg n 0 1) = some 2 := by decide +kernel

theorem witness_VxeConvert : vxeRuns (vS (vw 0x28 1 2 0 0) id) 0 0x28 ∧ vxeRuns (vS (vw 0x28 1 2 0 0 + vF 4) id) 0 0x28 ∧ vxeRuns (vS (vw 0x28 1 2 0 0 + vF 10) id) 0 0x28
    ∧ vxeRuns (vS (vw 0x30 1 2 0 0 + vF 7) id) 0 0x30 ∧ vxeRuns (vS (vw 0x31 1 2 3 4 + vF 10) id) 0 0x31
    ∧ (cvtMx 0 = false ∧ cvtNarrow 0 = true) ∧ cvtMx 10 = true ∧ (cvtMx 4 = false ∧ cvtNarrow 4 = false ∧ 0 < cvtN 4) := by unfold vxeRuns; decide +kernel

theorem test_cvt_bf16 : got (.cvt 0 false) (vS (vw 0x28 1 2 0 0) (vr 2 0x3F808000 0x40000000)) 1 = some (0x40003F80, 0) := by decide +kernel
theorem test_cvt_int32 : got (.cvt 0 false) (vS (vw 0x28 1 2 0 0 + vF 8) (vr 2 0x40200000 0xFF800000)) 1 = some (2, 0x80000000) := by decide +kernel
theorem test_nlu_reciprocal : got (.nlu 0 false) (vS (vw 0x30 1 2 0 0 + vF 2) (vr 2 0x40800000 0xFF800000)) 1 = some (0x3E800000, 0x80000000) := by decide +kernel
theorem test_nlu_exp : got (.nlu 0 false) (vS (vw 0x30 1 2 0 0) (vr 2 0x3F800000 0xFF800000)) 1 = some (0x402DF854, 0) := by decide +kernel
theorem test_vder_sigmoid : got (.vder 0 false) (vS (vw 0x31 1 2 3 4 + vF 2) (fun x => vr 2 0x3F000000 0 (vr 3 0x40000000 0 x))) 1 = some (0x3F000000, 0) := by
  decide +kernel
theorem witness_VxeReduceSoftmax : vxeRuns (vS (vw 0x38 0 0 0 0) id) 0 0x38 ∧ vxeRuns (vS (vw 0x39 0 2 0 0) id) 0 0x39
    ∧ (raccOp 0 0 0 allLanes {}).isSome = true ∧ vxeRuns (vS (vw 0x3A 1 0 0 0) id) 0 0x3A ∧ vxeRuns (vS (vw 0x3A 1 0 0 0 + vF 1) id) 0 0x3A
    ∧ vxeRuns (vS (vw 0x3A 1 0 2 0 + vF 2) id) 0 0x3A ∧ vxeRuns (vS (vw 0x40 1 2 0 0) id) 0 0x40 ∧ vxeRuns (vS (vw 0x41 1 2 0 0) id) 0 0x41
    ∧ vxeRuns (vS (vw 0x42 1 2 3 4) id) 0 0x42 ∧ (0 ≤ sgn 32 3 ∧ sgn 32 3 ≤ 3) ∧ vxeRuns (vS (vw 0x48 2 4 6 0 + vK 128) id) 0 0x48 := by unfold vxeRuns; decide +kernel
theorem test_rclr : after (.rclr 0 false) (vS (vw 0x38 0 0 0 0) (fun x => { x with racc := [(0, { n := 4 })] })) (fun n => (vxeOf n 0).racc) = some [] := by decide +kernel
theorem test_racc_rget : after (.racc 0 false) (vS (vw 0x39 0 2 0 0) (vr 2 0x3F800000 0x40000000)) (fun n => (toF32 (raccValue (raccOf n 0 0)), (raccOf n 0 0).n))
    = some (0x40400000, 128) := by decide +kernel
theorem test_rget_empty_row : after (.rget 0 false) (vS (vw 0x3A 1 0 0 0 + vF 1) id) (fun n => (laneOf (vreg n 0 1) 0, regRaw n (aTile 0 4 0x38))) = some (1, 1) := by
  decide +kernel
theorem test_topk_two_largest : got (.topk 0 false) (vS (vw 0x48 2 4 6 0 + vI + vK 2) (fun x => vr 4 3 9 (vr 6 5 4 x))) 2 = some (9, 5) := by decide +kernel

/-- A finished-tile queue of array 0 with one entry of stream 0. -/
def ftS (w : Nat) (f : Vxe → Vxe) : State :=
  { vS w f with tiles := [(0, { tileOf (vS w f) 0 with ma0 := { ftq := [⟨0x4020#256, 0, true⟩], held := [0, 1] } })] }
theorem witness_VxeFinishedTiles_ftqpop : vxeRuns (ftS (vw 0x50 0 0 0 0) id) 0 0x50 ∧ slotOf (ftS (vw 0x50 0 0 0 0) id) 0 0 = none
    ∧ (maOf (ftS (vw 0x50 0 0 0 0) id) 0 0).ftq[0]? = some ⟨0x4020#256, 0, true⟩ ∧ ftqMatch 0 ⟨0x4020#256, 0, true⟩ = true := by unfold vxeRuns; decide +kernel
theorem witness_VxeFinishedTiles_slot : vxeRuns (ftS (vw 0x51 1 0 0 0) (fun x => { x with slots := [(0, 0x4020#256)] })) 0 0x51
    ∧ vxeRuns (ftS (vw 0x52 1 0 0 0) (fun x => { x with slots := [(0, 0x4020#256)] })) 0 0x52
    ∧ vxeRuns (ftS (vw 0x53 0 0 0 0) (fun x => { x with slots := [(0, 0x4020#256)] })) 0 0x53
    ∧ slotRow (ftS (vw 0x51 1 0 0 0) (fun x => { x with slots := [(0, 0x4020#256)] })) 0 (vw 0x51 1 0 0 0) = some (0x4020, 0)
    ∧ slotOf (ftS (vw 0x53 0 0 0 0) (fun x => { x with slots := [(0, 0x4020#256)] })) 0 0 = some 0x4020 := by unfold vxeRuns; decide +kernel
theorem witness_VxeFinishedTiles_stop : vxeReady (vS 0x00 id) 0 0 = true ∧ vxeReady (vS (vw 0x10 0 0 0 0 + vK 1) id) 0 0x10 = true
    ∧ vLegal (vxeWord (vS (vw 0x10 0 0 0 0 + vK 1) id) 0) = false := by decide +kernel
theorem witness_VxeFinishedTiles_code3 : vxeRuns (vS (vw 0x50 0 0 0 0) id) 0 0x50 ∧ (maOf (vS (vw 0x50 0 0 0 0) id) 0 0).ftq = []
    ∧ slotOf (vS (vw 0x50 0 0 0 0) id) 0 0 = none
    ∧ vxeRuns (ftS (vw 0x50 0 0 0 0) (fun x => { x with slots := [(0, 0x4020#256)] })) 0 0x50
    ∧ slotOf (ftS (vw 0x50 0 0 0 0) (fun x => { x with slots := [(0, 0x4020#256)] })) 0 0 ≠ none
    ∧ vxeRuns (vS (vw 0x52 1 0 0 0) id) 0 0x52 ∧ slotRow (vS (vw 0x52 1 0 0 0) id) 0 (vw 0x52 1 0 0 0) = none
    ∧ vxeRuns (vS (vw 0x53 0 0 0 0) id) 0 0x53 ∧ slotOf (vS (vw 0x53 0 0 0 0) id) 0 0 = none := by unfold vxeRuns; decide +kernel
theorem test_accrel_empty_slot : after (.accrel 0 false) (vS (vw 0x53 0 0 0 0) id) (fun n => ((vxeOf n 0).stopped, regRaw n (aTile 0 4 8))) = some (true, 3 <<< 28) := by
  decide +kernel
theorem test_ftqpop : after (.ftqpop 0 false) (ftS (vw 0x50 0 0 0 0) id) (fun n => (slotOf n 0 0, (maOf n 0 0).ftq.length)) = some (some 0x4020, 0) := by decide +kernel
theorem test_accrel : after (.accrel 0 false) (ftS (vw 0x53 0 0 0 0) (fun x => { x with slots := [(0, 0x4020#256)] })) (fun n => ((maOf n 0 0).held, slotOf n 0 0))
    = some ([1], none) := by decide +kernel
theorem test_illegal_microinstruction : after (.vadd 0 false) (vS (vw 0x10 0 0 0 0 + vK 1) id)
    (fun n => ((vxeOf n 0).stopped, regRaw n (aTile 0 4 8), n.faults.map (fun r => (r.cls, r.code)))) = some (true, 1 <<< 28, [(2, 5)]) := by decide +kernel

/-! ### Stewards (chapter 3) -/

/-- custom-0: funct7, rs2, rs1, funct3, rd. -/
def cW (f7 f3 rd rs1 rs2 : Nat) : Nat := encR f7 rs2 rs1 f3 rd 0x0B
/-- A register of steward 0 of tile 0 after the command, with its program counter. -/
def gotR (i : Instr) (s : State) (k : Nat) : Option (Nat × Nat) := after i s (fun n => (gprOf (stOf n 0 0) k, (stOf n 0 0).pc.toNat))
/-- The steward is at w, fetched, and goes on from the same state. -/
abbrev at0 (w : Nat) (f : Steward → Steward) : Prop := stAt (stS w f) 0 0 w 4 w (stS w f)

theorem witness_StewardFetch : (stOf (stS 0x13 id) 0 0).pc.toNat = 0 ∧ fetchAllowed (stOf (stS 0x13 id) 0 0) 0 = true ∧ fetchAllowed (stOf (stS 0x13 id) 0 0) 2 = true
    ∧ firstUe (stS 0x13 id) 0 [(0, 64)] = none ∧ tget (stOf (stS 0x13 id) 0 0).icache 0 = some (spdRead (stS 0x13 id) 0 0 64) := by decide +kernel
theorem test_fetch_compressed : (stFetch 0 0 (stS 0x4505 id)).1 = .word (some 0x00100513) 2 0x4505 := by decide +kernel

/-- ADDI x5, x1, −1; LUI x5, 0x80000; AUIPC x5, 1; ADD, SUB, DIVU x5, x1, x2; ADDW x5, x1, x2; ADDIW x5, x1, 1. -/
theorem witness_StewardArithmetic : at0 0xFFF08293 id ∧ at0 0x800002B7 id ∧ at0 0x00001297 id ∧ at0 0x002082B3 id ∧ at0 0x002082BB id ∧ at0 0x0010829B id := by
  and_intros <;> decide +kernel
theorem test_addi : gotR (.rv64Instruction 0 0) (stS 0xFFF08293 (withReg 1 0)) 5 = some (2 ^ 64 - 1, 4) := by decide +kernel
theorem test_lui : gotR (.rv64Instruction 0 0) (stS 0x800002B7 id) 5 = some (0xFFFFFFFF80000000, 4) := by decide +kernel
theorem test_addw : gotR (.rv64Instruction 0 0) (stS 0x002082BB (fun x => withReg 1 0x7FFFFFFF (withReg 2 1 x))) 5 = some (0xFFFFFFFF80000000, 4) := by decide +kernel
theorem test_divu_zero : gotR (.rv64Instruction 0 0) (stS 0x0220D2B3 (withReg 1 7)) 5 = some (2 ^ 64 - 1, 4) := by decide +kernel
theorem test_x0_stays_zero : gotR (.rv64Instruction 0 0) (stS 0x00100013 id) 0 = some (0, 4) := by decide +kernel

/-- LB x5, 0(x1); SD x2, 8(x1); LW x5, 0(x1) of STn_STATUS; SW x2, 0(x1) to the copy head. -/
theorem witness_StewardLoadStore_load : at0 0x00008283 (withReg 1 0x100)
    ∧ pmpAllows (stOf (stS 0x00008283 (withReg 1 0x100)) 0 0) (dataMode (stOf (stS 0x00008283 (withReg 1 0x100)) 0 0)) .load 0x100 1 = true
    ∧ stTarget 0 0x100 1 = .spd 0x100 ∧ firstUe (stS 0x00008283 (withReg 1 0x100)) 0 [(0x100, 1)] = none := by and_intros <;> decide +kernel
theorem witness_StewardLoadStore_register : at0 0x0000A283 (withReg 1 0x1000000) ∧ stTarget 0 0x1000000 4 = .ctl (aTile 0 0 0)
    ∧ (match readReg (.steward 0 0) (aTile 0 0 0) 4 (stS 0x0000A283 (withReg 1 0x1000000)) with | .ok _ => true | .error _ => false) = true
    ∧ at0 0x0020B023 (fun x => withReg 1 0x1006000 (withReg 2 0x40 x)) ∧ stTarget 0 0x1006000 8 = .ctl (aTile 0 6 0)
    ∧ (match writeReg (.steward 0 0) (aTile 0 6 0) 8 0x40 (stS 0x0020B023 id) with | .ok _ => true | .error _ => false) = true := by
  and_intros <;> decide +kernel
theorem witness_StewardLoadStore_store : at0 0x0020B423 (fun x => withReg 1 0x7FFFF0 (withReg 2 5 x))
    ∧ pmpAllows (stX 0x0020B423) (dataMode (stX 0x0020B423)) .store 0x7FFFF8 8 = true
    ∧ stTarget 0 0x7FFFF8 8 = .spd 0x7FFFF8 ∧ vsWritable (stS 0x0020B423 id) 0 0x7FFFF8 8 = true := by and_intros <;> decide +kernel
theorem test_lb_sign : gotR (.rv64Instruction 0 0) (spdWrite 0 0x100 [0x80] (stS 0x00008283 (withReg 1 0x100))) 5 = some (0xFFFFFFFFFFFFFF80, 4) := by decide +kernel
theorem test_sd : after (.rv64Instruction 0 0) (stS 0x0020B423 (fun x => withReg 1 0x7FFFF0 (withReg 2 0x0100000000000005 x))) (fun n => spdRead n 0 0x7FFFF8 8)
    = some [5, 0, 0, 0, 0, 0, 0, 1] := by decide +kernel
theorem test_store_outside_traps : after (.rv64Instruction 0 0) (stS 0x0020B423 (withReg 1 0x800000))
    (fun n => ((stOf n 0 0).mcause.toNat, (stOf n 0 0).mtval.toNat, (stOf n 0 0).pc.toNat)) = some (7, 0x800008, 0x400) := by decide +kernel

/-- JAL x1, −4096 (from 0 it wraps); JALR x1, 3(x2); BEQ x1, x2, 8; FENCE; CSRRW x5, mscratch, x1; CSRRS x5, mhartid, x0. -/
theorem witness_StewardControl : at0 0x800FF0EF id ∧ at0 0x003100E7 id ∧ at0 0x00208463 id ∧ at0 0x0FF0000F id ∧ at0 0x340092F3 id ∧ at0 0xF14022F3 id
    ∧ branchTaken 0 1 1 = some true ∧ branchTaken 0 1 2 = some false ∧ rvRow 0x340092F3 = .base ∧ csrExists 0x340 = true ∧ csrReadOnly 0x340 = false
    ∧ csrExists 0xF14 = true ∧ csrAllowed (stX 0) 0xF14 = true ∧ rvRs1 0xF14022F3 = 0 := by and_intros <;> decide +kernel
theorem test_jalr : gotR (.rv64Instruction 0 0) (stS 0x003100E7 (withReg 2 0x100)) 1 = some (4, 0x102) := by decide +kernel
theorem test_jal : gotR (.rv64Instruction 0 0) (stS 0x008000EF id) 1 = some (4, 8) := by decide +kernel
theorem test_beq : gotR (.rv64Instruction 0 0) (stS 0x00208463 id) 0 = some (0, 8) ∧ gotR (.rv64Instruction 0 0) (stS 0x00208463 (withReg 1 3)) 0 = some (0, 4) := by
  decide +kernel
theorem test_csrrw : after (.rv64Instruction 0 0) (stS 0x340092F3 (fun x => { withReg 1 9 x with mscratch := 7 })) (fun n => (gprOf (stOf n 0 0) 5, (stOf n 0 0).mscratch))
    = some (7, 9) := by decide +kernel

/-- LR.W x5, (x1); SC.D x5, x2, (x1); AMOADD.W x5, x2, (x1). -/
theorem witness_StewardAtomic_lr : at0 0x1000A2AF (withReg 1 0x104) ∧ rvRow 0x1000A2AF = .lr ∧ spdOnly 0 0x104 (amoWidth 0x1000A2AF) = some 0x104
    ∧ 0x104 % amoWidth 0x1000A2AF = 0 ∧ firstUe (stS 0x1000A2AF (withReg 1 0x104)) 0 [(0x104, 4)] = none := by and_intros <;> decide +kernel
theorem witness_StewardAtomic_sc : at0 0x1820B2AF (fun x => { withReg 1 0x108 x with resv := some 0x100 }) ∧ rvRow 0x1820B2AF = .sc ∧ spdOnly 0 0x108 8 = some 0x108
    ∧ (stOf (stS 0x1820B2AF (fun x => { x with resv := some 0x140 })) 0 0).resv ≠ some (0x108 / 64 * 64) ∧ vsWritable (stS 0x1820B2AF id) 0 0x108 8 = true := by
  and_intros <;> decide +kernel
theorem witness_StewardAtomic_amo : at0 0x0020A2AF (withReg 1 0x104) ∧ rvRow 0x0020A2AF = .amo ∧ amoValue 0 32 0xFFFFFFFF 2 = some 1
    ∧ vsWritable (stS 0x0020A2AF id) 0 0x104 4 = true := by and_intros <;> decide +kernel
theorem test_lr : after (.lr 0 0) (stS 0x1000A2AF (withReg 1 0x104)) (fun n => (stOf n 0 0).resv) = some (some 0x100) := by decide +kernel
theorem test_sc : after (.sc 0 0) (stS 0x1820B2AF (fun x => { withReg 1 0x108 (withReg 2 6 x) with resv := some 0x100 }))
    (fun n => (gprOf (stOf n 0 0) 5, (stOf n 0 0).resv, spdRead n 0 0x108 1)) = some (0, none, [6]) := by decide +kernel
theorem test_sc_without : after (.sc 0 0) (stS 0x1820B2AF (fun x => withReg 1 0x108 (withReg 2 6 x)))
    (fun n => (gprOf (stOf n 0 0) 5, spdRead n 0 0x108 1)) = some (1, [0]) := by decide +kernel
theorem test_amoadd : after (.amo 0 0) (spdWrite 0 0x104 [0xFF, 0xFF, 0xFF, 0xFF] (stS 0x0020A2AF (fun x => withReg 1 0x104 (withReg 2 2 x))))
    (fun n => (gprOf (stOf n 0 0) 5, spdRead n 0 0x104 4)) = some (2 ^ 64 - 1, [1, 0, 0, 0]) := by decide +kernel

theorem witness_StewardTrap_1 : at0 0x00000073 id ∧ rvRow 0x00000073 = .ecall ∧ trapOk (stS 0x00000073 id) 0 0 ∧ at0 0x00100073 id ∧ rvRow 0x00100073 = .ebreak
    ∧ at0 0x30200073 id ∧ rvRow 0x30200073 = .mret ∧ at0 0x30200073 (fun x => { x with mode := .user, pmpcfg := [(0, 0x1F)], pmpaddr := [(0, 0x3FFFFFFFFFFFFF)] })
    ∧ at0 0x7000000B id ∧ rvRow 0x7000000B = .base ∧ (stOf (stS 0x73 (fun x => { x with intrap := true })) 0 0).intrap = true := by
  and_intros <;> decide +kernel
theorem witness_StewardTrap_debug : mayWrite .f0 (aDbg 0 0) 4 (stS 0x13 id) ∧ haltable (stS 0x13 (fun x => { x with halt := true })) 0 = true
    ∧ (stOf (stS 0x13 (fun x => { x with halt := true })) 0 0).run = .running :=
  ⟨mayB_ok _ _ _ _ (by decide +kernel), by decide +kernel, by decide +kernel⟩
theorem witness_StewardTrap_step : (stOf (stS 0x10500073 (fun x => { x with run := .halted, stepBit := true })) 0 0).stepBit = true
    ∧ (stFetch 0 0 (stS 0x10500073 id)).1 = .word (some 0x10500073) 4 0x10500073 ∧ rvRow 0x10500073 = .wfi := by decide +kernel
theorem test_ecall : after (.ecall 0 0) (stS 0x73 (fun x => { x with pc := 0 }))
    (fun n => ((stOf n 0 0).mepc, (stOf n 0 0).mcause, (stOf n 0 0).pc, (stOf n 0 0).intrap)) = some (0, 11, 0x400, true) := by decide +kernel
theorem test_ebreak_halts : after (.ebreak 0 0) (stS 0x00100073 (fun x => { x with ebreakHalt := true })) (fun n => ((stOf n 0 0).run, (stOf n 0 0).pc)) = some (.halted, 0) := by
  decide +kernel
theorem test_mret : after (.mret 0 0) (stS 0x30200073 (fun x => { x with intrap := true, mepc := 0x200 })) (fun n => ((stOf n 0 0).pc, (stOf n 0 0).intrap, (stOf n 0 0).mode))
    = some (0x200, false, .user) := by decide +kernel
theorem test_trap_in_trap_stops : after (.ecall 0 0) (stS 0x73 (fun x => { x with intrap := true }))
    (fun n => ((stOf n 0 0).run, (stOf n 0 0).stopCause, n.faults.length)) = some (.stopped, 3, 1) := by decide +kernel
theorem test_halt_taken : after (.wfi 0 0) (stS 0x10500073 (fun x => { x with halt := true })) (fun n => ((stOf n 0 0).run, (stOf n 0 0).pc)) = some (.halted, 0) := by
  decide +kernel
theorem test_step_once : after (.wfi 0 0) (stS 0x10500073 (fun x => { x with run := .halted, halt := true, stepBit := true })) (fun n => ((stOf n 0 0).run, (stOf n 0 0).pc))
    = some (.halted, 4) := by decide +kernel

theorem witness_StewardFencesAndMarks : at0 0x0000100F id ∧ rvRow 0x0000100F = .fenceI ∧ at0 0x10500073 id ∧ at0 (cW 0 2 0 0 0) id ∧ rvRow (cW 0 2 0 0 0) = .fenceL
    ∧ at0 (cW 1 2 0 0 0) id ∧ rvRow (cW 1 2 0 0 0) = .fenceD ∧ postedBefore (stS (cW 1 2 0 0 0) id) 0 0 false = false
    ∧ at0 (cW 2 2 0 0 0) id ∧ rvRow (cW 2 2 0 0 0) = .fenceF ∧ at0 (cW 1 3 0 1 0) (withReg 1 31) ∧ rvRow (cW 1 3 0 1 0) = .pmark
    ∧ at0 (cW 2 3 0 0 0) id ∧ rvRow (cW 2 3 0 0 0) = .datum := by and_intros <;> decide +kernel
/-- A posted write of copy descriptor 0 of tile 0. -/
def posted (s : State) : State :=
  { s with accs := [⟨0, .cpy 0 0 0 0, 3, 5, 0x1000, .write [1], .todo⟩], tiles := [(0, { ({} : Tile) with cpy := { doneTo := 1 } })] }
theorem witness_StewardFencesAndMarks_waits : stAt (posted (stS (cW 1 2 0 0 0) id)) 0 0 (cW 1 2 0 0 0) 4 (cW 1 2 0 0 0) (posted (stS (cW 1 2 0 0 0) id))
    ∧ postedBefore (posted (stS (cW 1 2 0 0 0) id)) 0 (fenceMark (posted (stS (cW 1 2 0 0 0) id)) 0 0) false = true := by and_intros <;> decide +kernel
theorem witness_StewardFencesAndMarks_datum : srcEnabled { stS (cW 2 3 0 0 0) id with regs := ctxRegs [(aDat 0, 0x200#64)] } 1 = true := by decide +kernel
theorem test_fence_i : after (.fenceI 0 0) (stS 0x0000100F id) (fun n => ((stOf n 0 0).icache.length, (stOf n 0 0).pc)) = some (0, 4) := by decide +kernel
theorem test_fence_d_waits : after (.fenceD 0 0) (posted (stS (cW 1 2 0 0 0) id)) (fun n => ((stOf n 0 0).run, (stOf n 0 0).waitKind)) = some (.waiting, .fence) := by
  decide +kernel
theorem test_pmark : after (.pmark 0 0) (stS (cW 1 3 0 1 0) (withReg 1 31)) (fun n => (regRaw n (aTile 0 8 0x900 + 8), regRaw n (aTile 0 8 0x800))) = some (31, 0x101) := by
  decide +kernel

theorem witness_StewardPorts (w : Nat) : (tileOf (stS w (withReg 1 0x40)) 0).ports.got = [] ∧ firstUe (stS 0x0020A02F (withReg 1 0x40)) 0 [(0x40, 4)] = none := by
  refine ⟨rfl, ?_⟩; decide +kernel
/-- MSEND x5, x1, x2 and MRECV x5, x1, x2 with a selector and a buffer. -/
abbrev at0s (s : State) (w : Nat) : Prop := stAt s 0 0 w 4 w s
def sendS (sel : Nat) (f : Steward → Steward) : State := torus (stS (cW 0 0 5 1 2) (fun x => f (withReg 1 sel (withReg 2 0x200 x))))
def recvS (sel : Nat) (l : Tab Word) : State := withRegs l (stS (cW 1 0 5 1 2) (fun x => withReg 1 sel (withReg 2 0x200 x)))

theorem witness_StewardMessages_here : at0s (sendS 0x10003 id) (cW 0 0 5 1 2) ∧ rvRow (cW 0 0 5 1 2) = .msend ∧ gprOf (stOf (sendS 0x10003 id) 0 0) 1 = 0x10003
    ∧ bufAt (sendS 0x10003 id) 0 0 .load 0x200 = .ok 0x200 ∧ selOk 0x10003 true = true ∧ firstUe (sendS 0x10003 id) 0 [(0x200, 64)] = none
    ∧ fld 0x10003 43 32 = ownDev (sendS 0x10003 id) ∧ bit (ctxTiles (sendS 0x10003 id) (stCtx (sendS 0x10003 id) 0)) 1 = true := by and_intros <;> decide +kernel
theorem witness_StewardMessages_there : selOk 0x138000013 true = true ∧ fld 0x138000013 43 32 = 1
    ∧ tget (ctxOf (sendS 0x138000013 id) 3).jobMap 1 = some { rank := 1, gen := 6, ctx := 4 }
    ∧ routePort (sendS 0x138000013 id) 0 1 = some 8 ∧ portState (sendS 0x138000013 id) 8 = 2 := by and_intros <;> decide +kernel
theorem witness_StewardMessages_answered : at0s (sendS 0x10003 (fun x => { x with send := .answered 6 })) (cW 0 0 5 1 2)
    ∧ trapOk (sendS 0x10003 (fun x => { x with send := .answered 3 })) 0 0 := by and_intros <;> decide +kernel
theorem test_msend : after (.msend 0 0) (sendS 0x10003 id) (fun n => ((stOf n 0 0).run, (tileOf n 1).msgs.map (fun m => (m.target, m.srcTile)))) = some (.waiting, [(3, 0)]) := by
  decide +kernel
theorem test_msend_remote : after (.msend 0 0) (sendS 0x138000013 id) (fun n => (linkOf n 8).queue.map (fun k => (pOpc k, pDst k, pCtx k, pGen k, pTile k))) = some [(8, 1, 4, 6, 0)] := by
  decide +kernel
theorem test_msend_dropped : gotR (.msend 0 0) (sendS 0x10003 (fun x => { x with run := .waiting, waitWord := BitVec.ofNat 32 (cW 0 0 5 1 2), send := .answered 6 })) 5 = some (1, 4) := by
  decide +kernel
theorem witness_StewardMessages_mrecv : at0s (recvS 15 [(aMbox 0 15, 3)]) (cW 1 0 5 1 2) ∧ rvRow (cW 1 0 5 1 2) = .mrecv ∧ selOk 15 false = true ∧ selOk 19 false = true
    ∧ bufAt (recvS 15 []) 0 0 .store 0x200 = .ok 0x200 ∧ vsWritable (recvS 15 []) 0 0x200 64 = true
    ∧ bit (regRaw (recvS 15 [(aMbox 0 15, 3)]) (aMbox 0 15)) 1 = true ∧ bit (regRaw (recvS 15 [(aMbox 0 15, 3)]) (aMbox 0 15)) 0 = true
    ∧ bit (regRaw (recvS 19 [(aMq 0 3 8, 0x102)]) (aMq 0 3 8)) 8 = true ∧ regRaw (recvS 19 [(aMq 0 3 0x10, 7)]) (aMq 0 3 0x10) ≠ regRaw (recvS 19 []) (aMq 0 3 0x18) := by
  and_intros <;> decide +kernel
theorem test_mrecv_mailbox : after (.mrecv 0 0) (recvS 15 [(aMbox 0 15, 3), (aTile 0 9 0x3C0, 0x0807060504030201)])
    (fun n => (spdRead n 0 0x200 8, regRaw n (aMbox 0 15), gprOf (stOf n 0 0) 5)) = some ([1, 2, 3, 4, 5, 6, 7, 8], 2, 0) := by decide +kernel
theorem test_mrecv_queue_wraps : after (.mrecv 0 0) (spdWrite 0 0x10C0 [9] (recvS 19 [(aMq 0 3 0, 0x1000), (aMq 0 3 8, 0x102), (aMq 0 3 0x10, 7)]))
    (fun n => (gprOf (stOf n 0 0) 5, regRaw n (aMq 0 3 0x10), spdRead n 0 0x200 1)) = some (9, 0, [9]) := by decide +kernel
theorem test_mrecv_waits : after (.mrecv 0 0) (recvS 15 [(aMbox 0 15, 2)]) (fun n => ((stOf n 0 0).run, (stOf n 0 0).waitKind)) = some (.waiting, .mrecv) := by decide +kernel

/-- A completion queue and a submission queue of four entries of function 2, bound to context 3. -/
def cq2 : Queue := { kind := .completion, log2 := 2, ctx := 3, bound := true, addr := 0x10000 }
def sq2 : Queue := { kind := .submission, log2 := 2, ctx := 3, bound := true, addr := 0x20000, pi := 1 }
def qS (w : Nat) (q : Queue) : State := { stS w (fun x => withReg 1 0x2001 (withReg 2 0x200 x)) with queues := [(0x2001, q)] }
theorem witness_StewardQueues_push : at0s (qS (cW 2 0 5 1 2) cq2) (cW 2 0 5 1 2) ∧ rvRow (cW 2 0 5 1 2) = .qpush ∧ fld 0x2001 15 12 = (ctxOf (qS 0x13 cq2) (stCtx (qS 0x13 cq2) 0)).func
    ∧ fld 0x2001 63 16 = 0 ∧ qOf (qS 0x13 cq2) (0x2001 % 65536) = some cq2 ∧ queueServes (qS 0x13 cq2) 0 cq2 true = true ∧ qFull cq2 = false
    ∧ qFull { cq2 with pi := 4 } = true ∧ memAvailable (qS 0x13 cq2) (qAddr cq2 0) 64 = true := by and_intros <;> decide +kernel
theorem witness_StewardQueues_pop : at0s (qS (cW 3 0 5 1 2) sq2) (cW 3 0 5 1 2) ∧ rvRow (cW 3 0 5 1 2) = .qpop ∧ queueServes (qS 0x13 sq2) 0 sq2 false = true
    ∧ qCount sq2 ≠ 0 ∧ qCount { sq2 with ci := 1 } = 0 ∧ memPoisoned (qS 0x13 sq2) (qAddr sq2 0) 64 = none := by and_intros <;> decide +kernel
theorem test_qpush : after (.qpush 0 0) (spdWrite 0 0x200 [0xAA] (qS (cW 2 0 5 1 2) { cq2 with pi := 7, ci := 5 })) (fun n => ((qOf n 0x2001).map (·.pi), hbmRead n 0x100C0 1))
    = some (some 0, [0xAA]) := by decide +kernel
theorem test_qpop : after (.qpop 0 0) (hbmWrite 0x20000 [0xBB] (qS (cW 3 0 5 1 2) sq2)) (fun n => ((qOf n 0x2001).map (·.ci), spdRead n 0 0x200 1)) = some (some 1, [0xBB]) := by
  decide +kernel
theorem test_qpop_waits : after (.qpop 0 0) (qS (cW 3 0 5 1 2) { sq2 with ci := 1 }) (fun n => (stOf n 0 0).waitKind) = some .qpop := by decide +kernel

def unS (w v k : Nat) : State := stS w (fun x => withReg 1 v (withReg 2 k x))
theorem witness_StewardIssue : at0s (unS (cW 0 1 5 1 2) 0x11 65535) (cW 0 1 5 1 2) ∧ rvRow (cW 0 1 5 1 2) = .issue ∧ Machine.unitOk 0x11 false = true
    ∧ unitCount (unS (cW 0 1 5 1 2) 0x11 65535) 0 0x11 = (0, 0, false) ∧ Machine.unitOk 2 false = true ∧ (0 : Nat) + 65535 ≤ 2 ^ 24
    ∧ 2 ^ 24 < ((0xFFFFFF : BitVec 32) - 0).toNat + 2
    ∧ at0s (unS (cW 1 1 5 1 2) 3 1) (cW 1 1 5 1 2) ∧ rvRow (cW 1 1 5 1 2) = .waitc ∧ Machine.unitOk 3 true = true ∧ 0 ≤ sgn 32 ((0 : BitVec 32) - BitVec.ofNat 32 0).toNat
    ∧ sgn 32 ((0 : BitVec 32) - BitVec.ofNat 32 1).toNat < 0
    ∧ at0s (unS (cW 2 1 5 1 2) 0x1FFF 0xFFFF007FFFC0) (cW 2 1 5 1 2) ∧ rvRow (cW 2 1 5 1 2) = .vxrun ∧ fld 0x1FFF 63 13 = 0 ∧ fld 0xFFFF007FFFC0 31 23 = 0
    ∧ fld 0xFFFF007FFFC0 5 0 = 0 := by and_intros <;> decide +kernel
theorem witness_StewardIssue_operands : at0s (unS (cW 0 1 5 1 2) 3 1) (cW 0 1 5 1 2) ∧ trapOk (unS (cW 0 1 5 1 2) 3 1) 0 0 ∧ Machine.unitOk 3 false = false
    ∧ at0s (unS (cW 0 1 5 1 2) 2 65536) (cW 0 1 5 1 2) ∧ trapOk (unS (cW 0 1 5 1 2) 2 65536) 0 0
    ∧ at0s (unS (cW 2 1 5 1 2) 0x2000 0) (cW 2 1 5 1 2) ∧ trapOk (unS (cW 2 1 5 1 2) 0x2000 0) 0 0 ∧ fld 0x2000 63 13 = 1
    ∧ at0s (unS (cW 2 1 5 1 2) 0 32) (cW 2 1 5 1 2) ∧ trapOk (unS (cW 2 1 5 1 2) 0 32) 0 0 ∧ fld 32 5 0 = 32 := by and_intros <;> decide +kernel
theorem test_issue_bad_number : after (.issue 0 0) (unS (cW 0 1 5 1 2) 2 65536) (fun n => ((stOf n 0 0).mcause.toNat, (stOf n 0 0).mtval.toNat)) = some (25, 65536) := by
  decide +kernel
theorem test_issue_copy : after (.issue 0 0) (withRegs [(aTile 0 6 0, 0x7FFFE0)] (unS (cW 0 1 5 1 2) 2 2))
    (fun n => (gprOf (stOf n 0 0) 5, regRaw n (aTile 0 6 0), (cpyOf n 0).queue.map (fun r => (r.off, r.n)))) = some (2, 0x20, [(0x7FFFE0, 1), (0, 1)]) := by decide +kernel
theorem test_waitc : gotR (.waitc 0 0) (unS (cW 1 1 5 1 2) 3 0) 5 = some (0, 4)
    ∧ after (.waitc 0 0) (unS (cW 1 1 5 1 2) 3 1) (fun n => (stOf n 0 0).waitKind) = some .waitc := by decide +kernel
theorem test_vxrun : after (.vxrun 0 0) (spdWrite 0 0x40 [7] (unS (cW 2 1 5 1 2) 9 0x200000040)) (fun n => ((vxeOf n 0).runs.map (fun r => (r.start, r.iterM1, r.arg.toNat)), gprOf (stOf n 0 0) 5))
    = some ([(9, 2, 7)], 1) := by decide +kernel

def wpE (k : WpKind) : WpEntry := { kind := k, mbi := 0, slack := 100, offset := 0 }
def wpS (w : Nat) (arrived : List Nat) : State :=
  stC { run3 with next := .at 0, wps := [wpE .loc, wpE .job], arrived := arrived } w (withReg 1 0)
theorem witness_StewardWaypoint_1 : at0s (wpS (cW 0 3 0 1 0) []) (cW 0 3 0 1 0) ∧ rvRow (cW 0 3 0 1 0) = .waypoint ∧ (stOf (wpS 0x13 []) 0 0).run ≠ .waiting ∧ stCtx (wpS 0x13 []) 0 = 3
    ∧ wpAllowed (ctxOf (wpS 0x13 []) 3) 0 = true ∧ (0 : Nat) < (ctxOf (wpS 0x13 []) 3).wps.length ∧ (ctxOf (wpS 0x13 []) 3).aLocal = none
    ∧ 1 ∈ tilesOf (wpS 0x13 []) 3 ∧ ¬ 1 ∈ (ctxOf (wpS 0x13 []) 3).arrived := by and_intros <;> decide +kernel
theorem witness_StewardWaypoint_2 : (ctxOf (wpS 0x13 [1]) 3).wps[0]? = some (wpE .loc) ∧ runningBook (wpS 0x13 [1]) 3 = none
    ∧ ∀ u ∈ tilesOf (wpS 0x13 [1]) 3, u = 0 ∨ u ∈ (ctxOf (wpS 0x13 [1]) 3).arrived := by and_intros <;> decide +kernel
theorem witness_StewardWaypoint_3 : wpAllowed (ctxOf (wpS 0x13 []) 3) 1 = false
    ∧ (stOf (stS 0x13 (fun x => { x with run := .waiting, waitWord := BitVec.ofNat 32 (cW 0 3 0 1 0) })) 0 0).run = .waiting := by and_intros <;> decide +kernel
theorem witness_StewardWaypoint_4 : at0s (wpS (cW 3 2 0 0 0) []) (cW 3 2 0 0 0) ∧ rvRow (cW 3 2 0 0 0) = .fenceG ∧ trapOk (wpS (cW 3 2 0 0 0) []) 0 0 := by and_intros <;> decide +kernel
/-- Steward 1 at FENCE.G, first tried or waiting. -/
def fgS (jobs : Nat) (x : Steward) (far : Bool) : State :=
  let s := { inCtx { run3 with jobRels := jobs } with stewards := [(1, x)], spd := memWrite [] 0 (toBytes 4 (cW 3 2 0 0 0)) }
  if far then posted s else s
def fgWaits : Steward := { waitsAt .fenceG (cW 3 2 0 0 0) (stX (cW 3 2 0 0 0)) with fenceJob := 4 }
theorem witness_StewardWaypoint_5 : stAt (fgS 4 (stX (cW 3 2 0 0 0)) true) 0 1 (cW 3 2 0 0 0) 4 (cW 3 2 0 0 0) (fgS 4 (stX (cW 3 2 0 0 0)) true)
    ∧ postedBefore (fgS 4 (stX (cW 3 2 0 0 0)) true) 0 (cpyOf (fgS 4 (stX (cW 3 2 0 0 0)) true) 0).doneTo true = true
    ∧ stAt (fgS 5 fgWaits false) 0 1 (cW 3 2 0 0 0) 4 (cW 3 2 0 0 0) (fgS 5 fgWaits false) ∧ postedBefore (fgS 5 fgWaits false) 0 0 true = false
    ∧ (stOf (fgS 5 fgWaits false) 0 1).fenceGate = false ∧ (stOf (fgS 5 fgWaits false) 0 1).fenceJob < (ctxOf (fgS 5 fgWaits false) 3).jobRels
    ∧ (ctxOf (fgS 4 fgWaits false) 3).jobRels ≤ (stOf (fgS 4 fgWaits false) 0 1).fenceJob := by and_intros <;> decide +kernel
theorem test_waypoint : after (.waypoint 0 0) (wpS (cW 0 3 0 1 0) [1]) (fun n => ((stOf n 0 0).waitKind, (ctxOf n 3).arrived, (ctxOf n 3).aLocal)) = some (.waypoint, [0, 1], some 0) := by
  decide +kernel
theorem test_waypoint_out_of_order_stops : after (.waypoint 0 0) (stC { run3 with next := .at 1, wps := [wpE .loc, wpE .job] } (cW 0 3 0 1 0) id)
    (fun n => ((stOf n 0 0).run, (stOf n 0 0).stopCause)) = some (.stopped, 4) := by decide +kernel
theorem test_fence_g_completes : after (.fenceG 0 1) (fgS 5 fgWaits false) (fun n => ((stOf n 0 1).run, (stOf n 0 1).pc)) = some (.running, 4) := by decide +kernel

/-! ### Matrix arrays and copy engine -/

/-- An INT8 MV pass of one row: A at 0x1000, S at 0x2000 with stride 64, overwriting, with ACT (Tables 4-4, 4-7); its output as INT32 at 0x4000. -/
def mvD (op act : Nat) : Nat :=
  op + 4 <<< 8 + 2 <<< 12 + 2 <<< 16 + 5 <<< 20 + 1 <<< 31 + act <<< 43 + 0x1000 <<< 64 + 0x2000 <<< 96 + 0x4000 <<< 128 + 64 <<< 160 + 64 <<< 176 + 64 <<< 192
/-- FILL of one row and column from 0x1000. -/
def fillD : Nat := 0x11 + 4 <<< 8 + 1 <<< 31 + 0x1000 <<< 64 + 64 <<< 160
def pass (d : Nat) (loaded : Bool) : Pass := { desc := BitVec.ofNat 512 d, off := 0x800, ord := 0, pair := 0, reader := none, loaded := loaded, bad := none }
def mS (f : MArray → MArray) (l : Tab Byte) : State := { inCtx run3 with tiles := [(0, { ({} : Tile) with ma0 := f {} })], spd := l }
/-- A is 2, 3 and S is 5, 7. -/
def mvMem : Tab Byte := [(0x1000, 2), (0x1001, 3), (0x2000, 5), (0x2040, 7)]
def relS (d : Nat) : State := mS (fun m => { m with stream0 := { queue := [⟨0x800, 2, 0⟩] } }) (memWrite mvMem 0x800 (toBytes 64 d))
def shS : State := mS (fun m => { m with stream0 := { decoded := [pass (mvD 1 0) false] } }) mvMem
def passS (d : Nat) : State :=
  mS (fun m => { m with stream0 := { decoded := [pass d true] }, shadow0 := some (readS (mS id mvMem) 0 (mvD 1 0)) }) mvMem
def inS (d : Nat) : State :=
  let e := [(0, (elemPass 1 2 2 true [2, 3] [5, 7] [] 0))]
  mS (fun m => { m with stream0 := { inArray := [{ pass d true with acc := outElems d 0 e }] }, acc := e, reserved := 1 }) []

theorem witness_ArrayDecode_1 : live (relS (mvD 1 0)) = true ∧ (strOf (maOf (relS (mvD 1 0)) 0 0) 0).queue = [⟨0x800, 2, 0⟩] ∧ (strOf (maOf (relS (mvD 1 0)) 0 0) 0).decoded.length < 4
    ∧ mvD 1 0 = ofBytes (spdRead (relS (mvD 1 0)) 0 0x800 64) ∧ firstUe (relS (mvD 1 0)) 0 [(0x800, 64)] = none ∧ dBcast (mvD 1 0) = 0
    ∧ checks17 (relS (mvD 1 0)) 0 0 0 (mvD 1 0) 0x800 0 = none ∧ dVEn (mvD 1 0) = false := by and_intros <;> decide +kernel
theorem witness_ArrayDecode_quiet : maQuiet (relS (mvD 1 0)) 0 := by
  intro a st ha hst
  have h1 : a = 0 ∨ a = 1 := by omega
  have h2 : st = 0 ∨ st = 1 := by omega
  rcases h1 with rfl | rfl <;> rcases h2 with rfl | rfl <;> decide +kernel
/-- Opcode 7 is reserved (check 1); a row-major address that is not a multiple of 64 fails check 7. -/
theorem witness_ArrayDecode_2 : checks17 (relS (mvD 7 0)) 0 0 0 (mvD 7 0) 0x800 0 = some 1 ∧ checks17 (relS (mvD 1 0)) 0 0 0 (mvD 1 0 + 1 <<< 64) 0x800 0 = some 7
    ∧ (strOf (maOf (relS (mvD 7 0)) 0 0) 0).decoded = [] := by decide +kernel
theorem witness_ArrayDecode_3 : (strOf (maOf shS 0 0) 0).decoded.find? (fun p => needsLoad p.desc.toNat && !p.loaded) = some (pass (mvD 1 0) false)
    ∧ shadowFree (maOf shS 0 0) (mvD 1 0) 0 = true ∧ firstUe shS 0 (intervals (opS (mvD 1 0)) ++ sxIntervals (mvD 1 0)) = none := by decide +kernel
theorem witness_ArrayDecode_4 : mayWrite .f0 (aTile 0 3 8) 8 up ∧ streamIdle (strOf (maOf up 0 1) 1) = true ∧ streamIdle (strOf (maOf (relS 0) 0 0) 0) = false :=
  ⟨mayB_ok _ _ _ _ (by decide +kernel), by decide +kernel, by decide +kernel⟩
theorem test_descriptor_decode : after (.descriptorDecode 0 0 0) (relS (mvD 1 0)) (fun n => ((strOf (maOf n 0 0) 0).decoded.map (·.off), (strOf (maOf n 0 0) 0).queue)) = some ([0x800], [⟨0x840, 1, 1⟩]) := by
  decide +kernel
theorem test_descriptor_check_stops : after (.descriptorDecode 0 0 0) (relS (mvD 7 0)) (fun n => ((strOf (maOf n 0 0) 0).stopped, regRaw n (aTile 0 2 0x18), n.faults.map (fun r => (r.cls, r.code))))
    = some (true, 0x10000801, [(2, 1)]) := by decide +kernel
theorem test_ma_desc_head : after (.maDescHead .f0 0 1 1 0xFFFFFFFF) up (fun n => regRaw n (aTile 0 3 8)) = some 0x7FFFC0 := by decide +kernel

theorem witness_ArrayPasses_1 : live (passS (mvD 1 0)) = true ∧ (strOf (maOf (passS (mvD 1 0)) 0 0) 0).decoded = [pass (mvD 1 0) true] ∧ dOpcode (pass (mvD 1 0) true).desc.toNat = 1
    ∧ mayEnter (passS (mvD 1 0)) 0 0 0 (pass (mvD 1 0) true) = true ∧ dBcast (mvD 1 0) ≠ 1 ∧ firstUe (passS (mvD 1 0)) 0 (aIntervals (mvD 1 0) ++ axIntervals (mvD 1 0)) = none
    ∧ mayEnter (passS fillD) 0 0 0 (pass fillD true) = true ∧ dOpcode fillD = 0x11 ∧ 0 < dM (mvD 1 0) ∧ 0 < dCols (mvD 1 0)
    ∧ (activeS (enterPass 0 (pass (mvD 1 0) true) (maOf (passS (mvD 1 0)) 0 0)) 0).isSome = true := by and_intros <;> decide +kernel
theorem witness_ArrayPasses_quiet : maQuiet (passS (mvD 1 0)) 0 := by
  intro a st ha hst
  have h1 : a = 0 ∨ a = 1 := by omega
  have h2 : st = 0 ∨ st = 1 := by omega
  rcases h1 with rfl | rfl <;> rcases h2 with rfl | rfl <;> decide +kernel
theorem witness_ArrayPasses_2 : (strOf (maOf (inS (mvD 1 0)) 0 0) 0).inArray = [pass (mvD 1 0) true] ∧ (tileOf (inS (mvD 1 0)) 0).ports.got = [] ∧ bit (dAct (mvD 1 0)) 1 = false ∧ bit (dAct (mvD 1 0)) 0 = false
    ∧ bit (dAct (mvD 1 1)) 0 = true ∧ bit (dAct (mvD 1 2)) 1 = true ∧ inSpd (outIntervals (mvD 1 2)) = true ∧ dOutFmt (mvD 1 2) ≠ 6
    ∧ masked (dMaskKind (mvD 1 2)) (dMask (mvD 1 2)) 0 (dCol0 (mvD 1 2) 0) = false := by decide +kernel
/-- Element (0, 0) after a pass; MAC gives 2 × 5 + 3 × 7 (R129). -/
def elemOut (i : Instr) (op : Nat) : Option Nat := after i (passS (mvD op 0)) (fun n => (outConvert 5 false .rne (elemUnpack (tgetD 0#128 (maOf n 0 0).acc 0)).v).1)
theorem test_mac : elemOut (.mac 0 0 0 false) 1 = some 31 := by decide +kernel
theorem test_write_output : after (.passComplete 0 0 0 false) (inS (mvD 1 2)) (fun n => (spdRead n 0 0x4000 4, (strOf (maOf n 0 0) 0).count)) = some ([31, 0, 0, 0], 1) := by decide +kernel
theorem test_push_entry : after (.passComplete 0 0 0 false) (inS (mvD 1 1)) (fun n => ((maOf n 0 0).ftq.map (fun e => (fld e.bits.toNat 62 60, e.poppable)), (maOf n 0 0).held)) = some ([(4, false)], [0]) := by
  decide +kernel
theorem test_fill : after (.fill 0 0 0 false) (passS fillD) (fun n => tgetD 0#128 (maOf n 0 0).acc 0) = some 0x302 := by decide +kernel

/-! The copy engine. -/

/-- A descriptor: kind, rows, bytes a row, source, destination, both on this module. -/
def cpD (kind rows n src dst : Nat) : Nat := kind + (rows - 1) <<< 8 + (n - 1) <<< 24 + src <<< 128 + dst <<< 192
def cpX (d : Nat) : CpyDesc := { desc := BitVec.ofNat 256 d, off := 0x800, no := 0, started := false }
def cpS (d : Nat) (l : Tab Byte) : State := { inCtx run3 with tiles := [(0, { ({} : Tile) with cpy := { decoded := [cpX d] } })], spd := l }
def cpR (d : Nat) : State := { inCtx run3 with tiles := [(0, { ({} : Tile) with cpy := { queue := [⟨0x800, 1, 0⟩] } })], spd := memWrite [] 0x800 (toBytes 32 d) }
def o1 : Nat := spdAddr 0 0x1000
def o2 : Nat := spdAddr 0 0x2000

theorem witness_CopyDecodeComplete_1 : (cpyOf (cpR (cpD 0 1 4 o1 o2)) 0).queue = [⟨0x800, 1, 0⟩] ∧ (cpyOf (cpR 0) 0).fault = none ∧ firstUe (cpR (cpD 0 1 4 o1 o2)) 0 [(0x800, 32)] = none
    ∧ cpD 0 1 4 o1 o2 = ofBytes (spdRead (cpR (cpD 0 1 4 o1 o2)) 0 0x800 32) ∧ cpyCheck (cpD 0 1 4 o1 o2) = none ∧ cpyCheck (cpD 5 1 4 o1 o2) = some 1
    ∧ cpyCheck (cpD 3 1 4 o1 o2 + 1 <<< 88) = some 2 ∧ (0x800 : Nat) < 2 ^ 23 := by decide +kernel
theorem witness_CopyDecodeComplete_2 : (cpyOf (cpS (cpD 0 1 4 o1 o2) []) 0).decoded = [cpX (cpD 0 1 4 o1 o2)] ∧ (cpX (cpD 0 1 4 o1 o2)).started = false
    ∧ readPending (cpS (cpD 0 1 4 o1 o2) []) 0 0 = false := by decide +kernel
/-- Steward 0 at SD x2, 0(x1) with x1 at its alias of CPY_DESC_HEAD and x2 = v. -/
def headS (v : Nat) : State := stS 0x0020B023 (fun x => withReg 1 0x1006000 (withReg 2 v x))
theorem witness_CopyDecodeComplete_3 : stAt (headS 0xFFFFFFFF) 0 0 0x0020B023 4 0x0020B023 (headS 0xFFFFFFFF)
    ∧ stTarget 0 (storeAddr (stOf (headS 0xFFFFFFFF) 0 0) 0x0020B023) 8 = .ctl (aTile 0 6 0)
    ∧ pmpAllows (stOf (headS 0xFFFFFFFF) 0 0) (dataMode (stOf (headS 0xFFFFFFFF) 0 0)) .store (storeAddr (stOf (headS 0xFFFFFFFF) 0 0) 0x0020B023) 8 = true
    ∧ (match regFor (.steward 0 0) true (aTile 0 6 0) 8 (headS 0xFFFFFFFF) with | .ok _ => true | .error _ => false) = true
    ∧ cpyIdle (headS 0xFFFFFFFF) 0 = true ∧ cpyIdle (cpR 0) 0 = false :=
  ⟨⟨by decide +kernel, by decide, by decide, Or.inr (by decide +kernel)⟩, by decide +kernel, by decide +kernel, by decide +kernel, by decide +kernel, by decide +kernel⟩
theorem test_cpy_desc_head : after (.cpyDescHead (.steward 0 0) 0 0xFFFFFFFF) (headS 0xFFFFFFFF) (fun n => (regRaw n (aTile 0 6 0), (stOf n 0 0).pc)) = some (0x7FFFE0, 4) := by
  decide +kernel
theorem test_copy_decode : after (.copyDecode 0) (cpR (cpD 0 1 4 o1 o2)) (fun n => ((cpyOf n 0).decoded.map (·.no), (cpyOf n 0).numNext)) = some ([0], 1) := by decide +kernel
theorem test_copy_check_stops : after (.copyDecode 0) (cpR (cpD 5 1 4 o1 o2)) (fun n => ((cpyOf n 0).stopped, regRaw n (aTile 0 6 0x10))) = some (true, 1 + 0x40 <<< 24) := by decide +kernel
theorem test_copy_complete : after (.copyComplete 0) { cpS 0 [] with tiles := [(0, { ({} : Tile) with cpy := { decoded := [{ cpX 0 with started := true, row := 1 }] } })] }
    (fun n => ((cpyOf n 0).count, (cpyOf n 0).doneTo, (cpyOf n 0).decoded.length)) = some (1, 1, 0) := by decide +kernel

/-- What the first clause of CopyRows asks of the pieces, as a Bool. -/
def cpFits (s : State) (d : Nat) : Bool :=
  (copyPieces s 0 d).all (fun p => decide (spdBase ≤ p.1 ∧ p.1 + p.2.2 ≤ spdBase + spdSize ∧ spdBase ≤ p.2.1 ∧ p.2.1 + p.2.2 ≤ spdBase + spdSize ∧ 0 < p.2.2)
    && (firstUe s 0 [(p.1 - spdBase, p.2.2)]).isNone && vsWritable s 0 (p.2.1 - spdBase) p.2.2)
theorem cpFits_ok (s : State) (d : Nat) (h : cpFits s d = true) : ∀ p ∈ copyPieces s 0 d, ∃ so e, ownSpd 0 p.1 p.2.2 so ∧ ownSpd 0 p.2.1 p.2.2 e ∧ 0 < p.2.2
    ∧ firstUe s 0 [(so, p.2.2)] = none ∧ vsWritable s 0 e p.2.2 = true := by
  intro p hp
  unfold cpFits at h
  have h := List.all_eq_true.mp h p hp
  simp only [Bool.and_eq_true, decide_eq_true_eq, Option.isNone_iff_eq_none] at h
  obtain ⟨⟨⟨a, b, c, d, e⟩, f⟩, g⟩ := h
  refine ⟨p.1 - spdBase, p.2.1 - spdBase, ⟨?_, ?_⟩, ⟨?_, ?_⟩, e, f, g⟩ <;> (try simp only [spdAddr]) <;> omega
theorem witness_CopyRows_next : copyNext (cpS (cpD 0 2 4 o1 o2 + 64 <<< 40 + 4 <<< 64) []) 0 3 0 (cpX (cpD 0 2 4 o1 o2 + 64 <<< 40 + 4 <<< 64)) := by and_intros <;> decide +kernel
theorem witness_CopyRows_1 (d : Nat) (hd : d ∈ [cpD 0 2 4 o1 o2 + 64 <<< 40 + 4 <<< 64, cpD 1 1 4 o1 o2 + 64 <<< 64, cpD 2 1 4 o1 o2 + 64 <<< 40, cpD 3 1 4 o1 o2 + 0x3000 <<< 88]) :
    (∀ p ∈ copyPieces (cpS d []) 0 d, ∃ so e, ownSpd 0 p.1 p.2.2 so ∧ ownSpd 0 p.2.1 p.2.2 e ∧ 0 < p.2.2 ∧ firstUe (cpS d []) 0 [(so, p.2.2)] = none ∧ vsWritable (cpS d []) 0 e p.2.2 = true)
    ∧ (copyPieces (cpS d []) 0 d).Pairwise (fun p q => overlap p.2.1 p.2.2 q.2.1 q.2.2 = false)
    ∧ (∀ p ∈ copyPieces (cpS d []) 0 d, ∀ q ∈ copyPieces (cpS d []) 0 d, overlap p.2.1 p.2.2 q.1 q.2.2 = false) ∧ cSrcDev d = ownDev (cpS d []) ∧ cpyCheck d = none := by
  refine ⟨cpFits_ok _ _ ?_, ?_, ?_, ?_, ?_⟩ <;> revert d <;> decide +kernel
theorem witness_CopyRows_2 : copyPieces (cpS (cpD 0 1 4 o1 0x40000) []) 0 (cpD 0 1 4 o1 0x40000) = [(o1, 0x40000, 4)] ∧ inPartition (cpS 0 []) 3 0x40000 4 = true
    ∧ copyNext (cpS (cpD 4 1 64 o1 0x40000) []) 0 3 4 (cpX (cpD 4 1 64 o1 0x40000)) ∧ copyPieces (cpS (cpD 4 1 64 o1 0x40000) []) 0 (cpD 4 1 64 o1 0x40000) = [(o1, 0x40000, 64)]
    ∧ (cReq (cpD 4 1 64 o1 0x40000)).seq = false ∧ bit (ctxTiles (cpS 0 []) 3) 0 = true := by and_intros <;> decide +kernel
theorem witness_CopyRows_3 : copyPieces (cpS (cpD 0 1 4 0x40000 o2) []) 0 (cpD 0 1 4 0x40000 o2) = [(0x40000, o2, 4)]
    ∧ copyNext (cpS (cpD 0 1 4 0x40000 o2) []) 0 3 0 (cpX (cpD 0 1 4 0x40000 o2)) := by and_intros <;> decide +kernel
theorem test_copy : after (.copy 0) (cpS (cpD 0 2 2 o1 o2 + 64 <<< 40 + 2 <<< 64) [(0x1000, 1), (0x1001, 2), (0x1040, 3), (0x1041, 4)]) (fun n => spdRead n 0 0x2000 4) = some [1, 2, 3, 4] := by decide +kernel
theorem test_to_wb : after (.toWb 0) (cpS (cpD 1 1 2 o1 o2 + 64 <<< 64) [(0x1000, 1), (0x1001, 2)]) (fun n => spdRead n 0 0x2000 2) = some [1, 2] := by decide +kernel
theorem test_from_wb : after (.fromWb 0) (cpS (cpD 2 1 2 o1 o2 + 64 <<< 40) [(0x1000, 1), (0x1001, 2)]) (fun n => spdRead n 0 0x2000 2) = some [1, 2] := by decide +kernel
theorem test_gather : after (.gather 0) (cpS (cpD 3 1 2 o1 o2 + 64 <<< 40 + 0x3000 <<< 88) [(0x1080, 7), (0x1081, 8), (0x3000, 2)]) (fun n => spdRead n 0 0x2000 2) = some [7, 8] := by decide +kernel
theorem test_copy_reduce_posts : after (.copyReduce 0) (cpS (cpD 4 1 64 o1 0x40000) []) (fun n => n.accs.map (fun a => (a.addr, a.ctx, a.stage))) = some [(0x40000, 3, .todo)] := by decide +kernel
theorem test_copy_outside_partition_stops : after (.copy 0) (cpS (cpD 0 1 4 o1 0x8000000000) []) (fun n => ((cpyOf n 0).stopped, n.faults.map (fun r => (r.cls, r.code)))) = some (true, [(1, 3)]) := by decide +kernel

/-! ### Scratchpad, version slots, contour units, stacked memory -/

/-- Slot 7 of tile 0 with buffers of 2 KiB at 0x800 and 0x1000. -/
def vsS (v : VBuf) : State := { withRegs [(aTile 0 7 0x8E0, 0x100020001)] (inCtx run3) with tiles := [(0, { ({} : Tile) with vbufs := [(15, v)] })] }
theorem witness_VersionSlots_1 : mayWrite .f0 (aTile 0 7 (0x810 + 0x20 * 7)) 4 (vsS { valid := true }) ∧ vsEn (vsS { valid := true }) 0 7 = true
    ∧ vbClosed (vbufOf (vsS { valid := true }) 0 7 1) = true ∧ vbOpen (vbufOf (vsS {}) 0 7 1) = true ∧ vsEn (vsS {}) 0 6 = false
    ∧ passesInto (vsS {}) 0 (cfgBase (vsCfg (vsS {}) 0 7) 1) (cfgLen (vsCfg (vsS {}) 0 7)) = [] :=
  ⟨mayB_ok _ _ _ _ (by decide +kernel), by decide +kernel, by decide +kernel, by decide +kernel, by decide +kernel, by decide +kernel⟩
/-- A pass in the array writes its row at 0x1000. -/
def vsPass : State :=
  { vsS {} with tiles := [(0, { ({} : Tile) with vbufs := [(15, { closing := true, closeTag := 9, closeOn := [(0, 1)] })], ma0 := { stream0 := { inArray := [pass (1 + 4 <<< 8 + 3 <<< 43 + 0x1000 <<< 128) true] } } })] }
theorem witness_VersionSlots_2 : passesInto vsPass 0 (cfgBase (vsCfg vsPass 0 7) 1) (cfgLen (vsCfg vsPass 0 7)) ≠ []
    ∧ (∀ q ∈ (vbufOf vsPass 0 7 1).closeOn, passPending vsPass 0 q = false) ∧ (vbufOf vsPass 0 7 1).closing = true := by decide +kernel
theorem witness_VersionSlots_3 : mayWrite .f0 (aTile 0 7 (0x800 + 0x20 * 7)) 8 up ∧ vsEn up 0 7 = false ∧ bit 0x100020001 32 = true ∧ cfgPlaced up 0 7 0x100020001 = true :=
  ⟨mayB_ok _ _ _ _ (by decide +kernel), by decide +kernel, by decide +kernel, by decide +kernel⟩
theorem witness_VersionSlots_4 : (vbufOf (vsS { pend := true }) 0 7 1).pend = true ∧ (vbufOf (vsS { pend := true }) 0 7 1).rd = 0 ∧ (vbufOf (vsS { pend := true, rd := 2 }) 0 7 1).rd ≠ 0
    ∧ (vsS {}).faults.any (sameUnit (vsS {}) (tileFault (vsS {}) 4 2 7 0)) = false := by decide +kernel
theorem test_vs_open : after (.vsOpen .f0 0 7 1) (vsS { valid := true }) (fun n => ((vbufOf n 0 7 1).valid, (vbufOf n 0 7 1).pend)) = some (false, true) := by decide +kernel
theorem test_vs_close : after (.vsClose .f0 0 7 1 9) (vsS {}) (fun n => ((vbufOf n 0 7 1).valid, (vbufOf n 0 7 1).tag)) = some (true, 9) := by decide +kernel
theorem test_buffer_opens : after (.bufferOpens 0 7 1) (vsS { pend := true }) (fun n => vbOpen (vbufOf n 0 7 1)) = some true := by decide +kernel
theorem test_close_takes_effect : after (.closeTakesEffect 0 7 1) vsPass (fun n => ((vbufOf n 0 7 1).valid, (vbufOf n 0 7 1).tag)) = some (true, 9) := by decide +kernel
theorem test_version_busy : after (.versionBusy 0 7 1) (vsS { pend := true, rd := 2 }) (fun n => (vbClosed (vbufOf n 0 7 1), n.faults.map (fun r => (r.cls, r.code)))) = some (true, [(4, 2)]) := by
  decide +kernel
theorem test_vs_cfg : after (.vsCfgWrite .f0 0 7 0x100020001) up (fun n => (vsCfg n 0 7, vbOpen (vbufOf n 0 7 0))) = some (0x100020001, true) := by decide +kernel

def noReq : BankCycle := { survey := false, feedA := none, feedB := none, vec := none, xfer := [], ecc := [] }
theorem witness_ScratchpadCycle_1 : reqOk (.write 0x10 [1, 2]) = true ∧ live up = true ∧ (tileOf up 127).ports = {} := by decide +kernel
/-- The two meet in bank 0: once with no word in common, once in word 2. -/
theorem witness_ScratchpadCycle_2 : (reqBanks (.write 0x10 [1])).contains 0 = true ∧ (reqBanks (.write 0x1010 [2])).contains 0 = true
    ∧ (reqWords (.write 0x1010 [2])).filter (fun w => (reqWords (.write 0x10 [1])).contains w) = []
    ∧ (reqWords (.write 0x11 [2])).filter (fun w => (reqWords (.write 0x10 [1])).contains w) = [2] ∧ (tileOf up 0).age = [] := by decide +kernel
theorem witness_ScratchpadCycle_3 : surveyActive up 0 = true ∧ surveyNext up 0 = 0 ∧ (tileOf up 0).eccBad = [] ∧ (tileOf up 0).ports.walk = 0
    ∧ (31 : Nat) < 32 ∧ (tileOf up 0).ports.busy.contains 31 = false
    ∧ (tileOf { up with tiles := [(0, { ({} : Tile) with ports := { busy := [31] } })] } 0).ports.busy.contains 31 = true := by decide +kernel
theorem test_bank_collision : after (.bankArbitration 0 { noReq with feedA := some (.write 0x10 [1]), feedB := some (.write 0x11 [2]) }) up
    (fun n => (spdRead n 0 0x10 2, regRaw n (aSpd 0 0x38), tget (tileOf n 0).ports.reqs 1)) = some ([1, 0], 1, some ⟨.write 0x11 [2], [], [2], true⟩) := by decide +kernel
theorem test_bank_stall : after (.bankArbitration 0 { noReq with feedA := some (.write 0x10 [1]), feedB := some (.write 0x1010 [2]) }) up
    (fun n => (spdRead n 0 0x10 1, spdRead n 0 0x1010 1, regRaw n (aTile 0 7 0x18))) = some ([1], [0], 1) := by decide +kernel
theorem test_write_back : after (.writeBack 0 5) { up with tiles := [(0, { ({} : Tile) with wbPend := [(5, 0x28)] })] } (fun n => (tileOf n 0).wbPend) = some [] := by decide +kernel
theorem test_survey : after (.surveyRegionStep 0 [] []) up (fun n => surveyNext n 0) = some 1 := by decide +kernel

/-- Context 3 with a tensor table of one entry at 2 MiB, statistics at 2 MiB + 4 KiB. -/
def tk1 : TensorKept := { addr := 0x200000, nt := 1, stats := 0x201000, ut := 0, priv := [] }
def ctS : State := { inCtx { run3 with tensors := some tk1, liveDone := false } with tiles := [(0, { ({} : Tile) with contour := { recs := [(0, { elems := 5, amax := 9 })] } })] }
theorem witness_ContourStatistics_1 : tileCtx ctS 0 = some 3 ∧ (ctxOf ctS 3).tensors = some tk1 ∧ tget (tileOf ctS 0).contour.recs 0 = some { elems := 5, amax := 9 }
    ∧ memAvailable ctS (recAddr tk1 (stepOf ctS 3 % 2) 0) 192 = true ∧ lineOpen ctS (recAddr tk1 (stepOf ctS 3 % 2) 0) 192 = false
    ∧ lineOpen { ctS with entries := [⟨recAddr tk1 0 0 / 64 * 64, false, ⟨0, 0, true, false, 0, 1, 1⟩, 3, 5, 0, []⟩] } (recAddr tk1 0 0) 192 = true
    ∧ memAvailable (withRegs [(aHbmc (homeStack ctS (recAddr tk1 0 0)) 0, 3#64)] ctS) (recAddr tk1 0 0) 192 = false := by decide +kernel
theorem noBook_ok (s : State) (h : s.books = []) : noBook s := by intro b hb; simp [bookOf, h, tgetD, tget] at hb
theorem witness_ContourStatistics_2 : noBook ctS ∧ (ctxOf ctS 3).liveDone = false ∧ tk1.nt = 1 ∧ entryAddr tk1 0 + 128 ≤ tk1.stats
    ∧ bit (ofBytes (hbmRead ctS (entryAddr tk1 0) 128)) 9 = false ∧ (ctxOf ctS 3).state = .running ∧ wpQuiet ctS 3 :=
  ⟨noBook_ok _ rfl, by decide +kernel, rfl, by decide +kernel, by decide +kernel, by decide +kernel,
    fun i h => absurd h (by have e : (ctxOf ctS 3).next = .none := by decide +kernel
                            rw [e]; exact fun h => nomatch h)⟩
/-- A tensor whose AMAX goes to the whole job (SCOPE 1), with no maximum of the job here yet. -/
theorem witness_ContourStatistics_3 : amaxHere (hbmWrite (entryAddr tk1 0 + 1) [2] ctS) 3 (scopeOne (hbmWrite (entryAddr tk1 0 + 1) [2] ctS) tk1) = false := by decide +kernel
theorem test_contour_eviction : after (.contourEviction 0 0) ctS (fun n => (hbmRead n (recAddr tk1 0 0) 1, hbmRead n (recAddr tk1 0 0 + 40) 1, (tileOf n 0).contour.recs.length)) = some ([5], [9], 0) := by
  decide +kernel
theorem test_live_field_update : after (.liveFieldUpdate 3 0) ctS (fun n => ((ctxOf n 3).liveDone, hbmRead n (bankAddr tk1 1) 11)) = some (true, [0xFF, 0xFF, 0xFF, 0xFF, 0xFF, 0xFF, 0xFF, 0xFF, 1, 0, 1]) := by
  decide +kernel

/-- Access 0 of context 3: a copy's write, a copy's read, a reduction request. -/
def acS (op : AccOp) (x : Ctx) : State := { inCtx x with accs := [⟨0, .cpy 0 0 0 0, 3, 5, 0x1000, op, .todo⟩] }
def acA (op : AccOp) : Acc := ⟨0, .cpy 0 0 0 0, 3, 5, 0x1000, op, .todo⟩
theorem witness_HbmAccess_1 (op : AccOp) (h : op ∈ [AccOp.write [1, 2], .read 4 [] (spdAddr 0 0x100) none]) :
    accNow (acS op run3) 0 (acA op) ∧ gAddr (acA op).addr + accLen (acA op) ≤ hbmTop ∧ accTurn (acS op run3) (acA op) = true
    ∧ lineOpen (acS op run3) 0x1000 (accLen (acA op)) = false ∧ (chargeAll 0x1000 (accLen (acA op)) (accPart (acS op run3) (acA op)) (acS op run3)).isSome = true
    ∧ earlierWrite (acS op run3) (acA op) = false ∧ memPoisoned (acS op run3) 0x1000 4 = none ∧ (tileOf (acS op run3) 0).ports.got = []
    ∧ vsWritable (acS op run3) 0 0x100 4 = true ∧ gAt (ownDev (acS op run3)) (spdAddr 0 0x100) = spdAddr 0 0x100 ∧ noBook (acS op run3) := by
  refine ⟨⟨?_, ?_, ?_, ?_, ?_⟩, ?_, ?_, ?_, ?_, ?_, ?_, ?_, ?_, ?_, noBook_ok _ rfl⟩ <;> revert op <;> decide +kernel
theorem noTensor_ok (s : State) (a n : Nat) (h : (List.range 16).all (fun c => (ctxOf s c).tensors == none) = true) : noTensor s a n := by
  intro c tk hc ht
  have := List.all_eq_true.1 h c (List.mem_range.2 hc)
  rw [ht] at this; exact absurd this (by simp)
theorem witness_HbmAccess_noTensor : noTensor (acS (.write [1, 2]) run3) 0x1000 2 := noTensor_ok _ _ _ (by decide +kernel)
/-- The line of the write has an open entry; its bucket lacks everything; an earlier write of the same row is not done. -/
theorem witness_HbmAccess_2 : lineOpen { acS (.write [1, 2]) run3 with entries := [⟨0x1000, false, ⟨0, 0, true, false, 0, 1, 1⟩, 3, 5, 0, []⟩] } 0x1000 2 = true
    ∧ chargeAll 0x1000 2 3 { acS (.write [1, 2]) run3 with stackCtl := (List.range 20).map (fun k => (k, { ({} : Stack) with buckets := (List.range 200).map (fun b => (b, 70000)) })) } = none
    ∧ earlierWrite { acS (.write [1, 2]) run3 with accs := [acA (.write [3]), { acA (.write [1, 2]) with id := 1 }] } { acA (.write [1, 2]) with id := 1 } = true := by
  decide +kernel
theorem test_hbm_write : after (.hbmAccess 0) (acS (.write [1, 2]) run3) (fun n => (hbmRead n 0x1000 2, n.accs.length)) = some ([1, 2], 0) := by decide +kernel
theorem test_hbm_read : after (.hbmAccess 0) (hbmWrite 0x1000 [7, 8] (acS (.read 2 [] (spdAddr 0 0x100) none) run3)) (fun n => (spdRead n 0 0x100 2, n.accs.length)) = some ([7, 8], 0) := by
  decide +kernel

/-- FP32 addition, one slot, of 1.0 in the first word of the line. -/
def rq (seq : Bool) (slot cntM1 : Nat) : RedReq := { op := 0, ty := 0, seq := seq, ovw := false, slot := slot, cntM1 := cntM1, emask := 0xFFFFFFFF }
def one64 : List Byte := [0, 0, 0x80, 0x3F] ++ List.replicate 60 0
def rdS (seq : Bool) (slot cntM1 : Nat) : State := acS (.reduce (rq seq slot cntM1) one64) { run3 with nondet := true }
def rdA (seq : Bool) (slot cntM1 : Nat) : Acc := ⟨0, .cpy 0 0 0 0, 3, 5, 0x1000, .reduce (rq seq slot cntM1) one64, .todo⟩
theorem noneLate_ok (s : State) (h : s.late = []) (b : s.books = []) : noneLate s := by
  refine ⟨h, fun b' => ?_⟩; simp [bookOf, b, tgetD, tget]
theorem witness_Reductions_1 : accGoes (rdS false 0 0) 0 (rdA false 0 0) ∧ one64.length = 64 ∧ redBad (rq false 0 0) = false ∧ entryOf (rdS false 0 0) 0x1000 = none
    ∧ (chargeAll 0x1000 64 3 (rdS false 0 0)).isSome = true ∧ colWindow (rdS false 0 0) 3 0x1000 = none ∧ (ctxOf (rdS false 0 0) 3).nondet = true ∧ noBook (rdS false 0 0)
    ∧ linePoisoned (rdS false 0 0) 0x1000 = false ∧ earlierWrite (rdS false 0 0) (rdA false 0 0) = false ∧ noneLate (rdS false 0 0) ∧ noTensor (rdS false 0 0) 0x1000 64 := by
  refine ⟨⟨⟨?_, ?_, ?_, ?_, ?_⟩, ?_, ?_⟩, ?_, ?_, ?_, ?_, ?_, ?_, noBook_ok _ rfl, ?_, ?_, noneLate_ok _ rfl rfl, noTensor_ok _ _ _ ?_⟩ <;> decide +kernel
theorem witness_Reductions_2 : accGoes (rdS true 0 0) 0 (rdA true 0 0) ∧ accGoes (rdS true 1 1) 0 (rdA true 1 1) ∧ redBad (rq true 1 1) = false ∧ unitOpen (rdS true 0 0) 0x1000 < 64 := by
  refine ⟨⟨⟨?_, ?_, ?_, ?_, ?_⟩, ?_, ?_⟩, ⟨⟨?_, ?_, ?_, ?_, ?_⟩, ?_, ?_⟩, ?_, ?_⟩ <;> decide +kernel
/-- Sixty-four open entries of the same MRU. -/
def fullS : State := { rdS true 0 0 with entries := (List.range 64).map (fun i => ⟨0x1000, true, rq true 0 1, 3, 5, i, []⟩) }
theorem witness_Reductions_timeout : entryOf { up with entries := [⟨0x1000, false, rq true 0 1, 3, 5, 0, []⟩], ctxs := [(3, run3)] } 0x1000 = some ⟨0x1000, false, rq true 0 1, 3, 5, 0, []⟩
    ∧ (ctxOf { up with ctxs := [(3, run3)] } 3).state = .running ∧ up.accs = [] ∧ up.late = [] := by decide +kernel
theorem witness_Reductions_allocation : ({ rdS true 0 0 with accs := [{ rdA true 0 0 with stage := .waitAlloc 3 }] } : State).accs.find? (fun a => a.stage == .waitAlloc 3
      && (decide (unitOpen { rdS true 0 0 with accs := [{ rdA true 0 0 with stage := .waitAlloc 3 }] } (gAddr a.addr) < 64)
        || (entryOf { rdS true 0 0 with accs := [{ rdA true 0 0 with stage := .waitAlloc 3 }] } (gAddr a.addr)).isSome))
    = some { rdA true 0 0 with stage := .waitAlloc 3 } := by decide +kernel
theorem test_unsequenced : after (.unsequencedReduction 0) (hbmWrite 0x1000 [0, 0, 0, 0x40] (rdS false 0 0)) (fun n => hbmRead n 0x1000 4) = some [0, 0, 0x40, 0x40] := by decide +kernel
theorem test_sequenced_closes : after (.sequencedReduction 0) (hbmWrite 0x1000 [0, 0, 0, 0x40] (rdS true 0 0)) (fun n => (hbmRead n 0x1000 4, n.entries.length)) = some ([0, 0, 0x40, 0x40], 0) := by
  decide +kernel
theorem test_sequenced_opens : after (.sequencedReduction 0) (rdS true 1 1) (fun n => n.entries.map (fun e => (e.line, e.next, e.parts.length))) = some [(0x1000, 0, 1)] := by decide +kernel
theorem test_seq_timeout : after (.seqTimeout 0x1000) { up with entries := [⟨0x1000, false, rq true 0 1, 3, 5, 0, []⟩], ctxs := [(3, run3)] } (fun n => (n.entries.length, n.faults.map (fun r => (r.cls, r.code))))
    = some (0, [(5, 4)]) := by decide +kernel

theorem witness_StackControl_1 : mayWrite .f0 (aSc 3 4) 4 up ∧ bit (regRaw up (aSc 3 0)) 4 = false ∧ regRaw up (aSc 3 8) < regRaw up (aSc 3 0x10) + 0x200000
    ∧ (∀ c, c < 16 → (ctxOf up c).state = .free) ∧ (∀ i, i < 5 → stackState up (5 * 3 + i) = 1) :=
  ⟨mayB_ok _ _ _ _ (by decide +kernel), by decide +kernel, by decide +kernel, by decide +kernel, by decide +kernel⟩
theorem witness_StackControl_2 : tget ({ up with scacheOp := [(3, (0, 0))] } : State).scacheOp 3 = some (0, 0)
    ∧ tget ({ up with scacheOp := [(3, (0x200000, 0x400000))] } : State).scacheOp 3 = some (0x200000, 0x400000) := by decide +kernel
theorem witness_StackControl_3 : mayWrite .f0 (aSc 0 0x20) 4 up ∧ bit (regRaw (withRegs [(aSc 0 0x20, 0x101)] up) (aSc 0 0x20)) 8 = true ∧ bit 0x107 8 = true
    ∧ ({ up with legend := { uniform := true } } : State).legend.uniform = true ∧ regRaw up (aSc 0 0x18) + (fld 0x107 2 0 + 1) * 0x200000 ≤ hbmTop
    ∧ bit (regRaw up (aSc 0 0x20)) 8 = false ∧ up.accs = [] ∧ up.dirty = [] ∧ fld 1 2 0 = fld (regRaw (withRegs [(aSc 0 0x20, 0x101)] up) (aSc 0 0x20)) 2 0 ∧ bit 1 8 = false :=
  ⟨mayB_ok _ _ _ _ (by decide +kernel), by decide +kernel⟩
theorem test_pin : after (.pinCtlWrite .f0 0 0x100) { up with legend := { uniform := true } } (fun n => (regRaw n (aSc 0 0x20), tget n.pinBase 0)) = some (0x100, some 0) := by decide +kernel
theorem witness_StackControl_4 : mayWrite .f0 (aHbmc 19 (0x100 + 8 * 16)) 8 up ∧ fld 0x10000400010 6 0 ≤ fld 0x10000400010 22 16
    ∧ ((List.range 17).map (fun q => if q = 16 then fld 0x10000400010 6 0 else fld (regRaw up (aHbmc 19 (0x100 + 8 * q))) 6 0)).sum ≤ 64 ∧ fld 0x10000100020 22 16 < fld 0x10000100020 6 0 :=
  ⟨mayB_ok _ _ _ _ (by decide +kernel), by decide +kernel, by decide +kernel, by decide +kernel⟩
theorem witness_StackControl_5 : mayWrite .f0 (aHbmc 19 0) 4 up ∧ stackState up 19 ≠ 3 ∧ pinned up 0x40 = false ∧ stackState up (homeStack up 0x40) = 1 ∧ (189 : Nat) < up.legend.tCrit ∧ up.legend.tCrit ≤ 210 :=
  ⟨mayB_ok _ _ _ _ (by decide +kernel), by decide +kernel, by decide +kernel, by decide +kernel, by decide +kernel, by decide +kernel⟩
/-- A module whose line 0x40 lies in a pseudo-channel with connection 5 erased: with one symbol error more its stack is quarantined. -/
def erasedS : State :=
  let p := (hbmMap up 0x40).2.1 * 2 + (hbmMap up 0x40).2.2.1
  withRegs [(aHbmc (homeStack up 0x40) (0x40 + 8 * (p / 8)), BitVec.ofNat 64 (133 <<< (8 * (p % 8))))] up
theorem witness_StackControl_6 : erasedOf up 0x40 = none ∧ rsDecode none [1, 2] = .bad ∧ erasedOf erasedS 0x40 = some 5 ∧ (6 ∈ [5, 6]) ∧ (6 ≠ 5)
    ∧ stackState up 19 ≠ 3 ∧ stackState (withRegs [(aHbmc 19 0, 2#64)] up) 19 ≠ 1 ∧ up.poison.contains 0x40 = false := by decide +kernel
theorem test_second_connection : after (.lineDecode 0x40 (.symbols [6])) erasedS (fun n => fld (regRaw n (aHbmc (homeStack up 0x40) 0)) 7 0) = some 0x33 := by decide +kernel
theorem test_cache_error : after (.lineDecode 0x40 .cacheUe) { up with dirty := [0x40] } (fun n => (n.poison, n.faults.map (fun r => (r.cls, r.code)))) = some ([0x40], [(3, 4)]) := by decide +kernel
theorem test_scache_flush : after (.scacheFlush .f0 0) up (fun n => (n.scacheOp, regRaw n (aSc 0 0))) = some ([(0, (0, 0))], 16) := by decide +kernel
theorem test_scache_complete : after (.scacheCmdComplete 0) { up with scacheOp := [(0, (0, 0))] } (fun n => n.scacheOp) = some [] := by decide +kernel
theorem test_quar : after (.quar .f0 19) up (fun n => (stackState n 19, fld (regRaw n (aHbmc 19 0)) 7 4)) = some (3, 5) := by decide +kernel
theorem test_regulator_refused : after (.regulatorWrite .f0 19 16 0x10000100020) up (fun n => (regRaw n (aHbmc 19 0x180), n.faults.map (fun r => (r.cls, r.code)))) = some (0x40000400008, [(1, 5)]) := by
  decide +kernel
theorem test_uncorrectable_line : after (.lineDecode 0x40 (.symbols [1, 2])) up (fun n => (n.poison, n.faults.map (fun r => (r.cls, r.code)))) = some ([0x40], [(3, 5)]) := by decide +kernel
theorem test_temperature : after (.temperatureReport 19 100) { up with stackCtl := [(19, { ({} : Stack) with temps := [98, 96, 94, 90] })] } (fun n => fld (regRaw n (aHbmc 19 8)) 15 0) = some (110 * 256 + 100) := by
  decide +kernel
theorem test_critical_temperature : after (.temperatureReport 19 210) up (fun n => (stackState n 19, fld (regRaw n (aHbmc 19 0)) 7 4)) = some (3, 2) := by decide +kernel

/-! ### Ports, links and packets (chapter 12) -/

/-- Context 3 in a torus of two devices. -/
def net : State := torus (inCtx run3)
/-- A port in a state, with a link. -/
def portS (p st : Nat) (l : Link) : State := { withRegs [(aBlw p 4, BitVec.ofNat 64 st)] net with links := [(p, l)] }
theorem witness_LinkPorts_1 : portState (portS 15 2 { unacked := [(0, [1])] }) 15 = 2 ∧ (linkOf (portS 15 2 { unacked := [(0, [1])] }) 15).unacked ≠ []
    ∧ portState (portS 15 3 {}) 15 = 3 ∧ portState (portS 15 1 {}) 15 = 1 ∧ portState (portS 15 0 {}) 15 = 0 ∧ roleOf net 15 ≤ 9 ∧ mayTrain net 15 = true ∧ mayTrain net 0 = false
    ∧ expectedPeer net 0 = some (1, 1) ∧ live net = true := by decide +kernel
theorem witness_LinkPorts_2 : mayWrite .f0 (aBlw 15 0) 4 net ∧ coreRuns net 1 = true ∧ edgeAt 7 3 = true
    ∧ fld (regRaw (withRegs [(aDnet 3 7 0, 2)] net) (aDnet 3 7 0)) 2 0 = 2 :=
  ⟨mayB_ok _ _ _ _ (by decide +kernel), by decide +kernel, by decide +kernel, by decide +kernel⟩
theorem test_retraining : after (.retraining 15) (portS 15 2 { unacked := [(0, [1])] }) (fun n => (portState n 15, regRaw n (aBlw 15 0x128))) = some (3, 1) := by decide +kernel
theorem test_retraining_end : after (.retrainingEnd 15) (portS 15 3 { unacked := [(0, [1])] }) (fun n => (portState n 15, n.sentBlks)) = some (2, [(15, [1])])
    ∧ after (.retrainingEnd 15) (portS 15 3 {}) (fun n => n.faults.map (fun r => (r.cls, r.code, r.unit, r.die))) = some [(8, 2, 0x23, 5)] := by decide +kernel
theorem test_retrain_budget : after (.retrainBudget 15) (portS 15 3 {}) (fun n => (regRaw n (aBlw 15 4), n.faults.map (fun r => (r.cls, r.code)))) = some (0x50004, [(8, 1)]) := by decide +kernel
theorem test_training_lane_lost : after (.portTrainingEnd 0 { lanes := 7, genMatch := true, peerDev := 1, peerPort := 1 }) (portS 0 1 {}) (fun n => (regRaw n (aBlw 0 4), regRaw n (aBlw 0 8)))
    = some (0x27004, 0x81000001) := by decide +kernel
theorem test_training_up : after (.portTrainingEnd 0 { lanes := 15, genMatch := true, peerDev := 1, peerPort := 1 }) (portS 0 1 {}) (fun n => regRaw n (aBlw 0 4)) = some 0xF102 := by decide +kernel
theorem test_training_timeout : after (.trainingTimeout 0) (portS 0 1 {}) (fun n => regRaw n (aBlw 0 4)) = some 0x10004 := by decide +kernel
theorem test_port_enable_trains : after (.portEnable .f0 15) (withRegs [(aBlw 15 0, 0x910)] (portS 15 0 {})) (fun n => portState n 15) = some 1 := by decide +kernel
/-- EN is 1 already: the write starts nothing (R401). -/
theorem test_port_enable_again : after (.portEnable .f0 15) (portS 15 0 {}) (fun n => portState n 15) = some 0 := by decide +kernel
theorem witness_LinkPorts_3 : bit (regRaw (withRegs [(aBlw 15 0, 0x910)] (portS 15 0 {})) (aBlw 15 0)) 0 = false ∧ portState (withRegs [(aBlw 15 0, 0x910)] (portS 15 0 {})) 15 = 0
    ∧ mayTrain (withRegs [(aBlw 15 0, 0x910)] (portS 15 0 {})) 15 = true ∧ bit (regRaw net (aBlw 15 0)) 0 = true ∧ (linkOf net 15).rest = [] := by decide +kernel
theorem test_port_disable : after (.portDisable .f0 15) net (fun n => (portState n 15, regRaw n (aBlw 15 0))) = some (0, 0x910) := by decide +kernel
theorem test_training_retry : after .trainingRetry (portS 15 4 {}) (fun n => (portState n 15, portState n 0)) = some (1, 2) := by decide +kernel
theorem test_flit_crc : after (.flitCrcFailure 7 3) up (fun n => regRaw n (aDnet 3 7 0x18)) = some 1 := by decide +kernel
theorem test_edge_dead : after (.edgeLane 7) (withRegs [(aDnet 3 7 0, 2)] up) (fun n => (fld (regRaw n (aDnet 3 7 0)) 2 0, n.faults.map (fun r => (r.cls, r.code)))) = some (3, [(8, 3)]) := by
  decide +kernel

/-- The CRC of R359 of the nine digits, as the literature gives it. -/
theorem test_crc32c : (crc32c [0x31, 0x32, 0x33, 0x34, 0x35, 0x36, 0x37, 0x38, 0x39]).toNat = 0xE3069283 := by decide +kernel
/-- Four bytes of ones, which leave the remainder zero, and zeros. -/
def flits0 : List Byte := [0xFF, 0xFF, 0xFF, 0xFF] ++ List.replicate 508 0
theorem crc_zeros (n : Nat) (r : List Byte) : crcAcc (List.replicate n 0 ++ r) 0 = crcAcc r 0 := by
  induction n with
  | zero => rfl
  | succ n ih => rw [List.replicate_succ, List.cons_append, crcAcc, show crcBits 8 ((0 : BitVec 32) ^^^ BitVec.zeroExtend 32 (0 : Byte)) = 0 by decide, ih]
theorem crc_flits0 (r : List Byte) : crc32c (flits0 ++ r) = crcAcc r 0 ^^^ 0xFFFFFFFF := by
  rw [crc32c, flits0, List.append_assoc, List.cons_append, List.cons_append, List.cons_append, List.cons_append, List.nil_append, crcAcc, crcAcc, crcAcc, crcAcc,
    show crcBits 8 (crcBits 8 (crcBits 8 (crcBits 8 ((0xFFFFFFFF : BitVec 32) ^^^ BitVec.zeroExtend 32 (0xFF : Byte)) ^^^ BitVec.zeroExtend 32 (0xFF : Byte))
      ^^^ BitVec.zeroExtend 32 (0xFF : Byte)) ^^^ BitVec.zeroExtend 32 (0xFF : Byte)) = 0 by decide +kernel, crc_zeros]
/-- A trailer with its CRC over those flits. -/
def trailer (v : Nat) : BitVec 128 := BitVec.ofNat 128 (v + (crcAcc (toBytes 12 v) 0 ^^^ 0xFFFFFFFF).toNat <<< 96)
theorem witness_LinkTraffic_crc (t : BitVec 128) (b : Bool) (h : (t, b) ∈ [(trailer 0, true), (trailer (8 <<< 32), true), (0#128, false)]) :
    decide ((crc32c (flits0 ++ toBytes 12 (t.toNat % 2 ^ 96))).toNat = fld t.toNat 127 96) = b := by
  rw [crc_flits0]
  simp only [List.mem_cons, Prod.mk.injEq, List.not_mem_nil, or_false] at h
  rcases h with ⟨rfl, rfl⟩ | ⟨rfl, rfl⟩ | ⟨rfl, rfl⟩ <;> decide +kernel
theorem witness_LinkTraffic_block (t : BitVec 128) (b : Bool) (cor : Option Nat) (h : (t, b) ∈ [(trailer 0, true), (trailer (8 <<< 32), true), (0#128, false)])
    (hc : cor = none ∨ cor = some 15) : blockAt net 0 flits0 t cor b := by
  refine ⟨by decide +kernel, by decide +kernel, by decide +kernel, by decide +kernel, ?_, witness_LinkTraffic_crc t b h⟩
  rcases hc with rfl | rfl <;> intro m hm <;> cases hm
  decide
theorem witness_LinkTraffic_rest : (linkOf net 0).rest = [] ∧ bit (trailer (1 <<< 36)).toNat 36 = true ∧ fld (trailer (1 <<< 36)).toNat 35 32 = 0
    ∧ 8 ≤ (ackBlocks (now net) 0 { linkOf net 0 with replays := 8 }).replays ∧ (ackBlocks (now net) 0 (linkOf net 0)).replays < 8 := by decide +kernel
theorem witness_LinkTraffic_fields : (linkOf net 0).nextSeq < 65536 ∧ fld (trailer (8 <<< 32)).toNat 15 0 = (linkOf net 0).expect ∧ 0 < fld (trailer (8 <<< 32)).toNat 35 32
    ∧ bit (trailer (8 <<< 32)).toNat 36 = false ∧ fld (trailer 0).toNat 35 32 = 0 ∧ fld (trailer 5).toNat 15 0 ≠ (linkOf net 0).expect := by decide +kernel
theorem test_block_nak : after (.linkBlock 0 flits0 0 none) net (fun n => ((linkOf n 0).expect, n.sentBlks.map (fun b => bit (ofBytes (b.2.take 518 |>.drop 512)) 36))) = some (0, [true])
    ∧ after (.linkBlock 0 flits0 0 none) net (fun n => regRaw n (aBlw 0 0x110)) = some 1 := by decide +kernel

/-- A packet of device 1, rank 1, for context 3 here. -/
def pkt (h : Hdr) (pay : List Byte) : Packet := mkPacket (withRegs [(aBlw 0 0x8000, 0x10000)] on) { h with ctx := 3, gen := 5, rank := 1, cls := 0 } pay
def netP (p : Nat) (k : Packet) : State := { net with links := [(p, { inbox := [k] })] }
def wPkt : Packet := pkt { opc := 1, vc := 5, dst := 0, tag := 7, addr := 0x1000, op := 3 } [1, 2, 3, 4]
theorem witness_LinkTraffic_send : portState net 8 = 2 ∧ sendable { net with links := [(8, { queue := [wPkt] })] } 8 5 = some wPkt ∧ strictBlocks { net with links := [(8, { queue := [wPkt] })] } 8 5 = false
    ∧ wPkt.pay.length = 64 * pNpay wPkt ∧ pNpay wPkt ≤ 64
    ∧ vcTurn { net with links := [(8, { queue := [wPkt] })] } 8 5 = true ∧ (linkOf net 8).unacked.length + 9 ≤ 512
    ∧ 512 ≤ (linkOf { net with links := [(8, { unacked := List.replicate 512 (0, []) })] } 8).unacked.length := by decide +kernel
/-- Channel 5 has sent a flit of its round and channel 0 waits; the abort channel has a packet to send. -/
theorem witness_LinkTraffic_turn :
    vcTurn { net with links := [(8, { queue := [wPkt, pWith wPkt 10 8 0], shares := [(5, 100)] })] } 8 5 = false
    ∧ strictBlocks { net with links := [(8, { queue := [pWith wPkt 10 8 3] })] } 8 5 = true := by decide +kernel
/-- A packet for device 2 of a ring of four passes through. -/
def ring4 (k : Packet) : State := withRegs [(aBlw 0 0x8000, 0x10000), (aBlw 0 0x8008, 3)] (netP 0 k)
def thruPkt : Packet := mkPacket on { opc := 1, vc := 5, dst := 2, tag := 7, addr := 0x1000, op := 3 } [1, 2, 3, 4]
theorem witness_LinkTraffic_transit : fabricPort (ring4 thruPkt) 0 = true ∧ pDst thruPkt ≠ ownDev (ring4 thruPkt) ∧ pOpc thruPkt ≠ 0x30 ∧ pOpc thruPkt ≠ 0x48
    ∧ (linkOf (ring4 thruPkt) 0).inbox.contains thruPkt = true ∧ mayTake (ring4 thruPkt) 0 thruPkt = true ∧ packetBad thruPkt = false ∧ routePort (ring4 thruPkt) (pSrc thruPkt) (pDst thruPkt) = some 8 := by decide +kernel
theorem test_packet_send : after (.packetSend 8 5) { net with links := [(8, { queue := [wPkt] })] } (fun n => (n.sentPkts.length, (linkOf n 8).unacked.map (·.1), (linkOf n 8).queue.length)) = some (1, [0], 0) := by
  decide +kernel
theorem test_transit : after (.transit 0 thruPkt) (ring4 thruPkt) (fun n => (linkOf n 8).queue.map (fun k => (pHops k, pDst k))) = some [(1, 2)] := by decide +kernel

theorem witness_PacketRequests_1 : pktAt (netP 0 wPkt) 0 1 wPkt ∧ pktChecked (netP 0 wPkt) wPkt ∧ pktReach (netP 0 wPkt) wPkt (pAddr wPkt) (pOp wPkt 267 256 + 1) = true
    ∧ wayTo (netP 0 wPkt) (pSrc wPkt) 8 := by
  refine ⟨?_, ?_, ?_, ?_, Or.inl ?_⟩ <;> (try and_intros) <;> decide +kernel
def rPkt : Packet := pkt { opc := 3, vc := 5, dst := 0, tag := 7, addr := 0x1000, op := 4095 } []
def redPkt : Packet := pkt { opc := 5, vc := 5, dst := 0, tag := 7, addr := 0x1000 } one64
def msgPkt : Packet := pkt { opc := 8, vc := 0, dst := 0, tag := 7, tile := 5, op := 3 + 1 <<< 16 } one64
theorem witness_PacketRequests_2 : pktAt (netP 0 rPkt) 0 3 rPkt ∧ pktAt (netP 0 redPkt) 0 5 redPkt ∧ pktAt (netP 0 msgPkt) 0 8 msgPkt ∧ pAddr redPkt + 64 * pNpay redPkt ≤ hbmTop
    ∧ bit (ctxTiles (netP 0 msgPkt) (pCtx msgPkt)) (pOp msgPkt 278 272) = true := by and_intros <;> decide +kernel
/-- The generation is not the context's; a sender that is no member; a reserved bit set. -/
theorem witness_PacketRequests_3 : pktCurrent (netP 0 (pWith wPkt 63 48 6)) (pWith wPkt 63 48 6) false = false ∧ pktMember (netP 0 (pWith wPkt 43 32 9)) (pWith wPkt 43 32 9) = false
    ∧ packetBad (pWith wPkt 19 19 1) = true ∧ pktReach (netP 0 wPkt) wPkt 0x80000000 4 = false := by decide +kernel
/-- A WRITE to CTX_MB0 of tile 0's message window, of a tile of the context; one that runs from the top of HBM into the scratchpad of tile 0. -/
def regPkt : Packet := pkt { opc := 1, vc := 5, dst := 0, tag := 7, addr := aMbox 0 0, op := 7 } [2, 0, 0, 0, 0, 0, 0, 0]
def topPkt : Packet := pkt { opc := 1, vc := 5, dst := 0, tag := 7, addr := hbmTop - 2, op := 3 } [1, 2, 3, 4]
def topS (k : Packet) : State := withRegs [(aCtx 3 0x20, BitVec.ofNat 64 (hbmTop - 0x200000 + 1)), (aCtx 3 0x28, BitVec.ofNat 64 (hbmTop - 0x200000))] (netP 0 k)
theorem witness_PacketRequests_4 : packetTile (netP 0 regPkt) regPkt (pAddr regPkt) = some 0 ∧ pktAt (netP 0 regPkt) 0 1 regPkt ∧ pktChecked (netP 0 regPkt) regPkt
    ∧ (match writeReg (.steward 0 0) (pAddr regPkt) 8 2 (takeIn 0 regPkt (netP 0 regPkt)) with | .ok _ => true | .error _ => false) = true
    ∧ packetTile (netP 0 wPkt) wPkt (pAddr wPkt) = none := by and_intros <;> decide +kernel
theorem witness_PacketRequests_5 : pktAt (topS topPkt) 0 1 topPkt ∧ pktChecked (topS topPkt) topPkt ∧ pktReach (topS topPkt) topPkt (pAddr topPkt) (pOp topPkt 267 256 + 1) = true
    ∧ pAddr topPkt < hbmTop ∧ hbmTop - pAddr topPkt < pOp topPkt 267 256 + 1 := by and_intros <;> decide +kernel
theorem test_register_packet : after (.write 0 regPkt) (netP 0 regPkt) (fun n => (regRaw n (aMbox 0 0), n.accs.length, (linkOf n 8).queue.map (fun k => (pOpc k, pOp k 259 256)))) = some (2, 0, [(2, 0)]) := by decide +kernel
theorem test_write_packet : after (.write 0 wPkt) (netP 0 wPkt) (fun n => n.accs.map (fun a => (a.ctx, a.addr, a.op))) = some [(3, 0x1000, .write [1, 2, 3, 4])] := by decide +kernel
theorem test_old_generation_answered : after (.write 0 (pWith wPkt 63 48 6)) (netP 0 (pWith wPkt 63 48 6)) (fun n => (n.accs.length, regRaw n (aBlw 0 0x130), (linkOf n 8).queue.map (fun k => (pOpc k, pOp k 259 256, pTag k))))
    = some (0, 1, [(2, 1, 7)]) := by decide +kernel
theorem test_read_packet : after (.read 0 rPkt) (netP 0 rPkt) (fun n => n.accs.map (fun a => a.op)) = some [.read 4096 [] 0 none] := by decide +kernel
theorem test_reduce_packet : after (.reduce 0 redPkt) (netP 0 redPkt) (fun n => n.accs.map (fun a => a.addr)) = some [0x1000] := by decide +kernel
theorem test_msg_packet : after (.msg 0 msgPkt) (netP 0 msgPkt) (fun n => (tileOf n 1).msgs.map (fun m => (m.target, m.srcDev, m.srcTile, m.port))) = some [(3, 1, 5, some 0)] := by decide +kernel
theorem test_malformed_counted : after (.write 0 (pWith wPkt 19 19 1)) (netP 0 (pWith wPkt 19 19 1)) (fun n => (regRaw n (aBlw 0 0x138), n.accs.length)) = some (1, 0) := by decide +kernel

/-- An access of copy stream 0 that module 1 has not answered. -/
def remA (op : AccOp) : Acc := ⟨7, .cpy 0 0 0 0, 3, 5, gAt 1 0x1000, op, .remote⟩
def remS (k : Packet) (op : AccOp) : State := { netP 0 k with accs := [remA op] }
def wackPkt (st : Nat) : Packet := pkt { opc := 2, vc := 5, dst := 0, tag := 7, op := st } []
def rackPkt : Packet := pkt { opc := 6, vc := 5, dst := 0, tag := 7, op := 0 } []
def rdataPkt : Packet := pkt { opc := 4, vc := 5, dst := 0, tag := 7, op := 0 } [9, 8]
theorem witness_PacketAnswers_1 : answered (remS (wackPkt 0) (.write [1])) (wackPkt 0) = some (remA (.write [1])) ∧ pktAt (remS (wackPkt 0) (.write [1])) 0 2 (wackPkt 0) ∧ pVc (wackPkt 0) ≠ 6
    ∧ roleOf net 0 ≠ 8 ∧ current (remS (wackPkt 0) (.write [1])) 3 5 = true ∧ pOp (wackPkt 0) 259 256 = 0 ∧ pOp (wackPkt 3) 259 256 ≠ 0 ∧ answerOk (remS (wackPkt 0) (.write [1])) (wackPkt 0) 0 = true ∧ answerOk (remS (wackPkt 3) (.write [1])) (wackPkt 3) 3 = true
    ∧ answerOk (remS (wackPkt 0) (.write [1])) (pWith (wackPkt 0) 63 48 6) 0 = false ∧ (tileOf net 0).ports.got = [] ∧ (cpyOf net 0).stopped = false
    ∧ current (remS (wackPkt 0) (.write [1])) 3 6 = false ∧ pktAt (remS rackPkt (.reduce (rq false 0 0) one64)) 0 6 rackPkt := by and_intros <;> decide +kernel
theorem witness_PacketAnswers_2 : pktAt (remS rdataPkt (.read 2 [] (spdAddr 0 0x100) none)) 0 4 rdataPkt ∧ 2 ≤ rdataPkt.pay.length ∧ vsWritable (remS rdataPkt (.read 2 [] 0 none)) 0 0x100 2 = true
    ∧ gAt (ownDev net) (spdAddr 0 0x100) = spdAddr 0 0x100 := by and_intros <;> decide +kernel
def mackPkt (st : Nat) : Packet := pkt { opc := 9, vc := 0, dst := 0, tag := 7, tile := 0, op := st } []
def sndS (st : Nat) : State := { netP 0 (mackPkt st) with stewards := [(0, { run := .waiting, waitKind := .msend, send := .pending 65543 })] }
def ccPkt : Packet := pkt { opc := 0x11, vc := 1, dst := 0, op := 1 } []
theorem witness_PacketAnswers_3 : answerOk (sndS 6) (mackPkt 6) 6 = true ∧ pktAt (sndS 6) 0 9 (mackPkt 6) ∧ (stOf (sndS 6) (pTile (mackPkt 6)) (pSt (mackPkt 6))).send = .pending 65543 ∧ 65543 % 65536 = pTag (mackPkt 6)
    ∧ pktAt (netP 0 ccPkt) 0 0x11 ccPkt ∧ pktChecked (netP 0 ccPkt) ccPkt ∧ pOp ccPkt 274 256 = 1
    ∧ ({ netP 0 ccPkt with accs := [{ remA (.write [1]) with stage := .waitCredit }] } : State).accs.find? (fun a => a.stage == .waitCredit && a.ctx == pCtx ccPkt && gDev a.addr == pSrc ccPkt
        && (a.origin == .amax) == (pTag ccPkt == 1))
        = some { remA (.write [1]) with stage := .waitCredit } := by and_intros <;> decide +kernel
def msgX (target : Nat) : Message := { id := 4, target := target, srcDev := 0, srcTile := 1, srcSt := 0, srcRank := 0, len := 2, seq := 0, data := 9 :: 8 :: List.replicate 62 0, port := none, hdr := 0 }
def dlv (target : Nat) (l : Tab Word) : State := { withRegs l net with tiles := [(0, { ({} : Tile) with msgs := [msgX target] })], stewards := [(2, { send := .pending 4 })] }
theorem witness_PacketAnswers_4 : (tileOf (dlv 15 []) 0).msgs.find? (fun y => y.target = 15) = some (msgX 15) ∧ bit (regRaw (dlv 15 [(aMbox 0 15, 0x10002)]) (aMbox 0 15)) 0 = false
    ∧ bit (regRaw (dlv 15 [(aMbox 0 15, 0x10002)]) (aMbox 0 15)) 1 = true ∧ fld (regRaw (dlv 15 [(aMbox 0 15, 0x10002)]) (aMbox 0 15)) 22 16 = 1 ∧ bit (regRaw (dlv 15 [(aMbox 0 15, 3)]) (aMbox 0 15)) 0 = true
    ∧ bit (regRaw (dlv 15 []) (aMbox 0 15)) 1 = false := by decide +kernel
theorem witness_PacketAnswers_5 : (tileOf (dlv 19 []) 0).msgs.find? (fun y => y.target = 16 + 3) = some (msgX 19) ∧ bit (regRaw (dlv 19 [(aMq 0 3 8, 0x102)]) (aMq 0 3 8)) 8 = true
    ∧ bit (regRaw (dlv 19 []) (aMq 0 3 8)) 8 = false ∧ (0 + 2 * 4 - 0) % (2 * 4) < 4 ∧ 4 ≤ (4 + 2 * 4 - 0) % (2 * 4) := by decide +kernel
theorem test_wack : after (.wack 0 (wackPkt 0)) (remS (wackPkt 0) (.write [1])) (fun n => n.accs.length) = some 0 := by decide +kernel
theorem test_wack_error_stops : after (.wack 0 (wackPkt 3)) (remS (wackPkt 3) (.write [1])) (fun n => ((cpyOf n 0).stopped, fld (regRaw n (aTile 0 6 0x10)) 3 0)) = some (true, 4) := by decide +kernel
theorem test_rdata : after (.rdata 0 rdataPkt) (remS rdataPkt (.read 2 [] (spdAddr 0 0x100) none)) (fun n => (spdRead n 0 0x100 2, n.accs.length)) = some ([9, 8], 0) := by decide +kernel
theorem test_rack : after (.rack 0 rackPkt) (remS rackPkt (.reduce (rq false 0 0) one64)) (fun n => n.accs.length) = some 0 := by decide +kernel
theorem test_mack_drop : after (.mack 0 (mackPkt 6)) (sndS 6) (fun n => ((stOf n 0 0).send, n.faults.map (fun r => (r.cls, r.code, r.unit)))) = some (.answered 6, [(1, 6, 1)]) := by decide +kernel
theorem test_ccred : after (.ccred 0 ccPkt) { netP 0 ccPkt with credits := [(creditKey 3 1, 5)] } (fun n => n.credits) = some [(creditKey 3 1, 4)] := by decide +kernel
theorem test_mailbox : after (.mailboxDelivery 0 15) (dlv 15 [(aMbox 0 15, 0x10002)]) (fun n => (regRaw n (aMbox 0 15), regRaw n (aTile 0 9 0x3C0), (stOf n 1 0).send)) = some (0x10003, 0x809, .answered 0) := by
  decide +kernel
theorem test_mailbox_drop : after (.mailboxDelivery 0 15) (dlv 15 []) (fun n => ((tileOf n 0).msgs.length, (stOf n 1 0).send)) = some (0, .answered 6) := by decide +kernel
theorem test_message_queue : after (.messageQueueEntry 0 3) (dlv 19 [(aMq 0 3 0, 0x1000), (aMq 0 3 8, 0x102), (aMq 0 3 0x18, 3)]) (fun n => (spdRead n 0 0x10C0 12, regRaw n (aMq 0 3 0x18)))
    = some ([0, 0x10, 0, 0, 0, 2, 0, 0, 9, 8, 0, 0], 4) := by decide +kernel

/-! ### Jobs (chapters 12, 14, 15) -/

/-- A steward that waits at a waypoint, on both tiles. -/
def wpSt : Steward := { run := .waiting, waitKind := .waypoint, pc := 0x40 }
def jobS (x : Ctx) : State := { torus (inCtx x) with stewards := [(0, wpSt), (2, wpSt)] }
def jobP (x : Ctx) (k : Packet) : State := { jobS x with links := [(0, { inbox := [k] })] }
/-- Alone in its job, all tiles at the waypoint 0 of a kind since tick 10, released at a tick when it is the job's. -/
def atWp (k : WpKind) (rel : Option Nat) : Ctx :=
  { run3 with members := 1, next := .at 0, wps := [{ wpE k with offset := 50 }, wpE .commit], arrived := [0, 1], aLocal := some 10, relTick := rel }
theorem witness_JobWaypoints_release : live (jobS (atWp .loc none)) = true ∧ noBook (jobS (atWp .loc none)) ∧ aborted (jobS (atWp .loc none)) 3 = false
    ∧ releaseTick (jobS (atWp .loc none)) 3 = some (0, 50) ∧ releaseTick (jobS (atWp .commit (some 60))) 3 = some (0, 60) ∧ (ctxOf (jobS (atWp .loc none)) 3).wps[0]? = some { wpE .loc with offset := 50 }
    ∧ tilesOf (jobS (atWp .loc none)) 3 ≠ [] ∧ (stOf (jobS (atWp .loc none)) 0 0).waitKind = .waypoint ∧ (ctxOf (jobS (atWp .loc none)) 3).state = .running :=
  ⟨by decide +kernel, noBook_ok _ rfl, by decide +kernel, by decide +kernel, by decide +kernel, by decide +kernel, by decide +kernel, by decide +kernel, by decide +kernel⟩
theorem test_local_release : after (.waypointRelease 3) (jobS (atWp .loc none)) (fun n => (now n, (ctxOf n 3).next, (stOf n 0 0).run, (stOf n 1 0).pc.toNat)) = some (50, .at 1, .running, 0x44) := by
  decide +kernel
theorem test_commit_release : after (.waypointRelease 3) (jobS (atWp .commit (some 60))) (fun n => (now n, stepOf n 3, (ctxOf n 3).next, (ctxOf n 3).commitRel)) = some (60, 1, .choice, some 60) := by decide +kernel
theorem test_final_release : after (.waypointRelease 3) (jobS (atWp .fin (some 60))) (fun n => (ctxOf n 3).state) = some .done := by decide +kernel

/-- Rank 0 at waypoint 0; rank 1 of 66 with the child rank 65. -/
def root0 : Ctx := { run3 with next := .at 0, wps := [wpE .job, wpE .loc] }
def mid1 (k : WpKind) : Ctx :=
  { root0 with wps := [wpE k], rank := 1, members := 66, aLocal := some 5, arrived := [0, 1], jobMap := [(0, { rank := 1, gen := 5, ctx := 3 }), (1, { rank := 0, gen := 6, ctx := 4 })] }
def arrPkt (r tick : Nat) : Packet := pWith (pkt { opc := 0x20, vc := 2, dst := 0, op := opWp 0 0 tick } []) 83 72 r
def prepPkt (r tick : Nat) : Packet := pWith (pkt { opc := 0x28, vc := 2, dst := 0, op := opPrepare voteYes 0 tick } []) 83 72 r
def relPkt (opc tick : Nat) : Packet := pkt { opc := opc, vc := 2, dst := 0, op := opWp 0 0 tick } []
def decPkt (yes : Bool) (tick : Nat) : Packet := pkt { opc := 0x28, vc := 2, dst := 0, op := opDecide yes 0 tick } []
theorem witness_JobWaypoints_arrive : pktAt (jobP root0 (arrPkt 1 77)) 0 0x20 (arrPkt 1 77) ∧ pktChecked (jobP root0 (arrPkt 1 77)) (arrPkt 1 77) ∧ pRank (arrPkt 1 77) ∈ childRanks 0 2
    ∧ (0 ∈ tilesOf (jobP root0 (arrPkt 1 77)) 3 ∧ ¬ 0 ∈ root0.arrived) ∧ ¬ pRank (arrPkt 2 77) ∈ childRanks 0 2 ∧ pktAt (jobP root0 (prepPkt 1 77)) 0 0x28 (prepPkt 1 77)
    ∧ pOp (prepPkt 1 77) 259 256 = 1 := by and_intros <;> decide +kernel
theorem witness_JobWaypoints_up : pktAt (jobP (mid1 .job) (arrPkt 65 77)) 0 0x20 (arrPkt 65 77) ∧ pktChecked (jobP (mid1 .job) (arrPkt 65 77)) (arrPkt 65 77) ∧ 65 ∈ childRanks 1 66 ∧ (mid1 .job).sent = false
    ∧ childReports (withReport 3 { idx := 0, step := 0, rank := 65, time := 77, vote := none } (jobP (mid1 .job) (arrPkt 65 77))) 3 0 = some (77, voteYes)
    ∧ isJob .commit = true := by and_intros <;> decide +kernel
theorem witness_JobWaypoints_rankAt : rankAt (jobP (mid1 .job) (arrPkt 65 77)) 3 (parentRank 1) 1 8 := ⟨⟨(4, 6), by decide +kernel⟩, by decide +kernel, by decide +kernel, Or.inl (by decide +kernel)⟩
theorem witness_JobWaypoints_tick : pktAt (jobP root0 (relPkt 0x21 90)) 0 0x21 (relPkt 0x21 90) ∧ kStep (relPkt 0x21 90) = stepOf (jobP root0 (relPkt 0x21 90)) 3 % 65536 ∧ now (jobP root0 (relPkt 0x21 90)) ≤ 90
    ∧ kTime (relPkt 0x21 90) < now (withRegs [(aGlob 0x200000, 91)] (jobP root0 (relPkt 0x21 90))) ∧ root0.next ≠ .at 1 ∧ pOp (decPkt true 90) 260 260 = 1 ∧ pktAt (jobP root0 (decPkt false 0)) 0 0x28 (decPkt false 0)
    ∧ pOp (decPkt false 0) 260 260 = 0 ∧ root0.decided ≠ some false := by and_intros <;> decide +kernel
theorem test_arrive_kept : after (.arrive 0 (arrPkt 1 77)) (jobP root0 (arrPkt 1 77)) (fun n => (ctxOf n 3).children.map (fun h => (h.rank, h.time))) = some [(1, 77)] := by decide +kernel
theorem test_arrive_goes_up : after (.arrive 0 (arrPkt 65 77)) (jobP (mid1 .job) (arrPkt 65 77)) (fun n => (linkOf n 8).queue.map (fun k => (pOpc k, pDst k, kTime k, pRank k))) = some [(0x20, 1, 77, 1)] := by
  decide +kernel
theorem test_prepare_goes_up : after (.prepare 0 (prepPkt 65 77)) (jobP (mid1 .commit) (prepPkt 65 77)) (fun n => (linkOf n 8).queue.map (fun k => (pOpc k, pOp k 259 256, pOp k 260 260))) = some [(0x28, 1, 1)] := by
  decide +kernel
theorem test_release : after (.release 0 (relPkt 0x21 90)) (jobP root0 (relPkt 0x21 90)) (fun n => (ctxOf n 3).relTick) = some (some 90) := by decide +kernel
theorem test_release_late : after (.release 0 (relPkt 0x21 90)) (withRegs [(aGlob 0x200000, 91)] (jobP root0 (relPkt 0x21 90))) (fun n => ((ctxOf n 3).relTick, n.faults.map (fun r => (r.cls, r.code))))
    = some (none, [(7, 2)]) := by decide +kernel
theorem test_decide_abort : after (.decide 0 (decPkt false 0)) (jobP root0 (decPkt false 0)) (fun n => ((ctxOf n 3).decided, n.faults.map (fun r => (r.cls, r.code)))) = some (some false, [(7, 1)]) := by decide +kernel

/-- Rank 1 late at a local waypoint: its deadline is tick 150. -/
def late (r : Nat) : Ctx := { mid1 .loc with rank := r, wps := [{ wpE .loc with offset := 50 }], aLocal := none, arrived := [] }
def resPkt (a tres : Nat) : Packet := pkt { opc := 0x23, vc := 2, dst := 0, op := opResume a tres } []
def held0 (cl : Option Nat) : Ctx := { root0 with state := .held, heldAt := some 100, holdCause := some (0, 0), root := some { s := 100, rank := 1, idx := 0, step := 0, clear := cl } }
theorem witness_JobHolds_raise : holdDue (jobS (late 1)) 3 = some (0, 150) ∧ (late 1).raised = none ∧ (late 1).heldAt = none ∧ holdDue (jobS (late 0)) 3 = some (0, 150)
    ∧ aborted (jobS (late 1)) 3 = false := by decide +kernel
theorem witness_JobHolds_rankAt : rankAt (jobS (late 1)) 3 (parentRank 1) 1 8 := ⟨⟨(4, 6), by decide +kernel⟩, by decide +kernel, by decide +kernel, Or.inl (by decide +kernel)⟩
theorem witness_JobHolds_packets : pktAt (jobP (mid1 .job) (pWith (relPkt 0x22 90) 83 72 65)) 0 0x22 (pWith (relPkt 0x22 90) 83 72 65) ∧ pRank (pWith (relPkt 0x22 90) 83 72 65) ≠ parentRank 1
    ∧ pktAt (jobP (mid1 .job) (relPkt 0x24 90)) 0 0x24 (relPkt 0x24 90) ∧ pRank (pWith (relPkt 0x22 90) 83 72 0) = parentRank 1 ∧ pktAt (jobP root0 (relPkt 0x22 90)) 0 0x22 (relPkt 0x22 90)
    ∧ root0.root = none ∧ pktAt (jobP (held0 none) (relPkt 0x24 90)) 0 0x24 (relPkt 0x24 90) ∧ pRank (relPkt 0x24 90) = 1 ∧ pktAt (jobP root0 (resPkt 100 300)) 0 0x23 (resPkt 100 300)
    ∧ pOp (resPkt 100 300) 415 352 = 300 ∧ now (jobP root0 (resPkt 100 300)) ≤ 300 ∧ 300 < now (withRegs [(aGlob 0x200000, 301)] up) := by and_intros <;> decide +kernel
theorem witness_JobHolds_decision : (held0 (some 120)).root = some { s := 100, rank := 1, idx := 0, step := 0, clear := some 120 } ∧ (held0 (some 120)).resumeAt = none
    ∧ 100 + allowance (jobS (held0 (some 120))) 2 / 2 < 2 ^ 64 ∧ ({ held0 none with resumeAt := some (100, 400) } : Ctx).resumeAt = some (100, 400)
    ∧ (held0 none).heldAt = some 100 ∧ 100 + regRaw (jobS (held0 none)) (aGlob 0x100018) < 2 ^ 64 := by decide +kernel
theorem test_hold_raised_up : after (.holdRaise 3) (jobS (late 1)) (fun n => (now n, (ctxOf n 3).raised, (linkOf n 8).queue.map (fun k => (pOpc k, kIdx k, kTime k)))) = some (150, some 0, [(0x22, 0, 150)]) := by
  decide +kernel
theorem test_hold_at_root : after (.holdRaise 3) (jobS (late 0)) (fun n => ((ctxOf n 3).state, (ctxOf n 3).heldAt, (ctxOf n 3).root.map (·.s))) = some (.held, some 150, some 150) := by decide +kernel
theorem test_hold_packet_at_root : after (.hold 0 (relPkt 0x22 90)) (jobP root0 (relPkt 0x22 90)) (fun n => ((ctxOf n 3).state, (ctxOf n 3).root.map (fun r => (r.s, r.rank)))) = some (.held, some (90, 1)) := by
  decide +kernel
theorem test_clear : after (.clear 0 (relPkt 0x24 130)) (jobP (held0 none) (relPkt 0x24 130)) (fun n => (ctxOf n 3).root.map (·.clear)) = some (some (some 130)) := by decide +kernel
/-- P of two members in a torus of diameter 1: 2 × (1 × 400 + 2000) = 4800 (R392). -/
theorem test_hold_decision : after (.holdDecision 3) (jobS (held0 (some 120))) (fun n => (now n, (ctxOf n 3).resumeAt)) = some (2500, some (100, 4920)) := by decide +kernel
theorem test_resume : after (.resume 0 (resPkt 100 300)) (jobP root0 (resPkt 100 300)) (fun n => (ctxOf n 3).resumeAt) = some (some (100, 300)) := by decide +kernel
theorem test_job_resume : after (.jobResume 3) (jobS { held0 none with resumeAt := some (100, 400) }) (fun n => (now n, (ctxOf n 3).state, (ctxOf n 3).holds)) = some (400, .running, [(100, 300)]) := by decide +kernel
theorem test_hold_watchdog : after (.holdWatchdog 3) (jobS (held0 none)) (fun n => (now n, n.faults.map (fun r => (r.cls, r.code)))) = some (1000000100, [(6, 5)]) := by decide +kernel

/-- A flood that names context 3 of device 0, and the same for all contexts of device 9. -/
def abPkt (dev no : Nat) : Packet := mkPacket (withRegs [(aBlw 0 0x8000, 0x10000)] on) { opc := 0x30, vc := 3, dst := 0, op := opAbort 1 0 dev 3 5 false no } []
def tdPkt (sub : Nat) : Packet := pkt { opc := 0x28, vc := 2, dst := 0, tag := 9, op := sub } []
def tdS (l : List Nat) : Ctx := { run3 with state := .teardown, td := .notice l }
theorem witness_JobAborts_flood : fabricPort (jobP run3 (abPkt 0 4)) 0 = true ∧ pOpc (abPkt 0 4) = 0x30 ∧ packetBad (abPkt 0 4) = false ∧ (linkOf (jobP run3 (abPkt 0 4)) 0).inbox.contains (abPkt 0 4) = true
    ∧ mayTake (jobP run3 (abPkt 0 4)) 0 (abPkt 0 4) = true ∧ (jobP (tdS [1]) (tdPkt 9)).ctxQueue = []
    ∧ (jobP run3 (abPkt 0 4)).floods.contains (pOp (abPkt 0 4) 370 359, pOp (abPkt 0 4) 407 392) = false
    ∧ abortMeets (jobP run3 (abPkt 0 4)) (pOp (abPkt 0 4) 370 359) (pOp (abPkt 0 4) 374 371) (pOp (abPkt 0 4) 390 375) (decide (pOp (abPkt 0 4) 391 391 = 1)) 3 = true
    ∧ abortMeets (jobP run3 (abPkt 9 4)) 9 3 5 false 3 = false ∧ ({ jobP run3 (abPkt 0 4) with floods := [(0, 4)] } : State).floods.contains (0, 4) = true ∧ 1 ∈ floodPorts (jobP run3 (abPkt 0 4)) := by
  decide +kernel
theorem witness_JobAborts_notice : pktAt (jobP run3 (tdPkt 8)) 0 0x28 (tdPkt 8) ∧ pOp (tdPkt 8) 259 256 = 8 ∧ pktCurrent (jobP run3 (tdPkt 8)) (tdPkt 8) true = true ∧ pktMember (jobP run3 (tdPkt 8)) (tdPkt 8) = true
    ∧ pktAt (jobP (tdS [1]) (tdPkt 9)) 0 0x28 (tdPkt 9) ∧ tget (tdS [1]).jobMap (pSrc (tdPkt 9)) = some { rank := 1, gen := 6, ctx := 4 } ∧ pOp (tdPkt 9) 271 260 = (tdS [1]).rank ∧ sremove 1 [1] = [] ∧ sremove 1 [1, 2] ≠ []
    ∧ routePort (jobP run3 (tdPkt 8)) 0 (pSrc (tdPkt 8)) = some 8 := by and_intros <;> decide +kernel
theorem test_abort_flood : after (.abort 0 (abPkt 0 4)) (jobP run3 (abPkt 0 4)) (fun n => (aborted n 3, (ctxOf n 3).state, n.faults.map (fun r => (r.cls, r.code)))) = some (true, .held, [(7, 4)]) := by decide +kernel
theorem test_abort_flood_goes_on : after (.abort 0 (abPkt 0 4)) (jobP run3 (abPkt 0 4)) (fun n => (n.floods, (linkOf n 1).queue.length)) = some ([(0, 4)], 1) := by decide +kernel
theorem test_td_notice : after (.tdNotice 0 (tdPkt 8)) (jobP run3 (tdPkt 8)) (fun n => (aborted n 3, (linkOf n 8).queue.map (fun k => (pOpc k, pOp k 259 256, pTag k)))) = some (true, [(0x28, 9, 9)]) := by decide +kernel
theorem test_last_td_ack_frees : after (.tdAck 0 (tdPkt 9)) (jobP (tdS [1]) (tdPkt 9)) (fun n => ((ctxOf n 3).state, (ctxOf n 3).gen)) = some (.free, 6) := by decide +kernel

/-! ### Fair copies between modules, the pool (chapter 14) -/

/-- One exclusive region of 2 MiB; rank 1 is predecessor and partner. -/
def planB : Plan :=
  { replay := 0, resume := 0, every := 0, jobTag := 9, ckptRepl := false, audit := false, succ := 1, pred := 1, partner := 1, uwp := 0
    regions := [{ kind := 4, base0 := 0x4000000, base1 := 0, len := 0x200000 }] }
def bkRegs (s : State) : State :=
  withRegs [(aFbk 0 0, 0x30100), (aFbk 0 0x18, 0x1000001), (aFbk 0 0x20, 0x1200000), (aFbk 0 0x28, 0x2000001), (aFbk 0 0x30, 0x2200000), (aFbk 0 0x38, 0x3000001),
    (aFbk 0 0x40, 0x3200000), (aFbk 0 0x48, 0x8000001), (aFbk 0 0x50, 0x8200000)] s
def bkX (f : Book → Book) (s : State) : State := { bkRegs s with books := [(0, f { state := .running, plan := some planB })] }
def bkP (f : Book → Book) (k : Packet) : State := bkX f (jobP { run3 with tensors := some tk1 } k)
def page1 : List Byte := List.replicate 4096 7
def mirPkt (op : Nat) (pay : List Byte) : Packet := pkt { opc := 0x40, vc := 6, dst := 0, tag := 9, op := op } pay
/-- The same with a block of 4 KiB. -/
def bigPkt (op : Nat) : Packet := { pWith (mirPkt op []) 18 12 64 with pay := page1 }
theorem page1_length : page1.length = 4096 := List.length_replicate ..
theorem has_ok (s : State) (p : Nat) (k : Packet) (h : (linkOf s p).inbox = [k]) : (linkOf s p).inbox.contains k = true := by simp [h]
theorem mayTake_ok (s : State) (p : Nat) (k : Packet) (h : (linkOf s p).inbox = [k]) : mayTake s p k = true := by
  unfold mayTake; rw [h]; simp
theorem big_ok (f : Book → Book) (op : Nat) (h1 : (packetBad (bigPkt op) = false)) (h2 : pOpc (bigPkt op) = 0x40) (h3 : pDst (bigPkt op) = 0) (h4 : fabricPort (bkP f (bigPkt op)) 0 = true)
    (h5 : ownDev (bkP f (bigPkt op)) = 0) : pktAt (bkP f (bigPkt op)) 0 0x40 (bigPkt op) :=
  ⟨rfl, by decide, h4, h2, h1, has_ok _ _ _ rfl, mayTake_ok _ _ _ rfl, by rw [h3, h5]⟩
def ctl28 (op : Nat) : Packet := pkt { opc := 0x28, vc := 2, dst := 0, tag := 9, op := op } []
def digPkt (sub r : Nat) : Packet := pWith (ctl28 (sub + 77 <<< 128)) 83 72 r
def slotPkt : Packet := bigPkt (mirrorOp 0 1 2 40 0 1)
def datPkt : Packet := bigPkt (mirrorOp 1 0 3 41 0 1)
def reqPkt (i : Nat) : Packet := mirPkt (mirrorOp 2 1 i 0 0 1) []
def fdPkt : Packet := bigPkt (mirrorOp 3 0 0 40 0 1)
def wackM (st : Nat) : Packet := pkt { opc := 2, vc := 6, dst := 0, tag := 9, op := st } []
theorem slotPkt_good : packetBad slotPkt = false := by unfold packetBad; rw [show slotPkt.pay.length = 4096 from page1_length]; decide +kernel
theorem datPkt_good : packetBad datPkt = false := by unfold packetBad; rw [show datPkt.pay.length = 4096 from page1_length]; decide +kernel
theorem fdPkt_good : packetBad fdPkt = false := by unfold packetBad; rw [show fdPkt.pay.length = 4096 from page1_length]; decide +kernel
theorem witness_FairCopyPackets_digest : pktAt (bkP id (digPkt 3 1)) 0 0x28 (digPkt 3 1) ∧ pktChecked (bkP id (digPkt 3 1)) (digPkt 3 1) ∧ runningBook (bkP id (digPkt 3 1)) (pCtx (digPkt 3 1)) = some 0
    ∧ pOp (digPkt 3 1) 259 256 = 3 ∧ pRank (digPkt 3 1) = planB.pred ∧ pOp (digPkt 4 1) 259 256 = 4 ∧ pRank (digPkt 4 0) ≠ planB.partner
    ∧ pktAt (bkP id (digPkt 4 0)) 0 0x28 (digPkt 4 0) ∧ wayTo (bkP id slotPkt) (pSrc slotPkt) 8 := by and_intros <;> decide +kernel
theorem witness_FairCopyPackets_slot : mirrorAt (bkP id slotPkt) 0 0 slotPkt 0 planB :=
  ⟨big_ok _ _ slotPkt_good (by decide +kernel) (by decide +kernel) (by decide +kernel) (by decide +kernel), ⟨by decide +kernel, by decide +kernel⟩, by decide +kernel, by decide +kernel⟩
theorem witness_FairCopyPackets_data : mirrorAt (bkP id datPkt) 0 1 datPkt 0 planB :=
  ⟨big_ok _ _ datPkt_good (by decide +kernel) (by decide +kernel) (by decide +kernel) (by decide +kernel), ⟨by decide +kernel, by decide +kernel⟩, by decide +kernel, by decide +kernel⟩
theorem witness_FairCopyPackets_fits : bookRange (bkP id slotPkt) 0 3 = some (0x8000000, 0x8400000) ∧ pNpay slotPkt = 64 ∧
    entryAt (bkP id datPkt) 0 1 planB (mStep datPkt) = 0x2000000 + entrySize 1 planB ∧ 4096 * (mIndex datPkt + 1) ≤ entrySize 1 planB
    ∧ mirrorBook (jobP run3 slotPkt) slotPkt = none ∧ mirrorAt (bkP id (reqPkt (2 ^ 31 + 1))) 0 2 (reqPkt (2 ^ 31 + 1)) 0 planB ∧ bit (mIndex (reqPkt (2 ^ 31 + 1))) 31 = true := by
  and_intros <;> decide +kernel
theorem witness_FairCopyPackets_quiet : mirrorQuiet (bkP id slotPkt) (pCtx slotPkt) 0 planB := by
  refine ⟨Or.inl (by decide +kernel), ?_⟩
  have h : (ctxOf (bkP id slotPkt) (pCtx slotPkt)).next = .none := by decide +kernel
  intro i e hi; rw [h] at hi; cases hi
theorem witness_FairCopyPackets_fetched : pktAt (bkP (fun x => { x with flight := [(9, .fetch 5)] }) fdPkt) 0 0x40 fdPkt :=
  big_ok _ _ fdPkt_good (by decide +kernel) (by decide +kernel) (by decide +kernel) (by decide +kernel)
theorem witness_FairCopyPackets_fetch : mSub fdPkt = 3 ∧ pNpay fdPkt = 64
    ∧ flightOf (bkP (fun x => { x with flight := [(9, .fetch 5)] }) fdPkt) (pTag fdPkt) = some (0, .fetch 5)
    ∧ pktAt (bkP (fun x => { x with flight := [(9, .slot 1 5)] }) (wackM 2)) 0 2 (wackM 2) ∧ pVc (wackM 2) = 6
    ∧ flightOf (bkP (fun x => { x with flight := [(9, .slot 1 5)] }) (wackM 2)) (pTag (wackM 2)) = some (0, .slot 1 5) := by and_intros <;> decide +kernel
/-- The entry of step 0 is not present; block 2 of slot 1 is held as of step 40. -/
theorem witness_FairCopyPackets_asked : mirrorAt (bkP id (reqPkt (2 ^ 31))) 0 2 (reqPkt (2 ^ 31)) 0 planB ∧ mIndex (reqPkt (2 ^ 31)) = 2 ^ 31
    ∧ entryPresent (bkP id (reqPkt (2 ^ 31))) 0 1 (mSlot (reqPkt (2 ^ 31))) = false ∧ mirrorAt (bkP (fun x => { x with held1 := [(2, 40)] }) (reqPkt 2)) 0 2 (reqPkt 2) 0 planB
    ∧ bit (mIndex (reqPkt 2)) 31 = false ∧ mSlot (reqPkt 2) = 1 ∧ tget (bookOf (bkP (fun x => { x with held1 := [(2, 40)] }) (reqPkt 2)) 0).held1 (mIndex (reqPkt 2)) = some 40
    ∧ (answerOk (bkP id fdPkt) fdPkt 0 || haltedCmd (bkP id fdPkt) (pTag fdPkt)) = true ∧ (answerOk (bkP id (wackM 2)) (wackM 2) 2 || haltedCmd (bkP id (wackM 2)) (pTag (wackM 2))) = true := by
  and_intros <;> decide +kernel
theorem test_digest : after (.digest 0 (digPkt 3 1)) (bkP id (digPkt 3 1)) (fun n => (bookOf n 0).predDig.map (fun d => (d.1, d.2.toNat))) = some (some (0, 77)) := by decide +kernel
theorem test_audit : after (.audit 0 (digPkt 4 1)) (bkP id (digPkt 4 1)) (fun n => ((bookOf n 0).peerAud.map (fun d => d.2.toNat), (bookOf n 0).predDig.isNone)) = some (some 77, true) := by decide +kernel
theorem test_refused_copy_unprotects : after (.wack 0 (wackM 2)) (bkP (fun x => { x with flight := [(9, .slot 1 5)] }) (wackM 2)) (fun n => (bookOf n 0).unprot) = some true := by decide +kernel

/-- The pool's port is port 7. -/
def poP (l : List PoolPage) (k : Packet) : State := { jobS run3 with links := [(7, { inbox := [k] })], pool := l }
def poPkt (sub page : Nat) (pay : List Byte) : Packet := mirPkt (mirrorOp sub 0 page 40 9 1) pay
def rec0 (n : Nat) : List Byte := List.replicate 64 0 ++ (BitVec.ofNat 8 n) :: List.replicate 63 0
def pg (page : Nat) (d : List Byte) : PoolPage := { job := 9, rank := 1, step := 40, page := page, data := d }
theorem witness_PoolRecords_module : poolAt (poP [] (poPkt 4 0 (rec0 1))) 7 4 (poPkt 4 0 (rec0 1)) ∧ poolAt (poP [pg 0 (rec0 0)] (poPkt 5 0 [])) 7 5 (poPkt 5 0 [])
    ∧ recordComplete (poP [pg 0 (rec0 0)] (poPkt 5 0 [])) (poPkt 5 0 []) = true ∧ recordComplete (poP [pg 0 (rec0 1)] (poPkt 5 0 [])) (poPkt 5 0 []) = false
    ∧ [pg 0 (rec0 0)].find? (samePage (poPkt 5 0 [])) = some (pg 0 (rec0 0)) ∧ (rec0 0).length ≤ 4096 ∧ poolAt (poP [] (poPkt 7 0 [])) 7 7 (poPkt 7 0 [])
    ∧ [pg 0 (rec0 0)].find? (samePage (poPkt 5 1 [])) = none := by and_intros <;> decide +kernel
def cmdR : BookCmd := { op := 6, arg := 40, back := .bound, slotOf := none, labels := [], result := 0 }
def restS (page : Nat) (k : Packet) : State := bkX (fun x => { x with state := .busy, cmd := some cmdR, flight := [(9, .restore page)] }) (poP [] k)
def head2 : List Byte := toBytes 128 (2 <<< 576)
theorem witness_PoolRecords_restore : poolAt (restS 1 (poPkt 6 1 one64)) 7 6 (poPkt 6 1 one64) ∧ flightOf (restS 1 (poPkt 6 1 one64)) (pTag (poPkt 6 1 one64)) = some (0, .restore 1) ∧ 1 ≤ exBlocks planB
    ∧ fld (ofBytes (head2.take 96)) 591 576 = run3.members ∧ fld (ofBytes (head2.take 96)) 607 592 = run3.mbInFlight
    ∧ fld (ofBytes (head2.take 96)) 767 640 ≠ ctxTiles (restS 0 (poPkt 6 0 head2)) 3 ∧ fld (ofBytes ((toBytes 128 (2 <<< 576 + 3 <<< 640)).take 96)) 767 640 = ctxTiles (restS 0 (poPkt 6 0 head2)) 3 := by
  and_intros <;> decide +kernel
theorem test_pool_write : after (.poolWrite 7 (poPkt 4 0 (rec0 1))) (poP [] (poPkt 4 0 (rec0 1))) (fun n => (n.pool.map (fun g => (g.job, g.rank, g.step, g.page)), (linkOf n 7).queue.map pOpc)) = some ([(9, 1, 40, 0)], [2]) := by
  decide +kernel
theorem test_pool_record_complete : after (.poolWrite 7 (poPkt 4 1 one64)) (poP [pg 0 (rec0 1)] (poPkt 4 1 one64)) (fun n => (linkOf n 7).queue.map (fun k => (pOpc k, mSub k))) = some [(2, 0), (0x40, 7)] := by
  decide +kernel
theorem test_pool_read : after (.poolRead 7 (poPkt 5 0 [])) (poP [pg 0 (rec0 0)] (poPkt 5 0 [])) (fun n => (linkOf n 7).queue.map (fun k => (mSub k, mStep k, k.pay.length))) = some [(6, 40, 128)] := by decide +kernel
theorem test_pool_data_other_machine : after (.poolData 7 (poPkt 6 0 head2)) (restS 0 (poPkt 6 0 head2)) (fun n => (bookOf n 0).cmd.map (·.result)) = some (some 7) := by decide +kernel
theorem test_pool_done : after (.poolDone 7 (poPkt 7 0 [])) (bkX (fun x => { x with ckpt := [40, 41] }) { poP [] (poPkt 7 0 []) with ctxs := [(3, { run3 with rank := 1 })] }) (fun n => (bookOf n 0).ckpt) = some [41] := by decide +kernel

/-! ### Meridian time and the management channel (chapters 13, 17) -/

/-- The Meridian unit with parent port 8, in a torus of two devices; no context is active unless named. -/
def merS (status : Nat) (l : List (Nat × Packet)) (f : State → State) : State :=
  f { withRegs [(aMer 0x8, BitVec.ofNat 64 (status + 8 <<< 12))] (torus up) with links := l.map (fun e => (e.1, { inbox := [e.2] })) }
def msPkt (opc op : Nat) : Packet := mkPacket (withRegs [(aBlw 0 0x8000, 0x10000)] on) { opc := opc, vc := 4, dst := 0, op := op } []
/-- MSYNC left at 16000; the parent read 16400 and 16500; the answer comes at 16100: the offset is 400. -/
def mrPkt (d : Nat) : Packet := msPkt 0x39 (16000 + (16000 + d) <<< 64 + (16100 + d) <<< 128)
def mgPkt (kind svc root : Nat) : Packet := mkPacket (withRegs [(aBlw 0 0x8000, 0x10000)] on) { opc := 0x48, vc := 7, dst := 0, op := svc + kind <<< 8 + root <<< 16 } []
def merT (d g : Nat) (st : Nat) : State := merS st [(8, mrPkt d)] (fun s => withRegs [(aMer 0x20, 0x4000)] { s with mer := { good := g, t1 := some 16000 } })
theorem witness_MeridianTime_exchange : live (merS 0 [] id) = true ∧ (8 : Nat) = parentPort (merS 0 [] id) ∧ merRoot (merS 0 [] id) = false ∧ portState (merS 0 [] id) 8 = 2 ∧ merRoot (merS 2 [] id) = true
    ∧ fabricPort (merS 0 [(1, msPkt 0x38 16000)] id) 1 = true ∧ packetBad (msPkt 0x38 16000) = false ∧ (linkOf (merS 0 [(1, msPkt 0x38 16000)] id) 1).inbox.contains (msPkt 0x38 16000) = true
    ∧ mayTake (merS 0 [(1, msPkt 0x38 16000)] id) 1 (msPkt 0x38 16000) = true ∧ pDst (msPkt 0x38 16000) = ownDev (merS 0 [(1, msPkt 0x38 16000)] id)
    ∧ 16 * now (merT 400 7 0) ≤ 16100 ∧ pOpc (msPkt 0x38 16000) = 0x38 := by and_intros <;> decide +kernel
theorem witness_MeridianTime_answer : pktAt (merT 400 7 0) 8 0x39 (mrPkt 400) ∧ parentPort (merT 400 7 0) = 8 ∧ pOp (mrPkt 400) 319 256 = 16000 ∧ (merT 400 7 0).mer.t1 = some 16000
    ∧ exchangeOffset 16000 16400 16500 16100 = 400 ∧ 400 ≤ fld (regRaw (merT 400 7 0) (aMer 0x20)) 15 8 * 16 ∧ (merT 400 7 0).mer.good = 7 := by and_intros <;> decide +kernel
theorem witness_MeridianTime_far : pktAt (merT 16001 0 1) 8 0x39 (mrPkt 16001) ∧ exchangeOffset 16000 32001 32101 16100 = 16001 ∧ merLocked (merT 16001 0 1) = true ∧ merLocked (merT 16001 0 0) = false
    ∧ anyActive (merT 16001 0 0) = false ∧ exchangeOffset 16000 15000 15100 16100 = -1000 ∧ anyActive (inCtx run3) = true := by and_intros <;> decide +kernel
theorem witness_MeridianTime_claims : coreRuns (merS 0 [(8, mgPkt 1 1 1)] id) 1 = true ∧ leastLearned (merS 0 [] id) < 4096 ∧ mgmtAt (merS 0 [(8, mgPkt 1 1 1)] id) 8 1 (mgPkt 1 1 1) ∧ (8 : Nat) ∈ floodPorts (merS 0 [] id)
    ∧ mgmtAt (merS 0 [(8, mgPkt 2 1 0)] id) 8 2 (mgPkt 2 1 0) ∧ pOp (mgPkt 1 1 1) 287 272 = 1 ∧ 2 ∉ floodPorts (withRegs [(aBlw 2 4, 0)] (merS 0 [] id)) := by and_intros <;> decide +kernel
theorem test_meridian_exchange : after (.meridianExchange 777) (merS 0 [] id) (fun n => (n.mer.t1, (linkOf n 8).queue.map (fun k => (pOpc k, pVc k, pOp k 319 256, pDst k)))) = some (some 777, [(0x38, 4, 777, 0)]) := by decide +kernel
theorem test_msync : after (.msync 1 (msPkt 0x38 16000) 5 6) (merS 0 [(1, msPkt 0x38 16000)] id) (fun n => (linkOf n 1).queue.map (fun k => (pOpc k, pDst k, pOp k 319 256, pOp k 383 320, pOp k 447 384))) = some [(0x39, 1, 16000, 5, 6)] := by
  decide +kernel
/-- Delay ((16100 − 16000) − (16500 − 16400)) / 2 = 0, offset 400. -/
theorem test_mresp_locks : after (.mresp 8 (mrPkt 400) 16100) (merT 400 7 0) (fun n => (regRaw n (aMer 0x10), merLocked n, n.mer.good)) = some (400, true, 8) := by decide +kernel
/-- At 16100 / 16 = 1006 ticks the module is 16001 / 16 ns behind. -/
theorem test_mresp_loses_lock : after (.mresp 8 (mrPkt 16001) 16100) (merT 16001 0 1) (fun n => (merLocked n, now n, n.faults.map (fun r => (r.cls, r.code)))) = some (false, 2006, [(7, 3)]) := by decide +kernel
theorem test_counter_resume : after .counterResume { up with mer := { stopTo := some 9 } } (fun n => n.mer.stopTo) = some none := by decide +kernel
theorem test_parent_timeout : after .parentTimeout (merS 1 [] id) (fun n => (bit (regRaw n (aMer 8)) 2, merLocked n, n.faults.map (fun r => (r.cls, r.code)))) = some (true, false, [(7, 3)]) := by decide +kernel
theorem test_root_claim_send : after .rootClaimSend (merS 0 [] id) (fun n => (merRoot n, (linkOf n 8).queue.map (fun k => (pOpc k, pOp k 271 264, pOp k 287 272)))) = some (true, [(0x48, 1, 0)]) := by decide +kernel
theorem test_root_claim : after (.rootClaim 8 (mgPkt 1 1 1)) (merS 2 [(8, mgPkt 1 1 1)] id) (fun n => (n.mer.least, merRoot n)) = some ([(1, 0)], true) := by decide +kernel
theorem test_fw_data : after (.fwData 8 (mgPkt 2 1 0)) (merS 0 [(8, mgPkt 2 1 0)] id) (fun n => n.compass.mgmtIn.map (·.1)) = some [1] := by decide +kernel

/-! ### Contexts (chapter 2) -/

/-- Context 3, of function 2, in a state. -/
def cxS (st : CtxState) (f : Ctx → Ctx) : State := torus (inCtx (f { run3 with state := st }))
/-- Function 2 ENABLED, the entry e at the front of its submission queue 0, its completion queue 1 empty. -/
def sub0 : Queue := { kind := .submission, log2 := 2, cq := 1, addr := 0x20000, pi := 1 }
def com1 : Queue := { kind := .completion, log2 := 2, addr := 0x10000 }
def subS (e : Nat) (s : State) : State :=
  { withRegs [(aFn 2 4, 1)] s with queues := [(0x2000, sub0), (0x2001, com1)], hbm := memWrite s.hbm 0x20000 (toBytes 64 e) }
def cmdE (cmd : Nat) : Nat := 0x12 + 7 <<< 16 + 3 <<< 64 + cmd <<< 80
theorem reg_cmd (s : State) (cmd : Nat) (h : (live s && mayB .f0 (aCtx 3 4) 4 s) = true) : cmdFrom s (.reg .f0) 3 cmd := by
  simp only [Bool.and_eq_true] at h; exact ⟨h.1, by decide, mayB_ok _ _ _ _ h.2⟩
theorem queue_cmd (s : State) (cmd : Nat) (h1 : live s = true ∧ ownsCtx s 2 3 = true) (h2 : (match adminTake 2 0 s with | .ok e => decide (fld e 7 0 = 0x12 ∧ fld e 83 80 = cmd ∧ fld e 67 64 = 3) | .error _ => false) = true) :
    cmdFrom s (.queue 2 0) 3 cmd := by
  refine ⟨h1.1, by decide, by decide, by decide, Or.inr h1.2, ?_⟩
  cases h : adminTake 2 0 s with
  | ok e => exact ⟨e, rfl, by simpa [h] using h2⟩
  | error x => simp [h] at h2

/-! The job map of two members at 0x50000. -/
theorem memRead_take (m : Tab Byte) (a n k : Nat) : (memRead m a n).take k = memRead m a (min k n) := by
  induction n generalizing a k with
  | zero => simp [memRead]
  | succ n ih => cases k with
    | zero => simp [memRead]
    | succ k => rw [Nat.succ_min_succ]; simp [memRead, ih]
theorem memRead_drop (m : Tab Byte) (a n k : Nat) : (memRead m a n).drop k = memRead m (a + k) (n - k) := by
  induction n generalizing a k with
  | zero => simp [memRead]
  | succ n ih => cases k with
    | zero => simp [memRead]
    | succ k => simp only [memRead, List.drop_succ_cons, ih, Nat.add_sub_add_right]; rw [show a + 1 + k = a + (k + 1) by omega]
theorem tget_above (m : Tab Byte) (k : Nat) (h : ∀ p ∈ m, p.1 < k) : tget m k = none := by
  induction m with
  | nil => rfl
  | cons p r ih =>
    have h1 : p.1 ≠ k := Nat.ne_of_lt (h p (by simp))
    obtain ⟨i, v⟩ := p
    simp only [tget]; rw [if_neg h1]; exact ih (fun q hq => h q (by simp [hq]))
theorem memRead_above (m : Tab Byte) (a n : Nat) (h : ∀ p ∈ m, p.1 < a) : memRead m a n = List.replicate n 0#8 := by
  induction n generalizing a with
  | zero => rfl
  | succ n ih =>
    have h0 : memByte m a = 0#8 := by simp [memByte, tgetD, tget_above m a h, unwritten]
    simp only [memRead, h0, List.replicate_succ]
    rw [ih (a + 1) (fun p hp => Nat.lt_succ_of_lt (h p hp))]
def jmRow (d : List Byte) (i : Nat) : Option (Nat × JobEntry) :=
  if bit (ofBytes d) 0 then some (i, { rank := fld (ofBytes d) 35 24, gen := BitVec.ofNat 16 (fld (ofBytes d) 23 8), ctx := fld (ofBytes d) 7 4 }) else none
theorem jobMembers_low (m : Tab Byte) (a : Nat) (h : ∀ p ∈ m, p.1 < a + 16) : jobMembers (memRead m a 32768) = (List.range 2).filterMap (fun i => jmRow (memRead m (a + 8 * i) 8) i) := by
  have hrow : jobMembers (memRead m a 32768) = (List.range 4096).filterMap (fun i => jmRow (memRead m (a + 8 * i) (min 8 (32768 - 8 * i))) i) := by
    unfold jobMembers
    congr 1
    funext i
    simp only [memRead_drop, memRead_take]
    rfl
  rw [hrow, show (4096 : Nat) = 2 + 4094 from rfl, List.range_add, List.filterMap_append]
  have hz : ((List.range 4094).map (2 + ·)).filterMap (fun i => jmRow (memRead m (a + 8 * i) (min 8 (32768 - 8 * i))) i) = [] := by
    rw [List.filterMap_eq_nil_iff]
    intro i hi
    obtain ⟨j, hj, rfl⟩ := List.mem_map.1 hi
    have hj := List.mem_range.1 hj
    rw [show min 8 (32768 - 8 * (2 + j)) = 8 by omega, memRead_above m _ 8 (fun p hp => Nat.lt_of_lt_of_le (h p hp) (by omega))]
    rfl
  rw [hz, List.append_nil]
  apply List.filterMap_congr
  intro i hi
  have hi := List.mem_range.1 hi
  rw [show min 8 (32768 - 8 * i) = 8 by omega]

/-- An image of context 3 at 0x40000 (header, two section entries; waypoints STEP_BEGIN, COMMIT and FINAL; four bytes of code for steward 0 of tile 0), and the job map. -/
def ldHbm : Tab Byte :=
  [(0x40000, 75), (0x40001, 76), (0x40002, 77), (0x40003, 78), (0x40004, 4), (0x40010, 3), (0x40020, 2), (0x40028, 3), (0x4002C, 2), (0x4002E, 1), (0x40030, 164), (0x40031, 1),
    (0x40038, 1), (0x40039, 226), (0x4003A, 85), (0x4003B, 90)]
    ++ [(0x40100, 9), (0x40104, 64), (0x40105, 1), (0x4010C, 96), (0x40120, 1), (0x40124, 160), (0x40125, 1), (0x4012C, 4), (0x40135, 16), (0x40138, 240)]
    ++ [(0x40140, 2), (0x40160, 3), (0x40180, 6), (0x401A0, 19)]
    ++ [(0x50000, 49), (0x50001, 5), (0x50008, 65), (0x50009, 6), (0x5000B, 1)]
def ldS (st : CtxState) : State := { withRegs [(aCtx 3 0x60, 0x50000), (aCtx 3 0x68, 0x40000)] (cxS st id) with hbm := ldHbm }
theorem ldS_read (st : CtxState) (code a n : Nat) (h : memAvailable (ldS st) a n = true) (hq : anyPin (ldS st) = false) : loadRead (ldS st) code a n = .ok (memRead ldHbm a n) := by
  have hp : memPoisoned (ldS st) a n = none := by
    unfold memPoisoned
    rw [List.find?_eq_none]
    intro l _
    unfold linePoisoned
    split
    · show ¬ ([].contains l) = true
      simp
    · show ¬ ([].contains l) = true
      simp
  have hh : hbmRead (ldS st) a n = memRead ldHbm a n := by
    unfold hbmRead
    rw [hq]
    rfl
  unfold loadRead
  rw [h, hp, hh]
  rfl
theorem ldS_members : jobMembers (memRead ldHbm 0x50000 32768) = run3.jobMap := by
  rw [jobMembers_low _ _ (by decide +kernel)]; decide +kernel
theorem map_ok (s : State) (c n a : Nat) (d : List Byte) (m : Tab JobEntry) (e : JobEntry) (ha : regRaw s (aCtx c 0x60) = a)
    (hp : need 8 (decide (a % 64 = 0 ∧ a + 32768 ≤ hbmTop) && inPartition s c a 32768) = .ok ()) (hl : loadRead s 8 a 32768 = .ok d) (hm : jobMembers d = m)
    (h1 : need 8 (m.length == n) = .ok ()) (h2 : need 8 ((List.range n).all (fun r => (m.filter (fun e => e.2.rank = r)).length == 1)) = .ok ())
    (h3 : tget m (ownDev s) = some e) (h4 : need 8 (e.ctx == c && e.gen == (ctxOf s c).gen) = .ok ()) : readJobMap s c n = .ok (m, e.rank) := by
  subst ha
  subst hm
  unfold readJobMap
  simp only [hp, hl, h1, h2, h3, h4, bind, Except.bind, pure, Except.pure]
theorem ldS_map (st : CtxState) (ha : regRaw (ldS st) (aCtx 3 0x60) = 0x50000) (h : memAvailable (ldS st) 0x50000 32768 = true) (hq : anyPin (ldS st) = false)
    (hp : need 8 (decide (0x50000 % 64 = 0 ∧ 0x50000 + 32768 ≤ hbmTop) && inPartition (ldS st) 3 0x50000 32768) = .ok ())
    (h3 : tget run3.jobMap (ownDev (ldS st)) = some { rank := 0, gen := 5, ctx := 3 }) (hg : (ctxOf (ldS st) 3).gen = 5) : readJobMap (ldS st) 3 2 = .ok (run3.jobMap, 0) :=
  map_ok _ _ _ _ _ _ _ ha hp (ldS_read st 8 0x50000 32768 h hq) ldS_members rfl rfl h3 (by rw [hg]; rfl)
theorem witness_ContextCommands_map : readJobMap (ldS .held) 3 2 = .ok (run3.jobMap, 0) := ldS_map .held (by decide +kernel) (by decide +kernel) (by decide +kernel) rfl (by decide +kernel) (by decide +kernel)
/-- A value with its number worked out before f sees it. -/
def force32 {α : Type} (c : BitVec 32) (f : BitVec 32 → α) : α :=
  match c.toNat with
  | 0 => f (BitVec.ofNat 32 0)
  | k + 1 => f (BitVec.ofNat 32 (k + 1))
theorem force32_eq {α : Type} (c : BitVec 32) (f : BitVec 32 → α) : force32 c f = f c := by
  unfold force32
  split
  · rename_i h; rw [← h]; simp
  · rename_i h; rw [show ∀ k, k + 1 = Nat.succ k from fun _ => rfl, ← h]; simp
def bitsF : Nat → BitVec 32 → BitVec 32
  | 0, c => c
  | n + 1, c => force32 (crcBits 1 c) (bitsF n)
def accF : List Byte → BitVec 32 → BitVec 32
  | [], c => c
  | b :: r, c => force32 (bitsF 8 (c ^^^ b.zeroExtend 32)) (accF r)
theorem bitsF_eq (n : Nat) (c : BitVec 32) : bitsF n c = crcBits n c := by
  induction n generalizing c with
  | zero => rfl
  | succ n ih => unfold bitsF; rw [force32_eq, ih]; rfl
theorem accF_eq (l : List Byte) (c : BitVec 32) : accF l c = crcAcc l c := by
  induction l generalizing c with
  | nil => rfl
  | cons b r ih => unfold accF; rw [force32_eq, bitsF_eq, ih]; rfl
/-- The CRC-32C of the image with its own field at zero. -/
theorem img_crc : crc32c ((memRead ldHbm 0x40000 420).take 56 ++ List.replicate 4 0#8 ++ (memRead ldHbm 0x40000 420).drop 60) = 1515577857 := by
  unfold crc32c
  rw [← accF_eq]
  decide +kernel
/-- What is left of LOAD's checks once the bytes and the job map are read. -/
theorem load_ok (s : State) (c a b n : Nat) (hd img : List Byte) (m : Tab JobEntry) (r : Nat) (x : Section) (wps : List WpEntry) (l : Loaded)
    (ha : regRaw s (aCtx c 0x68) = a) (h0 : need 5 (decide (a % 64 = 0 ∧ a + 256 ≤ hbmTop) && inPartition s c a 256) = .ok ()) (h1 : loadRead s 5 a 256 = .ok hd)
    (hb : fld (ofBytes hd) 447 384 = b) (hn : fld (ofBytes hd) 287 256 = n)
    (h2 : need 5 (decide (a + b ≤ hbmTop) && inPartition s c a (max 1 b)) = .ok ())
    (h3 : ∃ y, y = need 5 (fld (ofBytes hd) 31 0 == 0x4E4D4C4B && fld (ofBytes hd) 47 32 == 4 && headerReserved (ofBytes hd)
      && decide (1 ≤ fld (ofBytes hd) 375 368 ∧ fld (ofBytes hd) 375 368 ≤ 4 ∧ 1 ≤ fld (ofBytes hd) 367 352 ∧ fld (ofBytes hd) 367 352 ≤ 4096 ∧ 1 ≤ fld (ofBytes hd) 351 320
        ∧ fld (ofBytes hd) 351 320 ≤ 65536 ∧ 1 ≤ n ∧ 256 + 32 * n ≤ b)) ∧ y = .ok ())
    (h4 : loadRead s 5 a b = .ok img) (h5 : need 5 ((crc32c (img.take 56 ++ List.replicate 4 0#8 ++ img.drop 60)).toNat == fld (ofBytes hd) 479 448) = .ok ())
    (h6 : need 6 (fld (ofBytes hd) 255 128 == ctxTiles s c) = .ok ()) (h7 : need 5 (((List.range n).map (sectionAt img)).all (fun x => decide (x.off + x.len ≤ b))) = .ok ())
    (h8 : need 5 (((List.range n).map (sectionAt img)).all (sectionPlaced s c)) = .ok ()) (h9 : need 5 (noPair sectionsMeet ((List.range n).map (sectionAt img))) = .ok ())
    (h10 : ((List.range n).map (sectionAt img)).filter (fun x => x.type = 10) = []) (h11 : ((List.range n).map (sectionAt img)).filter (fun x => x.type = 9) = [x])
    (h12 : need 5 (x.len == 32 * fld (ofBytes hd) 351 320) = .ok ()) (h13 : wpTable (fld (ofBytes hd) 351 320) (sectionBytes img x) = some wps) (h14 : need 5 (wpsOk wps) = .ok ())
    (h15 : readJobMap s c (fld (ofBytes hd) 367 352) = .ok (m, r))
    (h16 : (((List.range n).map (sectionAt img)).filter (fun x => decide (x.type = 8 ∨ x.type = 10))).find? (fun x => !memAvailable s x.addr x.len) = none)
    (hl : l = { img := img, sections := (List.range n).map (sectionAt img), members := fld (ofBytes hd) 367 352, mb := fld (ofBytes hd) 375 368, wps := wps, tensors := none, jobMap := m, rank := r }) :
    loadChecks s c = .ok l := by
  subst ha hb hn hl
  obtain ⟨y, h3, hy⟩ := h3
  subst h3
  have e1 : need 5 (decide (([] : List Section).length ≤ 1)) = .ok () := rfl
  have e2 : need 5 (((([] : List Section).head?.map (fun x => tensorTable s c x.addr (sectionBytes img x)))) != some none) = .ok () := rfl
  unfold loadChecks
  simp only [h0, h1, h2, hy, h4, h5, h6, h7, h8, h9, h10, h11, h12, h13, h14, h15, h16, e1, e2, bind, Except.bind, pure, Except.pure]
  rfl
def im0 : List Byte := memRead ldHbm 0x40000 420
theorem witness_ContextLife_load : (∃ l, loadChecks (ldS .loading) 3 = .ok l) ∧ (ctxOf (ldS .loading) 3).state = .loading ∧ (ldS .loading).ctxQueue = [] := by
  have h1 := ldS_read .loading 5 0x40000 256 (by decide +kernel) (by decide +kernel)
  have h2 := ldS_read .loading 5 0x40000 420 (by decide +kernel) (by decide +kernel)
  have hm : fld (ofBytes (memRead ldHbm 0x40000 256)) 367 352 = 2 := by decide +kernel
  have hw : fld (ofBytes (memRead ldHbm 0x40000 256)) 351 320 = 3 := by decide +kernel
  have hc : fld (ofBytes (memRead ldHbm 0x40000 256)) 479 448 = 1515577857 := by decide +kernel
  refine ⟨⟨_, load_ok (ldS .loading) 3 0x40000 420 2 (memRead ldHbm 0x40000 256) (memRead ldHbm 0x40000 420) run3.jobMap 0 { addr := 0, len := 96, off := 320, tile := 0, type := 9 }
    [{ kind := .stepBegin, mbi := 0, slack := 0, offset := 0 }, { kind := .commit, mbi := 0, slack := 0, offset := 0 }, { kind := .fin, mbi := 0, slack := 0, offset := 0 }] _
    (by decide +kernel) rfl h1 (by decide +kernel) (by decide +kernel) rfl ⟨_, rfl, ?_⟩ h2 ?_ ?_ ?_ ?_ ?_ ?_ ?_ ?_ ?_ rfl ?_ ?_ rfl⟩, by decide +kernel, rfl⟩
  · unfold need; rw [if_pos]; decide +kernel
  · unfold need; rw [if_pos]; rw [img_crc, hc]; rfl
  · unfold need; rw [if_pos]; decide +kernel
  · unfold need; rw [if_pos]; decide +kernel
  · unfold need; rw [if_pos]; decide +kernel
  · unfold need; rw [if_pos]; decide +kernel
  · decide +kernel
  · decide +kernel
  · unfold need; rw [if_pos]; rw [hw]; rfl
  · rw [hw]; decide +kernel
  · rw [hm]
    exact ldS_map .loading (by decide +kernel) (by decide +kernel) (by decide +kernel) rfl (by decide +kernel) (by decide +kernel)
  · decide +kernel
def freeS : State := cxS .free (fun _ => { gen := 5 })
def badMap (st : CtxState) : State := withRegs [(aCtx 3 0x60, 1), (aCtx 3 0x68, 1), (aCtx 3 0x80, 20000)] (cxS st id)
theorem witness_ContextLife_create : live freeS = true ∧ ctxBusy freeS = false ∧ createCheck freeS 3 2 = 0 ∧ createCheck (cxS .created id) 3 2 = 1 ∧ createCheck freeS 3 0 = 10
    ∧ walkIn freeS (ctxTiles freeS 3) = false ∧ freeS.ctxQueue = []
    ∧ walkIn { freeS with tiles := [(1, { ({} : Tile) with ports := { walk := 3 } })] } (ctxTiles freeS 3) = true
    ∧ mayB .f0 (aCtx 3 4) 4 freeS = true := by decide +kernel
theorem witness_ContextLife_may : mayWrite .f0 (aCtx 3 4) 4 freeS := mayB_ok _ _ _ _ (by decide +kernel)
theorem witness_ContextCommands_load : cmdFrom (cxS .created id) (.reg .f0) 3 2 ∧ cmdFrom (subS (cmdE 2) (cxS .done id)) (.queue 2 0) 3 2 ∧ ctxBusy (cxS .created id) = false
    ∧ cmdFrom (cxS .held id) (.reg .f0) 3 2 := ⟨reg_cmd _ _ (by decide +kernel), queue_cmd _ _ (by decide +kernel) (by decide +kernel), by decide +kernel, reg_cmd _ _ (by decide +kernel)⟩
theorem witness_ContextCommands_start : cmdFrom (badMap .ready) (.reg .f0) 3 3 ∧ now (badMap .ready) + 10000 ≤ regRaw (badMap .ready) (aCtx 3 0x80) ∧ regRaw (cxS .ready id) (aCtx 3 0x80) < now (cxS .ready id) + 10000
    ∧ cmdFrom (subS (cmdE 3) (cxS .ready id)) (.queue 2 0) 3 3 := ⟨reg_cmd _ _ (by decide +kernel), by decide +kernel, by decide +kernel, queue_cmd _ _ (by decide +kernel) (by decide +kernel)⟩
theorem witness_ContextCommands_remap : cmdFrom (ldS .held) (.reg .f0) 3 5 ∧ noBook (ldS .held) ∧ (match readJobMap (badMap .held) 3 2 with | .ok _ => false | .error _ => true) = true
    ∧ cmdFrom (badMap .held) (.reg .f0) 3 5 := ⟨reg_cmd _ _ (by decide +kernel), noBook_ok _ rfl, by decide +kernel, reg_cmd _ _ (by decide +kernel)⟩
theorem witness_ContextCommands_teardown : cmdFrom (cxS .running id) (.reg .f0) 3 4 ∧ noBook (cxS .running id) ∧ ctxBusy (cxS .running id) = false ∧ ctxBusy (cxS .loading id) = true
    ∧ (cxS .loading id).ctxQueue = [] ∧ cmdFrom (subS (cmdE 4) (cxS .loading id)) (.queue 2 0) 3 4 :=
  ⟨reg_cmd _ _ (by decide +kernel), noBook_ok _ rfl, by decide +kernel, by decide +kernel, rfl, queue_cmd _ _ (by decide +kernel) (by decide +kernel)⟩
theorem test_create : after (.create .f0 3 2 true) freeS (fun n => ((ctxOf n 3).state, (ctxOf n 3).func, (ctxOf n 3).nondet, (ctxOf n 3).gen.toNat)) = some (.created, 2, true, 5) := by decide +kernel
theorem test_create_waits_for_the_survey : after (.create .f0 3 2 true) { freeS with tiles := [(1, { ({} : Tile) with ports := { walk := 3 } })] } (fun n => ((ctxOf n 3).state, n.ctxQueue.length)) = some (.free, 1) := by
  decide +kernel
theorem test_create_function_0 : after (.create .f0 3 0 true) freeS (fun n => ((ctxOf n 3).state, (ctxOf n 3).lastResult)) = some (.free, 10) := by decide +kernel
theorem test_load : after (.load (.queue 2 0) 3) (subS (cmdE 2) (cxS .done id)) (fun n => ((ctxOf n 3).state, (ctxOf n 3).loadWaiter)) = some (.loading, some { f := 2, q := 0, cid := 7 }) := by decide +kernel
theorem test_start_too_late : after (.start (.reg .f0) 3) (cxS .ready id) (fun n => ((ctxOf n 3).armed, (ctxOf n 3).lastResult)) = some (false, 7) := by decide +kernel
theorem test_start : after (.start (.reg .f0) 3) (badMap .ready) (fun n => ((ctxOf n 3).armed, (ctxOf n 3).lastResult)) = some (true, 0) := by decide +kernel
theorem test_remap_refused : after (.remap (.reg .f0) 3) (badMap .held) (fun n => (ctxOf n 3).lastResult) = some 8 := by decide +kernel
theorem test_teardown : after (.teardown (.reg .f0) 3) (cxS .running id) (fun n => ((ctxOf n 3).state, (ctxOf n 3).td)) = some (.teardown, .drain true) := by decide +kernel
theorem test_teardown_waits : after (.teardown (.reg .f0) 3) { cxS .ready id with ctxs := [(3, run3), (4, { state := .loading })] } (fun n => n.ctxQueue.map (fun x => (x.ctx, x.cmd))) = some [(3, 4)] := by
  decide +kernel

def armS : State := badMap .ready |> modCtx 3 (fun x => { x with armed := true, starts := [(1, 0x1000)], rank := 1 })
def drS (td : TdPhase) : State := cxS .teardown (fun x => { x with td := td })
theorem witness_ContextLife_fails : (match loadChecks (badMap .loading) 3 with | .ok _ => false | .error e => decide (e.code = 5)) = true ∧ live (badMap .loading) = true
    ∧ (ctxOf (badMap .loading) 3).state = .loading ∧ (badMap .loading).ctxQueue = [] := by decide +kernel
theorem witness_ContextLife_start : live armS = true ∧ (ctxOf armS 3).state = .ready ∧ (ctxOf armS 3).armed = true ∧ aborted armS 3 = false ∧ (0 : Nat) ∈ tilesOf armS 3
    ∧ tget (ctxOf armS 3).starts 1 = some 0x1000 ∧ tget (ctxOf armS 3).starts 0 = none ∧ 2 ∉ tilesOf armS 3 ∧ (ctxOf (badMap .ready) 3).armed = false := by decide +kernel
theorem witness_ContextLife_noBook : noBook armS := noBook_ok _ rfl
theorem witness_ContextLife_drain : (ctxOf (drS (.drain true)) 3).td = .drain true ∧ (ctxOf (drS (.drain false)) 3).td = .drain false ∧ (ctxOf (drS (.drain true)) 3).state = .teardown ∧ drained (drS (.drain true)) 3 = true
    ∧ (ctxOf (drS (.notice [1])) 3).td = .notice [1] ∧ 1 < (ctxOf (drS (.drain true)) 3).members
    ∧ (List.range (ctxOf (drS (.drain true)) 3).members).filter (· ≠ (ctxOf (drS (.drain true)) 3).rank) = [1] ∧ (0 : Nat) ∈ floodPorts (drS (.drain true)) := by and_intros <;> decide +kernel
theorem witness_ContextLife_rank : rankAt (drS (.drain true)) 3 1 1 8 := ⟨⟨(4, 6), by decide +kernel⟩, by decide, by decide +kernel, Or.inl (by decide +kernel)⟩
theorem test_load_fails : after (.loadComplete 3) (badMap .loading) (fun n => ((ctxOf n 3).state, (ctxOf n 3).lastResult)) = some (.created, 5) := by decide +kernel
theorem test_context_start : after (.contextStart 3) armS (fun n => (now n, (ctxOf n 3).state, (stOf n 0 1).pc.toNat, gprOf (stOf n 0 1) 11)) = some (20000, .running, 0x1000, 1) := by decide +kernel
theorem test_context_start_other : after (.contextStart 3) armS (fun n => ((stOf n 0 1).run, (stOf n 0 0).run, (stOf n 1 1).run)) = some (.running, .reset, .reset) := by decide +kernel
theorem test_drain_end_notifies : after (.drainEnd 3) (drS (.drain true)) (fun n => ((ctxOf n 3).td, (linkOf n 8).queue.map (fun k => (pOpc k, pOp k 259 256)))) = some (.notice [1], [(0x28, 8)]) := by decide +kernel
theorem test_drain_end_frees : after (.drainEnd 3) (drS (.drain false)) (fun n => ((ctxOf n 3).state, (ctxOf n 3).gen.toNat)) = some (.free, 6) := by decide +kernel
theorem test_teardown_timeout : after (.teardownTimeout 3) (drS (.notice [1])) (fun n => ((ctxOf n 3).state, n.faults.map (fun r => (r.cls, r.code)), (linkOf n 0).queue.map (fun k => (pOpc k, pOp k 263 256)))) = some (.free, [(7, 6)], [(0x30, 3)]) := by
  decide +kernel

/-! ### The host port: sessions (chapter 13) -/

/-- Function f ENABLED at 10.0.0.1, the host port up, with at most four sessions. -/
def hostS (f : Nat) (l : List Session) : State :=
  { withRegs [(aHost 0, 0x100), (aHost 4, 1), (aFn f 0, 0xA0000000), (aFn f 4, 1), (aFn f 8, 0x0A000001), (aFn f 0x34, 0x40004)] (cxS .running id) with sessions := l }
def ses (f : Nat) : Session :=
  { id := 7, cookie := 0x99, func := f, ip := 0x0A000002, v6 := false, port := 5000, accepted := 4, nextSeq := 9, unacked := [], rtoUs := 1000, timeouts := 0, opened := 0 }
def sesU (f t : Nat) : Session := { ses f with unacked := [(7, 0x20, [1]), (8, 0x20, [2])], timeouts := t, rtoUs := 40000 }
def dgF (opc f sid seq ck av ack : Nat) (body : List Byte) : Datagram :=
  { v6 := false, srcIp := 0x0A000002, dstIp := 0x0A000001, port := 5000, vlan := none, body := body
    hdr := BitVec.ofNat 256 (0x4357 + 1 <<< 16 + opc <<< 56 + av <<< 64 + f <<< 68 + sid <<< 80 + body.length <<< 96 + seq <<< 128 + ack <<< 160 + ck <<< 192) }
/-- The next datagram of the session in order. -/
def dg (opc f : Nat) (body : List Byte) : Datagram := dgF opc f 7 5 0x99 0 0 body
def dgOpen : Datagram := dgF 1 2 0 0 0 0 0 []
/-- The state in which it acts. -/
def accd (s : State) (f : Nat) : State := setSession { ses f with accepted := 5 } s
theorem seq_ok (s : State) (opc : Nat) (d : Datagram) (f : Nat) (h : dgAt s opc d f) (h1 : namedSession s f d = some (ses f)) (h2 : sessionOf s 7 = some (ses f)) (h3 : dSeq d = 5) (h4 : dAv d = false) :
    seqAt s opc d f { ses f with accepted := 5 } (accd s f) := by
  have ht : takeAck (ses f) d s = s := by simp [takeAck, h4]
  exact ⟨h, ses f, ses f, h1, by rw [ht]; exact h2, by rw [h3]; rfl, rfl, by rw [h3], by rw [ht]; rfl⟩
/-- Queue 2:5 as well. -/
def hostQ (q : Queue) : State := { hostS 2 [ses 2] with queues := [(8197, q)] }
def sq5 : Queue := { kind := .submission, log2 := 2, cq := 1, addr := 0x20000, pi := 1, ci := 0 }
def ev5 : Queue := { kind := .event, log2 := 2, addr := 0x20000, pi := 3, ci := 1, notify := 1 }
def door (v : Nat) : Datagram := dg 0x10 2 (toBytes 4 (5 + v <<< 16))
def sbm (m : Nat) : Datagram := dg 0x11 2 (toBytes 64 (5 + m <<< 16) ++ List.replicate (64 * m) 3)
theorem witness_HostSessions_open : dgAt (hostS 2 []) 1 dgOpen 2 ∧ (hostS 2 []).sessions.find? (fun x => x.func == 2 && x.ip == dgOpen.srcIp && x.port == dgOpen.port && x.v6 == dgOpen.v6) = none
    ∧ ((hostS 2 []).sessions.filter (fun x => x.func = 2)).length < fld (regRaw (hostS 2 []) (aFn 2 0x34)) 21 16 ∧ dgAt (hostS 2 [ses 2]) 1 dgOpen 2
    ∧ (hostS 2 [ses 2]).sessions.find? (fun x => x.func == 2 && x.ip == dgOpen.srcIp && x.port == dgOpen.port && x.v6 == dgOpen.v6) = some (ses 2)
    ∧ dgAt (withRegs [(aFn 2 0x34, 4)] (hostS 2 [])) 1 dgOpen 2 ∧ fld (regRaw (withRegs [(aFn 2 0x34, 4)] (hostS 2 [])) (aFn 2 0x34)) 21 16 = 0 := by and_intros <;> decide +kernel
theorem seqAt_ok (q : Queue) (opc : Nat) (d : Datagram) (h : dgAt (hostQ q) opc d 2) (h1 : namedSession (hostQ q) 2 d = some (ses 2)) (h3 : dSeq d = 5) (h4 : dAv d = false) :
    seqAt (hostQ q) opc d 2 { ses 2 with accepted := 5 } (accd (hostQ q) 2) := seq_ok _ _ _ _ h h1 rfl h3 h4
theorem witness_HostSessions_close : seqAt (hostQ sq5) 3 (dg 3 2 []) 2 { ses 2 with accepted := 5 } (accd (hostQ sq5) 2) :=
  seqAt_ok _ _ _ (by and_intros <;> decide +kernel) (by decide +kernel) (by decide +kernel) (by decide +kernel)
theorem witness_HostSessions_doorbell : seqAt (hostQ sq5) 0x10 (door 4) 2 { ses 2 with accepted := 5 } (accd (hostQ sq5) 2) ∧ seqAt (hostQ ev5) 0x10 (door 3) 2 { ses 2 with accepted := 5 } (accd (hostQ ev5) 2) :=
  ⟨seqAt_ok _ _ _ (by and_intros <;> decide +kernel) (by decide +kernel) (by decide +kernel) (by decide +kernel),
    seqAt_ok _ _ _ (by and_intros <;> decide +kernel) (by decide +kernel) (by decide +kernel) (by decide +kernel)⟩
/-- Indices at their bounds: PI 4 fills the ring, 5 is past it; CI 3 empties the other, 4 is past it. -/
theorem witness_HostSessions_bounds : qOf (accd (hostQ sq5) 2) (qKey 2 5) = some sq5 ∧ (4 + 2 * qDepth sq5 - sq5.ci) % (2 * qDepth sq5) = qDepth sq5 ∧ qDepth sq5 < (5 + 2 * qDepth sq5 - sq5.ci) % (2 * qDepth sq5)
    ∧ qCount sq5 ≤ 4 ∧ (ev5.pi + 2 * qDepth ev5 - 3) % (2 * qDepth ev5) ≤ qCount ev5 ∧ qCount ev5 < (ev5.pi + 2 * qDepth ev5 - 4) % (2 * qDepth ev5) := by decide +kernel
def hq5 : Queue := { sq5 with host := true, qpn := 0x77 }
theorem witness_HostSessions_hostRing : qpOf { accd (hostQ hq5) 2 with qps := [(0x77, { func := 2, state := .rts })] } hq5.qpn = some { func := 2, state := .rts } := by decide +kernel
theorem witness_HostSessions_submit : seqAt (hostQ sq5) 0x11 (sbm 3) 2 { ses 2 with accepted := 5 } (accd (hostQ sq5) 2) ∧ qCount sq5 + 3 ≤ qDepth sq5 ∧ qDepth sq5 < qCount sq5 + 4
    ∧ (List.range 3).all (fun j => memAvailable (accd (hostQ sq5) 2) (qAddr sq5 (qAdd sq5 sq5.pi j)) 64) = true :=
  ⟨seqAt_ok _ _ _ (by and_intros <;> decide +kernel) (by decide +kernel) (by decide +kernel) (by decide +kernel), by decide +kernel, by decide +kernel, by decide +kernel⟩
def rdD : Datagram := dg 0x30 0 (toBytes 8 (aDat 0x20 + 8 <<< 40))
def wrD (f : Nat) : Datagram := dg 0x31 f (toBytes 16 (aDat 0x20 + 8 <<< 40 + 0x40 <<< 64))
theorem witness_HostSessions_registers : seqAt (hostS 0 [ses 0]) 0x30 rdD 0 { ses 0 with accepted := 5 } (accd (hostS 0 [ses 0]) 0) ∧ seqAt (hostS 2 [ses 2]) 0x31 (wrD 2) 2 { ses 2 with accepted := 5 } (accd (hostS 2 [ses 2]) 2) :=
  ⟨seq_ok _ _ _ _ (by and_intros <;> decide +kernel) (by decide +kernel) rfl (by decide +kernel) (by decide +kernel),
    seq_ok _ _ _ _ (by and_intros <;> decide +kernel) (by decide +kernel) rfl (by decide +kernel) (by decide +kernel)⟩
theorem witness_HostSessions_access : (match readReg .f0 (aDat 0x20) 8 (accd (hostS 0 [ses 0]) 0) with | .ok r => decide (r.1 = 0 ∧ (sessionOf r.2 7).isSome) | .error _ => false) = true
    ∧ (match writeReg .f0 (aDat 0x20) 8 0x40 (accd (hostS 0 [ses 0]) 0) with | .ok n => (sessionOf n 7).isSome | .error _ => false) = true := by decide +kernel
def ackD (av ack : Nat) : Datagram := dgF 4 2 7 0 0x99 av ack []
theorem witness_HostSessions_ack : dgAt (hostS 2 [sesU 2 0]) 4 (ackD 1 7) 2 ∧ namedSession (hostS 2 [sesU 2 0]) 2 (ackD 1 7) = some (sesU 2 0) ∧ sessionOf (hostS 2 [sesU 2 0]) 7 = some (sesU 2 0)
    ∧ (((sesU 2 0).unacked.take 64).takeWhile (fun u => decide ((dAck (ackD 1 7) + 2 ^ 32 - u.1) % 2 ^ 32 < 2 ^ 31))).length = 1 ∧ dAv (ackD 1 7) = true ∧ dAv (ackD 0 7) = false := by
  and_intros <;> decide +kernel
theorem witness_HostSessions_rto : sessionOf (hostS 2 [sesU 2 6]) 7 = some (sesU 2 6) ∧ (sesU 2 6).unacked ≠ [] ∧ (sesU 2 6).timeouts < 7 ∧ 7 ≤ (sesU 2 7).timeouts ∧ live (hostS 2 [sesU 2 6]) = true := by decide +kernel
theorem witness_HostSessions_notify : (ev5.pi + 2 * qDepth ev5 - ev5.notedPi) % (2 * qDepth ev5) ≠ 0 ∧ (hostQ ev5).paused.contains (fld (fnCfg (hostQ ev5) 2) 26 24) = false ∧ latestSession (hostQ ev5) 2 = some (ses 2) := by
  decide +kernel
theorem witness_HostSessions_port : bit (regRaw (hostS 2 []) (aHost 0)) 8 = true ∧ 0 < subPorts (fld (regRaw (hostS 2 []) (aHost 0)) 2 0) ∧ hostUp (hostS 2 []) = true ∧ coreRuns (hostS 2 []) 3 = true := by decide +kernel
/-- Function 2 DISABLED; no function at the address; a sub-port that is down, a fragment, another UDP port, a broken header. -/
theorem witness_HostSessions_dropped : let s := withRegs [(aFn 2 4, 0)] (hostS 2 [])
    steer s false dgOpen.dstIp none = none ∧ (List.range 16).find? (steerMatch s false dgOpen.dstIp none) = some 2 ∧ fnState s 2 = 0 ∧ dBad dgOpen 2 = false ∧ dgOpen.dport = ctPort s
    ∧ frameOk s dgOpen.frame = true ∧ (List.range 16).find? (steerMatch s false 0x0A000009 none) = none ∧ frameOk s { sub := 1 } = false ∧ frameOk s { cut := true } = false
    ∧ steer (hostS 2 []) false dgOpen.dstIp none = some 2 ∧ ({ dgOpen with dport := 1 }).dport ≠ ctPort (hostS 2 []) ∧ dBad { dgOpen with hdr := 0 } 2 = true := by decide +kernel
theorem witness_HostSessions_frames : frameOk (hostS 2 []) { sub := 0, mac := frameMac (List.replicate 6 0xFF ++ [1, 2]), len := 8 } = true ∧ frameMac [1, 2] ≠ 0xFFFFFFFFFFFF#48 := by decide +kernel
theorem witness_HostSessions_ringReads : maxReads { func := 2, state := .rts } = 16 ∧ qCount hq5 = 1 ∧ (qOf (accd (hostQ hq5) 2) (qKey 2 5)) = some hq5 ∧ (∀ j, j < 3 → hbmFree (accd (hostQ sq5) 2) (qAddr sq5 (qAdd sq5 sq5.pi j)) 64) :=
  ⟨by decide +kernel, by decide +kernel, by decide +kernel, fun j _ => ⟨rfl, fun w hw => absurd hw (List.not_mem_nil)⟩⟩
theorem test_open_for_disabled : after (.openSession dgOpen 0x1234) (withRegs [(aFn 2 4, 0)] (hostS 2 [])) (fun n => n.sentHost.map (fun o => (hOpc o, fld (ofBytes o.body) 15 0))) = some [(5, 0x43)] := by decide +kernel
theorem test_pause_ends : after (.priorityFlowControl 3 false) { hostS 2 [] with paused := [3], heldHost := [(3, ⟨0x0A000002, 5000, 0, [1], 17239⟩)] } (fun n => (n.paused, n.heldHost.length, n.sentHost.map (·.body))) = some ([], 0, [[1]]) := by
  decide +kernel
theorem test_open : after (.openSession dgOpen 0x1234) (hostS 2 []) (fun n => n.sessions.map (fun x => (x.func, x.cookie.toNat, x.nextSeq, x.accepted))) = some [(2, 0x1234, 1, 0)] := by decide +kernel
theorem test_open_none_left : after (.openSession dgOpen 0x1234) (withRegs [(aFn 2 0x34, 4)] (hostS 2 [])) (fun n => (n.sessions.length, n.sentHost.map (fun o => (hOpc o, fld (ofBytes o.body) 15 0)))) = some (0, [(5, 0x42)]) := by decide +kernel
theorem test_close_session : after (.closeSession (dg 3 2 [])) (hostQ sq5) (fun n => (n.sessions.length, n.sentHost.map hOpc)) = some (0, [4]) := by decide +kernel
theorem test_doorbell : after (.doorbell (door 4)) (hostQ sq5) (fun n => ((qOf n 8197).map (·.pi), n.sentHost.map hOpc)) = some (some 4, [4]) := by decide +kernel
theorem test_doorbell_past_the_ring : after (.doorbell (door 5)) (hostQ sq5) (fun n => ((qOf n 8197).map (·.pi), n.sentHost.map (fun o => (hOpc o, fld (ofBytes o.body) 15 0)))) = some (some 1, [(5, 0x50), (4, 0)]) := by decide +kernel
theorem test_submit : after (.submit (sbm 3)) (hostQ sq5) (fun n => ((qOf n 8197).map (·.pi), hbmRead n 0x20040 1, hbmRead n 0x200FF 1)) = some (some 4, [3], [3]) := by decide +kernel
theorem test_submit_too_many : after (.submit (sbm 4)) (hostQ sq5) (fun n => ((qOf n 8197).map (·.pi), n.sentHost.map (fun o => (hOpc o, fld (ofBytes o.body) 15 0)))) = some (some 1, [(5, 0x50), (4, 0)]) := by decide +kernel
theorem test_reg_read : after (.regRead rdD) (withRegs [(aDat 0x20, 0x40)] (hostS 0 [ses 0])) (fun n => (sessionOf n 7).map (fun x => x.unacked.map (fun u => (u.1, u.2.1, ofBytes u.2.2)))) = some (some [(9, 0x32, 0x40 <<< 64)]) := by
  decide +kernel
theorem test_reg_write : after (.regWrite (wrD 0)) (hostS 0 [ses 0]) (fun n => regRaw n (aDat 0x20)) = some 0x40 := by decide +kernel
theorem test_reg_write_not_f0 : after (.regWrite (wrD 2)) (hostS 2 [ses 2]) (fun n => (regRaw n (aDat 0x20), n.sentHost.map (fun o => (hOpc o, fld (ofBytes o.body) 15 0)))) = some (0, [(5, 0x43), (4, 0)]) := by decide +kernel
theorem test_ack : after (.ack (ackD 1 7)) (hostS 2 [sesU 2 3]) (fun n => (sessionOf n 7).map (fun x => (x.unacked.map (·.1), x.rtoUs, x.timeouts))) = some (some ([8], 1000, 0)) := by decide +kernel
theorem test_rto : after (.rto 7) (hostS 2 [sesU 2 6]) (fun n => ((sessionOf n 7).map (fun x => (x.rtoUs, x.timeouts)), n.sentHost.map (·.body))) = some (some (64000, 7), [[1], [2]]) := by decide +kernel
theorem test_rto_eighth : after (.rto 7) (hostS 2 [sesU 2 7]) (fun n => n.sessions.length) = some 0 := by decide +kernel
theorem test_session_idle : after (.sessionIdle 7) (hostS 2 [sesU 2 0]) (fun n => n.sessions.length) = some 0 := by decide +kernel
theorem test_notify : after (.notify 2 5) (hostQ ev5) (fun n => ((qOf n 8197).map (·.notedPi), n.sentHost.map (fun o => (hOpc o, fld (ofBytes o.body) 11 0, fld (ofBytes o.body) 47 32)))) = some (some 3, [(0x20, 5, 3)]) := by decide +kernel
theorem test_sub_port : after (.subPortDown 0) (hostS 2 []) (fun n => hostUp n) = some false ∧ after (.subPortUp 0) (withRegs [(aHost 4, 0)] (hostS 2 [])) (fun n => hostUp n) = some true := by decide +kernel
theorem test_priority_flow_control : after (.priorityFlowControl 3 true) (hostS 2 []) (fun n => (n.paused, regRaw n (aHost 0x138))) = some ([3], 1) := by decide +kernel
theorem test_housekeeping : after (.networkHousekeeping 0 (List.replicate 6 0xFF ++ [1, 2])) (hostS 2 []) (fun n => n.sentFrames.map (·.length)) = some [8] := by decide +kernel

/-! ### Admin commands, functions, RoCEv2 (chapter 13) -/

/-- Function 2, its queue memory at 1 GiB, with an entry of CID 9 at the front of its submission queue. -/
def adE (e : Nat) : Nat := e + 9 <<< 16
def adS (e : Nat) (f : State → State) : State :=
  f (subS (adE e) (withRegs [(aFn 2 0x20, 0x40000000), (aFn 2 0x28, 0x40000000), (aFn 2 0x34, 0x40004), (aHost 0, 0x100)] (cxS .created id)))
theorem take_ok (e opc : Nat) (f : State → State) (h : live (adS e f) = true) (h1 : (match adminTake 2 0 (adS e f) with | .ok x => decide (x = adE e) | .error _ => false) = true) (h2 : fld (adE e) 7 0 = opc) :
    takes (adS e f) 2 0 opc (adE e) := by
  refine ⟨h, by decide, by decide, ?_, h2⟩
  cases hx : adminTake 2 0 (adS e f) with
  | ok x => rw [hx] at h1; simp only [decide_eq_true_eq] at h1; rw [h1]
  | error x => simp [hx] at h1
/-- QUEUE_CREATE of 2:5 at an address. -/
def qcE (addr : Nat) : Nat := 0x01 + 5 <<< 64 + 2 <<< 80 + 1 <<< 88 + addr <<< 128
def q5 (q : Queue) (s : State) : State := { s with queues := s.queues ++ [(0x2005, q)] }
def qp (st : QpState) : Qp :=
  { func := 2, state := st, params := BitVec.ofNat 448 (3 <<< 28 + 0x0A000002 <<< 128 + 5 <<< 324 + 2 <<< 104 + 1 <<< 107 + 1 <<< 110), expPsn := 100
    unacked := [{ psn := 40, addr := 0, rkey := 0, data := [], len := 64, queue := 0x2005, idx := 0 }, { psn := 41, addr := 0, rkey := 0, data := [1], len := 1, queue := 0x2005, idx := 0 }] }
def withQp (x : Qp) (s : State) : State := { s with qps := [(0x77, x)] }
def mr (f : Nat) : MemRegion := { func := f, ctx := 3, gen := 5, base := 0x30000, len := 0x1000, write := true, read := true }
theorem witness_HostCommands_complete : qOf (adS 0 id) (qKey 2 0) = some sub0 ∧ qOf (adS 0 id) (qKey 2 1) = some com1 ∧ qFull com1 = false ∧ memAvailable (adS 0 id) (qAddr com1 com1.pi) 64 = true := by decide +kernel
theorem hbmFree_ok (s : State) (a n : Nat) (h : s.entries = []) (h1 : s.late = []) : hbmFree s a n :=
  ⟨by simp [lineOpen, h], by intro w hw; rw [h1] at hw; exact absurd hw List.not_mem_nil⟩
theorem witness_HostCommands_free : hbmFree (adS 0 id) (qAddr com1 com1.pi) 64 := hbmFree_ok _ _ _ rfl rfl
/-- CTX_CREATE with MEM 0 of granules 2 to 511 and no tile; its checks on context 0. -/
def ccE (tiles : Nat) : Nat := 0x10 + 1 <<< 8 + tiles <<< 128
theorem witness_HostCommands_create : takes (adS (qcE 0x40010000) id) 2 0 0x01 (adE (qcE 0x40010000)) ∧ queueCreateCheck (adS (qcE 0x40010000) id) 2 (adE (qcE 0x40010000)) = 0
    ∧ takes (adS (qcE 0x30000) id) 2 0 0x01 (adE (qcE 0x30000)) ∧ queueCreateCheck (adS (qcE 0x30000) id) 2 (adE (qcE 0x30000)) = 0x45 :=
  ⟨take_ok _ _ _ (by decide +kernel) (by decide +kernel) (by decide +kernel), by decide +kernel, take_ok _ _ _ (by decide +kernel) (by decide +kernel) (by decide +kernel), by decide +kernel⟩
theorem witness_HostCommands_destroy : takes (adS (2 + 5 <<< 64) (q5 {})) 2 0 0x02 (adE (2 + 5 <<< 64)) ∧ queueDestroyCheck (adS (2 + 5 <<< 64) (q5 {})) 2 5 = 0 ∧ takes (adS (3 + 5 <<< 64) (q5 {})) 2 0 0x03 (adE (3 + 5 <<< 64))
    ∧ qOf (adS (3 + 5 <<< 64) (q5 {})) (qKey 2 5) = some {} ∧ qOf (adS (3 + 5 <<< 64) id) (qKey 2 5) = none ∧ queueDestroyCheck (adS (2 + 1 <<< 64) id) 2 1 = 0x41 :=
  ⟨take_ok _ _ _ (by decide +kernel) (by decide +kernel) (by decide +kernel), by decide +kernel, take_ok _ _ _ (by decide +kernel) (by decide +kernel) (by decide +kernel), by decide +kernel, by decide +kernel, by decide +kernel⟩
theorem witness_HostCommands_context : takes (adS 0x10 id) 2 0 0x10 (adE 0x10) ∧ ctxBusy (adS 0x10 id) = false ∧ (ctxOf (adS 0x10 id) 0).state = .free
    ∧ takes (adS (0x11 + 3 <<< 64 + 0x78 <<< 72 + 77 <<< 128) id) 2 0 0x11 (adE (0x11 + 3 <<< 64 + 0x78 <<< 72 + 77 <<< 128)) ∧ ownsCtx (adS 0x10 id) 2 3 = true ∧ (ctxOf (adS 0x10 id) 3).state = .created
    ∧ takes (adS (0x13 + 3 <<< 64) id) 2 0 0x13 (adE (0x13 + 3 <<< 64)) ∧ ownsCtx (adS (0x13 + 4 <<< 64) id) 2 4 = false :=
  ⟨take_ok _ _ _ (by decide +kernel) (by decide +kernel) (by decide +kernel), by decide +kernel, by decide +kernel, take_ok _ _ _ (by decide +kernel) (by decide +kernel) (by decide +kernel), by decide +kernel, by decide +kernel,
    take_ok _ _ _ (by decide +kernel) (by decide +kernel) (by decide +kernel), by decide +kernel⟩
def busyCtx (s : State) : State := { s with ctxs := (List.range 16).map (fun c => (c, { run3 with func := 1 })) }
theorem witness_HostCommands_noneFree : takes (adS 0x10 busyCtx) 2 0 0x10 (adE 0x10) ∧ ((List.range 16).all (fun d => decide ((ctxOf (adS 0x10 busyCtx) d).state ≠ .free))) = true ∧ ctxBusy (adS 0x10 busyCtx) = false :=
  ⟨take_ok _ _ _ (by decide +kernel) (by decide +kernel) (by decide +kernel), by decide +kernel, by decide +kernel⟩
/-- MR_REG of 4 KiB at an address for context 3, to write. -/
def mrE (a : Nat) : Nat := 0x20 + 1 <<< 8 + 3 <<< 64 + a <<< 128 + 0x1000 <<< 192
theorem witness_HostCommands_regions : takes (adS (mrE 0x30000) id) 2 0 0x20 (adE (mrE 0x30000)) ∧ inPartition (adS (mrE 0x30000) id) 3 0x30000 0x1000 = true ∧ inPartition (adS (mrE 0x50000000) id) 3 0x50000000 0x1000 = false
    ∧ takes (adS (0x21 + 0x55 <<< 64) (fun s => { s with mrs := [(0x55, mr 2)] })) 2 0 0x21 (adE (0x21 + 0x55 <<< 64)) ∧ fld (adE (0x21 + 0x55 <<< 64)) 95 64 = 0x55 :=
  ⟨take_ok _ _ _ (by decide +kernel) (by decide +kernel) (by decide +kernel), by decide +kernel, by decide +kernel, take_ok _ _ _ (by decide +kernel) (by decide +kernel) (by decide +kernel), by decide +kernel⟩
/-- QP_MODIFY of pair 0x77 to a state, MTU code 3. -/
def qmE (st : Nat) : Nat := 0x23 + 0x77 <<< 64 + st <<< 88 + 3 <<< 92 + 500 <<< 144
theorem witness_HostCommands_pairs : takes (adS 0x22 id) 2 0 0x22 (adE 0x22) ∧ fnQps (adS 0x22 id) 2 < fld (regRaw (adS 0x22 id) (aFn 2 0x34)) 12 0 ∧ takes (adS (qmE 2) (withQp (qp .init))) 2 0 0x23 (adE (qmE 2))
    ∧ qpOf (adS (qmE 2) (withQp (qp .init))) 0x77 = some (qp .init) ∧ fld (adE (qmE 2)) 387 384 < subPorts (fld (regRaw (adS (qmE 2) (withQp (qp .init))) (aHost 0)) 2 0) ∧ fld (adE (qmE 2)) 94 92 = 3
    ∧ takes (adS (0x24 + 0x77 <<< 64) (withQp (qp .rts))) 2 0 0x24 (adE (0x24 + 0x77 <<< 64)) :=
  ⟨take_ok _ _ _ (by decide +kernel) (by decide +kernel) (by decide +kernel), by decide +kernel, take_ok _ _ _ (by decide +kernel) (by decide +kernel) (by decide +kernel), by decide +kernel, by decide +kernel, by decide +kernel,
    take_ok _ _ _ (by decide +kernel) (by decide +kernel) (by decide +kernel)⟩
/-- The completion written at the completion queue: STATUS and CID, and the result from bit 64 on. -/
def comp (n : State) : Nat × Nat × Nat := (fld (ofBytes (hbmRead n 0x10000 64)) 15 8, fld (ofBytes (hbmRead n 0x10000 64)) 31 16, fld (ofBytes (hbmRead n 0x10000 64)) 127 64)
theorem witness_HostCommands_newContext : takes (adS (ccE 4) id) 2 0 0x10 (adE (ccE 4)) ∧ createCheck (createRegs 0 (adE (ccE 4)) (adS (ccE 4) id)) 0 2 = 0
    ∧ walkIn (adS (ccE 4) id) (ctxTiles (createRegs 0 (adE (ccE 4)) (adS (ccE 4) id)) 0) = false ∧ createCheck (createRegs 0 (adE (ccE 1)) (adS (ccE 1) id)) 0 2 ≠ 0
    ∧ (adS (ccE 4) id).ctxQueue = [] ∧ ctxBusy (modCtx 4 (fun x => { x with state := .loading }) (adS (ccE 4) id)) = true :=
  ⟨take_ok _ _ _ (by decide +kernel) (by decide +kernel) (by decide +kernel), by decide +kernel, by decide +kernel, by decide +kernel, rfl, by decide +kernel⟩
theorem test_ctx_create_waits : after (.ctxCreate 2 0) (adS (ccE 4) (modCtx 4 (fun x => { x with state := .loading }))) (fun n => ((ctxOf n 0).state, n.ctxQueue.map (fun x => x.entry))) = some (.free, [some (adE (ccE 4))]) := by
  decide +kernel
theorem test_queue_create : after (.queueCreate 2 0) (adS (qcE 0x40010000) id) (fun n => ((qOf n 0x2005).map (fun q => (q.log2, q.cq, q.addr)), comp n)) = some (some (2, 1, 0x40010000), (0, 9, 0)) := by decide +kernel
theorem test_queue_create_outside : after (.queueCreate 2 0) (adS (qcE 0x30000) id) (fun n => ((qOf n 0x2005).isNone, comp n)) = some (true, (0x45, 9, 0)) := by decide +kernel
theorem test_queue_destroy : after (.queueDestroy 2 0) (adS (2 + 5 <<< 64) (q5 {})) (fun n => ((qOf n 0x2005).isNone, comp n)) = some (true, (0, 9, 0)) := by decide +kernel
theorem test_queue_query : after (.queueQuery 2 0) (adS (3 + 5 <<< 64) (q5 { pi := 3, ci := 1, error := true })) comp = some (0, 9, 3 + 1 <<< 16 + 1 <<< 32) := by decide +kernel
theorem test_ctx_create : after (.ctxCreate 2 0) (adS (0x10 + 1 <<< 8 + 4 <<< 128) id) (fun n => ((ctxOf n 0).state, (ctxOf n 0).nondet, comp n)) = some (.created, true, (0, 9, 0)) := by decide +kernel
theorem test_ctx_set : after (.ctxSet 2 0) (adS (0x11 + 3 <<< 64 + 0x78 <<< 72 + 77 <<< 128) id) (fun n => (stepOf n 3, comp n)) = some (77, (0, 9, 0)) := by decide +kernel
theorem test_ctx_read : after (.ctxRead 2 0) (adS (0x13 + 4 <<< 64) id) comp = some (0x43, 9, 0) := by decide +kernel
theorem test_mr_reg : after (.mrReg 2 0) (adS (mrE 0x30000) id) (fun n => n.mrs.map (fun m => (m.2.base, m.2.len, m.2.write, m.2.read))) = some [(0x30000, 0x1000, true, false)] := by decide +kernel
theorem test_mr_dereg_of_another : after (.mrDereg 2 0) (adS (0x21 + 0x55 <<< 64) (fun s => { s with mrs := [(0x55, mr 1)] })) (fun n => (n.mrs.length, (comp n).1)) = some (1, 0x43) := by decide +kernel
theorem test_qp_create : after (.qpCreate 2 0) (adS 0x22 id) (fun n => n.qps.map (·.2.state)) = some [.reset] := by decide +kernel
theorem test_qp_modify : after (.qpModify 2 0) (adS (qmE 2) (withQp (qp .init))) (fun n => ((qpOf n 0x77).map (fun x => (x.state, x.expPsn)), (comp n).1)) = some (some (.rtr, 500), 0) := by decide +kernel
theorem test_qp_destroy_in_use : after (.qpDestroy 2 0) (adS (0x24 + 0x77 <<< 64) (fun s => q5 { host := true, qpn := 0x77 } (withQp (qp .rts) s))) (fun n => (n.qps.length, (comp n).1)) = some (1, 0x44) := by decide +kernel

/-- Function 2 at a state, its queue memory as above, rings of four. -/
def fnS (st cfg : Nat) (l : List Session) : State :=
  withRegs [(aFn 2 0x20, 0x40000000), (aFn 2 0x28, 0x40000000), (aFn 2 0x30, 0x222), (aFn 2 4, BitVec.ofNat 64 st), (aFn 2 0, BitVec.ofNat 64 cfg)] (hostS 3 l)
theorem witness_FunctionsAndRoce_enable : mayB .f0 (aFn 2 0) 4 (fnS 0 0 []) = true ∧ fnState (fnS 0 0 []) 2 = 0 ∧ bit (fnCfg (fnS 0 0 []) 2) 31 = false ∧ mayEnable (fnS 0 0 []) 2 = true
    ∧ mayEnable (withRegs [(aFn 2 0x20, 0)] (fnS 0 0 [])) 2 = false ∧ mayB .f0 (aFn 2 0) 4 (fnS 1 0x80000000 []) = true ∧ fnState (fnS 1 0x80000000 []) 2 = 1 := by decide +kernel
theorem witness_FunctionsAndRoce_reset : mayB .f0 (aHost 0xC) 4 (fnS 1 0x80000000 []) = true ∧ (ctxOf (fnS 1 0 []) 3).func = 2 ∧ (ctxOf (fnS 1 0 []) 3).state ≠ .free ∧ fnState (fnS 2 0x80000000 []) 2 = 2
    ∧ ((List.range 16).all (fun c => !ownsCtx { fnS 2 0x80000000 [] with ctxs := [] } 2 c)) = true := by decide +kernel
def rS (x : Qp) : State := withQp x { hostS 2 [] with queues := [(0x2005, sq5)], mrs := [(0x55, mr 2)] }
def rq0 (psn : Nat) (pay : List Byte) : Roce :=
  { v6 := false, srcIp := 0x0A000002, dstIp := 0x0A000001, vlan := none, qpn := 0x77, psn := psn, rkey := 0x55, addr := 0x30040, len := 64, first := true, last := true, pay := pay, icrcOk := true, ecn := false }
theorem witness_FunctionsAndRoce_next : roceNext (rS (qp .rts)) (rq0 100 (List.replicate 192 4)) (qp .rts) ∧ qKey (qp .rts).func (qpFld (qp .rts) 399 388) = 0x2005 ∧ qOf (rS (qp .rts)) 0x2005 = some sq5
    ∧ qCount sq5 + 3 ≤ qDepth sq5 ∧ qDepth sq5 < qCount sq5 + 4 ∧ roceNext (rS (qp .rtr)) { rq0 100 [4] with last := false } (qp .rtr) :=
  ⟨⟨by and_intros <;> decide +kernel, Or.inr rfl, rfl⟩, by decide +kernel, by decide +kernel, by decide +kernel, by decide +kernel, ⟨by and_intros <;> decide +kernel, Or.inl rfl, rfl⟩⟩
theorem witness_FunctionsAndRoce_access : mrAllows (rS (qp .rts)) 2 0x55 0x30040 64 true = true ∧ mrAllows (rS (qp .rts)) 2 0x55 0x30FC1 64 true = false ∧ lineOpen (rS (qp .rts)) 0x30040 64 = false
    ∧ memAvailable (rS (qp .rts)) 0x30040 64 = true ∧ memPoisoned (rS (qp .rts)) 0x30040 64 = none ∧ mrAllows (rS (qp .rts)) 2 0x56 0x30040 64 false = false := by decide +kernel
theorem witness_FunctionsAndRoce_noBook : noBook (rS (qp .rts)) := noBook_ok _ rfl
theorem witness_FunctionsAndRoce_others : (2 ^ 23 ≤ ((qp .rts).expPsn + 2 ^ 24 - 101) % 2 ^ 24) ∧ ((qp .rts).unacked.find? (fun u => u.psn = 40 ∧ u.data = [])).isSome = true ∧ qpFld (qp .rts) 170 168 = 2
    ∧ qpFld (qp .rts) 173 171 = 1 ∧ qpFld (qp .rts) 178 174 = 1 ∧ roceAt (rS (qp .rts)) (rq0 40 []) (qp .rts) := by and_intros <;> decide +kernel
/-- A Send of 64 bytes that has no use here; a read again of the request before; a write of a line with an open entry. -/
def rqRead : Roce := { rq0 99 [] with len := 2 }
def rOpen : State := { rS (qp .rts) with entries := [⟨0x30040, false, ⟨0, 0, true, false, 0, 1, 1⟩, 3, 5, 0, []⟩] }
theorem witness_FunctionsAndRoce_again : roceAt (rS (qp .rts)) rqRead (qp .rts) ∧ rqRead.psn ≠ (qp .rts).expPsn ∧ ((qp .rts).expPsn + 2 ^ 24 - rqRead.psn) % 2 ^ 24 < 2 ^ 23
    ∧ sendKind rqRead.kind = true ∧ sendKind (.invalidate 1) = false ∧ lineOpen rOpen 0x30040 64 = true ∧ (rOpen).paused = [] := by and_intros <;> decide +kernel
theorem witness_FunctionsAndRoce_free : hbmFree (rS (qp .rts)) (qAddr sq5 (qAdd sq5 sq5.pi 2)) 64 ∧ noTensor (rS (qp .rts)) 0x30040 64 :=
  ⟨hbmFree_ok _ _ _ rfl rfl, noTensor_ok _ _ _ (by decide +kernel)⟩
theorem test_rdma_read_again : after (.rdmaRead rqRead) { rS (qp .rts) with hbm := [(0x30040, 6)] } (fun n => (n.sentRoce, (qpOf n 0x77).map (·.expPsn))) = some ([(0x77, .readData 99 [6, 0])], some 100) := by decide +kernel
theorem test_send_invalid : after (.roceSend { rq0 100 [4] with kind := .invalidate 1 }) (rS (qp .rts)) (fun n => (n.sentRoce, (qpOf n 0x77).map (·.expPsn))) = some ([(0x77, .answer 100 .nakInvalid)], some 101) := by decide +kernel
theorem test_function_enable : after (.functionEnable .f0 2) (fnS 0 0 []) (fun n => (fnState n 2, (qOf n 0x2000).map (·.addr), (qOf n 0x2001).map (·.addr))) = some (1, some 0x40000000, some 0x40000100) := by decide +kernel
theorem test_function_disable : after (.functionDisable .f0 2) (fnS 1 0x80000000 []) (fun n => (fnState n 2, (ctxOf n 3).state)) = some (2, .teardown) := by decide +kernel
theorem test_freset : after (.freset .f0 2) (fnS 1 0x80000000 []) (fun n => (fnState n 2, bit (regRaw n (aHost 0xC)) 2, (ctxOf n 3).state)) = some (2, true, .teardown) := by decide +kernel
theorem test_freset_done : after (.fresetTeardownDone 2) { fnS 2 0x80000000 [ses 2, ses 3] with ctxs := [] } (fun n => (fnState n 2, n.sessions.map (·.func), n.queues.map (·.1))) = some (1, [3], [0x2000, 0x2001]) := by decide +kernel
theorem test_roce_send : after (.roceSend (rq0 100 (List.replicate 192 4))) (rS (qp .rts)) (fun n => ((qOf n 0x2005).map (·.pi), hbmRead n 0x200C0 1, n.sentRoce)) = some (some 4, [4], [(0x77, .answer 100 .ack)]) := by decide +kernel
theorem test_roce_send_full : after (.roceSend (rq0 100 (List.replicate 256 4))) (rS (qp .rts)) (fun n => ((qOf n 0x2005).map (·.pi), n.sentRoce)) = some (some 1, [(0x77, .answer 100 .rnr)]) := by decide +kernel
theorem test_rdma_write : after (.rdmaWrite (rq0 100 [8, 9])) (rS (qp .rtr)) (fun n => (hbmRead n 0x30040 2, (qpOf n 0x77).map (·.expPsn), n.sentRoce)) = some ([8, 9], some 101, [(0x77, .answer 100 .ack)]) := by decide +kernel
theorem test_rdma_write_ahead : after (.rdmaWrite (rq0 101 [8, 9])) (rS (qp .rtr)) (fun n => (hbmRead n 0x30040 2, n.sentRoce)) = some ([0, 0], [(0x77, .answer 100 .nakSequence)]) := by decide +kernel
theorem test_rdma_read : after (.rdmaRead { rq0 100 [] with len := 2 }) { rS (qp .rts) with hbm := [(0x30040, 6)] } (fun n => (n.sentRoce, (qpOf n 0x77).map (·.expPsn))) = some ([(0x77, .readData 100 [6, 0])], some 101) := by decide +kernel
theorem test_rdma_read_response : after (.rdmaReadResponse (rq0 40 [5])) (rS (qp .rts)) (fun n => ((qOf n 0x2005).map (fun q => q.hostCopy.map (fun p => (p.1, p.2.take 2))), (qpOf n 0x77).map (fun x => x.unacked.map (·.psn)))) = some (some [(0, [5, 0])], some [41]) := by
  decide +kernel
theorem test_roce_ack : after (.roceAck (rq0 41 []) .ack) (rS (qp .rts)) (fun n => (qpOf n 0x77).map (fun x => x.unacked.map (·.psn))) = some (some [40]) := by decide +kernel
theorem test_roce_nak : after (.roceAck (rq0 41 []) .nakAccess) (rS (qp .rts)) (fun n => (qpOf n 0x77).map (·.state)) = some (some .error) := by decide +kernel
theorem test_cnp : after (.cnp { rq0 41 [] with ecn := true }) (rS (qp .rts)) (fun n => (n.sentRoce, regRaw n (aHost 0x128), regRaw n (aHost 0x130))) = some ([(0x77, .cnp)], 1, 1) := by decide +kernel
theorem test_roce_timeout : after (.roceTimeout 0x77) (rS (qp .rts)) (fun n => ((qpOf n 0x77).map (·.retries), n.sentRoce.length)) = some (some 1, 2) := by decide +kernel

/-! ### Field Books: commands and steps (chapter 14) -/

/-- A plan at 0x60000 with one exclusive region, UWP at waypoint 1; the areas of book 0 lie beyond the context's memory. -/
def planHdr : Nat := 0x5054534B + 1 <<< 32 + 1 <<< 48 + 1 <<< 64 + 1 <<< 80 + 1 <<< 92 + 1 <<< 104 + 9 <<< 128 + 0x70000 <<< 192
def wpsB : List WpEntry := [wpE .stepBegin, wpE .job, wpE .commit, wpE .fin]
/-- Entry 0 of the own book with LIVE, SHARD and COMMITTED, the plan. -/
def bkMem : Tab Byte := memWrite (memWrite [] 0x60000 (toBytes 64 planHdr ++ toBytes 16 (4 + 0x4000000 <<< 48))) 0x40000010 [0x15]
def bcX (cst : CtxState) (f : Book → Book) (l : Tab Word) : State :=
  { withRegs l (withRegs [(aFbk 0 0, 0x30100), (aFbk 0 0x10, 0x60000), (aFbk 0 0x18, 0x40000001), (aFbk 0 0x20, 0x40200000), (aFbk 0 0x28, 0x40800001), (aFbk 0 0x30, 0x40A00000),
      (aFbk 0 0x38, 0x41000001), (aFbk 0 0x40, 0x41000000), (aFbk 0 0x48, 0x41800001), (aFbk 0 0x50, 0x41800000)] (cxS cst (fun x => { x with wps := wpsB }))) with
    books := [(0, f {})], hbm := bkMem }
def bndS (l : Tab Word) : State := bcX .ready (fun x => { x with state := .bound, written := [3], present := [0] }) l
/-- The plan that stands there (its own bytes read back). -/
def planR : Plan := { planB with every := 0, uwp := 1, resume := 0x70000 }
theorem witness_BookCommands_bind : live (bcX .ready id []) = true ∧ mayB .f0 (aFbk 0 0) 4 (bcX .ready id []) = true ∧ (bookOf (bcX .ready id []) 0).state = .unbound ∧ (ctxOf (bcX .ready id []) 3).state = .ready
    ∧ (ctxOf (bcX .created id []) 3).state ≠ .ready ∧ (bookOf (bkP id (digPkt 3 1)) 0).state = .running ∧ mayB .f0 (aFbk 0 0) 4 (bkP id (digPkt 3 1)) = true := by decide +kernel
theorem witness_BookCommands_may : mayWrite .f0 (aFbk 0 0) 4 (bndS []) ∧ mayWrite .f0 (aFbk 0 8) 4 (bndS []) := ⟨mayB_ok _ _ _ _ (by decide +kernel), mayB_ok _ _ _ _ (by decide +kernel)⟩
theorem witness_BookCommands_enable : readPlan (bndS []) 0 = some planR ∧ bookRangesOk (bndS []) 0 planR = true ∧ (bookOf (bndS []) 0).captures = [] ∧ midStep (ctxOf (bndS []) (bookCtx (bndS []) 0)) = false ∧ memberOf (ctxOf (bndS []) 3) 1 = some (1, 4, 6)
    ∧ readPlan (bndS [(aFbk 0 0x10, 0)]) 0 = none ∧ bookRangesOk (bndS [(aFbk 0 0x18, 1)]) 0 planR = false ∧ readPlan (bndS [(aFbk 0 0x18, 1)]) 0 = some planR := by decide +kernel
theorem witness_BookCommands_states : cmdAllowed 1 .unbound = false ∧ cmdAllowed 6 .bound = false ∧ cmdAllowed 2 .bound = true ∧ peerAt (bndS [(aFbk 0 0x88, 9)]) 0 (regRaw (bndS [(aFbk 0 0x88, 9)]) (aFbk 0 0x88)) = none
    ∧ readPlan (bndS [(aFbk 0 0x88, 9)]) 0 = some planR := by decide +kernel
theorem witness_BookCommands_resume : (match resumeCheck (bndS []) 0 (regRaw (bndS []) (aFbk 0 0x70)) planR with | .ok k => k | .error _ => 0) = 2
    ∧ (match resumeCheck (bndS [(aFbk 0 0x70, 1)]) 0 1 planR with | .ok _ => 0 | .error e => e) = 4 := by decide +kernel
theorem witness_BookCommands_packets : wayTo (bndS []) 1 8 ∧ peerAt (bndS [(aFbk 0 0x88, 1)]) 0 (regRaw (bndS [(aFbk 0 0x88, 1)]) (aFbk 0 0x88)) = some (1, 4, 6) ∧ entrySize (bookNt (bndS []) 0) planR / 4096 ≤ 2 ^ 31
    ∧ poolPort (bndS []) = some 7 ∧ portState (bndS []) 7 = 2 ∧ poolPort (bndS [(aBlw 7 0, 1)]) = none ∧ (3 : Nat) ∈ (bookOf (bndS []) 0).written := by and_intros <;> decide +kernel
def haltS : State := bcX .ready (fun x => { x with state := .halted }) []
def cmdS (op res : Nat) (f : Book → Book) : State := bcX .ready (fun x => f { x with state := .busy, present := [0], plan := some { planR with regions := [] }, cmd := some { op := op, arg := 5, back := .bound, slotOf := some (2 ^ 64 - 1), labels := [], result := res } }) []
theorem witness_BookCommands_complete : (bookOf haltS 0).state = .halted ∧ mayB .f0 (aFbk 0 8) 4 haltS = true ∧ cmdWaiting (cmdS 1 0 id) 0 = false ∧ cmdWaiting (cmdS 3 0 (fun x => { x with flight := [(9, .fetch 3)] })) 0 = true
    ∧ newestEntry (cmdS 2 0 id) 0 { planR with regions := [] } = some (0, 0x15 <<< 128) ∧ prevStep 0 = 2 ^ 64 - 1 ∧ exBlocks { planR with regions := [] } = 0 := by decide +kernel
theorem test_book_bind : after (.bookBind .f0 0 3) (bcX .ready id []) (fun n => ((bookOf n 0).state, regRaw n (aFbk 0 0))) = some (.bound, 0x30100) := by decide +kernel
theorem test_book_enable : after (.bookEnable .f0 0) (bndS []) (fun n => ((bookOf n 0).state, (bookOf n 0).peer.map (·.1), bit (regRaw n (aFbk 0 0)) 0)) = some (.running, some 1, true) := by decide +kernel
theorem test_book_enable_bad_range : after (.bookEnable .f0 0) (bndS [(aFbk 0 0x18, 1)]) (fun n => ((bookOf n 0).state, (bookOf n 0).result)) = some (.bound, 3) := by decide +kernel
theorem test_book_resume : after (.bookResume .f0 0) (bndS []) (fun n => ((bookOf n 0).state, (bookOf n 0).resume)) = some (.busy, some (0, 2)) := by decide +kernel
theorem test_book_fetch : after (.fetch .f0 0) (bndS [(aFbk 0 0x70, 7)]) (fun n => (linkOf n 8).queue.map (fun k => (mSub k, mSlot k, mIndex k, mStep k))) = some [(2, 0, 3, 6)] := by decide +kernel
theorem test_book_adopt_no_peer : after (.adopt .f0 0) (bndS [(aFbk 0 0x88, 9)]) (fun n => (bookOf n 0).cmd.map (·.result)) = some (some 6) := by decide +kernel
theorem test_book_replica_wrong_state : after (.replica .f0 0) haltS (fun n => ((bookOf n 0).state, (bookOf n 0).result)) = some (.halted, 1) := by decide +kernel
theorem test_ckpt_restore : after (.ckptRestore .f0 0) (bndS [(aFbk 0 0x70, 40)]) (fun n => (linkOf n 7).queue.map (fun k => (mSub k, mStep k, mJob k))) = some [(5, 40, 9)] := by decide +kernel
theorem test_book_release : after (.bookRelease .f0 0) haltS (fun n => ((bookOf n 0).state, regRaw n (aFbk 0 0), regRaw n (aFbk 0 0x68))) = some (.unbound, 0, 2 ^ 64 - 1) := by decide +kernel
theorem test_book_command_complete : after (.bookCommandComplete 0 true) (cmdS 3 0 id) (fun n => ((bookOf n 0).state, (bookOf n 0).result, (bookOf n 0).stateAt)) = some (.bound, 0, some 4) := by decide +kernel
theorem test_book_command_peer_fail : after (.bookCommandComplete 0 false) (cmdS 3 0 id) (fun n => ((bookOf n 0).state, (bookOf n 0).result)) = some (.bound, 6) := by decide +kernel

/-- Book 0 RUNNING for context 3, which is at COMMIT of step 0 with all tiles, unless f says otherwise. -/
def stepS (g : Ctx → Ctx) (f : Book → Book) : State :=
  { bcX .running (fun x => f { x with state := .running, plan := some planR }) [] with ctxs := [(3, g { run3 with wps := wpsB, next := .at 2, arrived := [0, 1] })] }
def capB (x : Book) : Book := { x with captures := [(.shard, 0)] }
theorem witness_BookSteps_capture : bookCtx (stepS id capB) 0 = 3 ∧ (bookOf (stepS id capB) 0).captures.find? (fun x => !(bookOf (stepS id capB) 0).flight.any (fun f => f.2 == .entry x.1 x.2)) = some (.shard, 0)
    ∧ (ctxOf (stepS id capB) 3).next = .at 2 ∧ (tilesOf (stepS id capB) 3).all (fun t => (ctxOf (stepS id capB) 3).arrived.contains t) = true ∧ wpGate (stepS (fun x => { x with next := .at 1 }) (fun x => { x with capDone := [(.shard, 0)] })) 3 1 (wpE .job) = true
    ∧ wpGate (stepS id (fun x => { x with capDone := [(.shard, 0)] })) 3 2 (wpE .commit) = false
    ∧ (bookOf (stepS id (fun x => { capB x with flight := [(9, .entry .shard 0)] })) 0).flight = [(9, .entry .shard 0)] := by and_intros <;> decide +kernel
theorem witness_BookSteps_quiet : wpQuiet (stepS (fun x => { x with next := .none }) capB) 3 := by
  have h : (ctxOf (stepS (fun x => { x with next := .none }) capB) 3).next = .none := by decide +kernel
  intro i hi; rw [h] at hi; cases hi
def votB (d : BitVec 128) (x : Book) : Book := { x with mineDig := some (0, 5), predDig := some (0, d), complete := some (2 ^ 64 - 1) }
theorem witness_BookSteps_commit : atCommit (stepS id id) 3 = true ∧ (bookOf (stepS id id) 0).mineDig.map (·.1) ≠ some (stepOf (stepS id id) 3) ∧ planR.audit = false ∧ planR.succ ≠ (ctxOf (stepS id id) 3).rank ∧ (stepS id id).entries = [] ∧ piecesOpen (stepS id id) (parityPieces planR 0) = false
    ∧ runningBook (stepS id (votB 5)) 3 = some 0 ∧ (bookOf (stepS id (votB 5)) 0).complete = some (prevStep 0) ∧ stepChecks (stepS id (votB 5)) 0 0 planR = some (true, true) ∧ stepChecks (stepS id (votB 6)) 0 0 planR = some (false, true)
    ∧ stepChecks (stepS id id) 0 0 planR = none := by and_intros <;> decide +kernel
theorem witness_BookSteps_arrives : (ctxOf (stepS id (votB 5)) 3).openMb = [] ∧ fenceGate (stepS id (votB 5)) 3 = true ∧ wpC (ctxOf (stepS id (votB 5)) 3) = 2 ∧ (ctxOf (stepS id (votB 5)) 3).wps[2]? = some (wpE .commit) := by decide +kernel
theorem witness_BookSteps_rank : rankAt (stepS id id) 3 1 1 8 := ⟨⟨(4, 6), by decide +kernel⟩, by decide, by decide +kernel, Or.inl (by decide +kernel)⟩
theorem test_capture_complete : after (.captureComplete 0) (stepS (fun x => { x with next := .at 1 }) capB) (fun n => ((bookOf n 0).captures, (bookOf n 0).capDone, (ctxOf n 3).aLocal)) = some ([], [(.shard, 0)], some 0) := by decide +kernel
/-- SD-128 of no line at step 0 is 0 in both halves but for what the fold of 0 gives. -/
theorem test_replicated_digest : after (.replicatedDigest 0) (stepS id id) (fun n => ((bookOf n 0).mineDig.map (·.1), (linkOf n 8).queue.map (fun k => (pOpc k, pOp k 259 256, kStep k)))) = some (some 0, [(0x28, 3, 0)]) := by decide +kernel
theorem test_vote_yes : after (.vote 0) (stepS id (votB 5)) (fun n => ((ctxOf n 3).myVote.map (·.yes), (ctxOf n 3).aLocal)) = some (some true, some 0) := by decide +kernel

/-! ### Faults and the chip reset (chapter 15) -/

/-- FLT_ACT gives a class and code an action. -/
def actS (cls code a : Nat) (r : FaultRec) : State :=
  { withRegs [(aFlt (0x2000 + cls * 0x80 + code / 8 * 4), BitVec.ofNat 64 (a <<< (4 * (code % 8))))] (torus (inCtx run3)) with faults := [r] }
def ctxRec (cls code : Nat) : FaultRec := { blankFault on cls code 1 4 with ctx := some (3, 5, 0), time := 9, tile := some 0 }
def portRec : FaultRec := { blankFault on 8 1 0x23 4 with detail := 0, time := 9 }
theorem witness_FaultRecords_open : nextRecord (actS 1 1 0 (blankFault on 1 1 0x22 4)) = some (blankFault on 1 1 0x22 4) ∧ openCause (blankFault on 1 1 0x22 4) = true := by decide +kernel
theorem witness_FaultRecords_noBook : noBook (actS 1 1 0 (ctxRec 1 1)) := noBook_ok _ rfl
theorem witness_FaultRecords_actions : nextRecord (actS 5 2 1 (ctxRec 5 2)) = some (ctxRec 5 2) ∧ openCause (ctxRec 5 2) = false ∧ takenAction (actS 5 2 1 (ctxRec 5 2)) (ctxRec 5 2) = 1 ∧ takenAction (actS 5 2 0 (ctxRec 5 2)) (ctxRec 5 2) = 0
    ∧ takenAction (actS 5 2 2 (ctxRec 5 2)) (ctxRec 5 2) = 2 ∧ takenAction (actS 5 2 3 (ctxRec 5 2)) (ctxRec 5 2) = 3 ∧ portRecord (actS 5 2 1 (ctxRec 5 2)) (ctxRec 5 2) = none ∧ ctxBusy (actS 5 2 2 (ctxRec 5 2)) = false := by decide +kernel
theorem witness_FaultRecords_port : nextRecord (actS 8 1 1 portRec) = some portRec ∧ openCause portRec = false ∧ takenAction (actS 8 1 1 portRec) portRec = 1 ∧ portRecord (actS 8 1 1 portRec) portRec = some [3] := by decide +kernel
def waitSt : State := { inCtx run3 with stewards := [(0, { run := .waiting, waitKind := .msend })], tiles := [(0, { ({} : Tile) with vxe := { waiting := true } })], queues := [(0x2001, com1)] }
theorem witness_FaultRecords_waits : live waitSt = true ∧ tileRunning waitSt 0 = true ∧ (stOf waitSt 0 0).run = .waiting ∧ (stOf waitSt 0 0).waitKind ≠ .waypoint ∧ (stOf waitSt 0 0).waitKind ≠ .fenceG ∧ (vxeOf waitSt 0).waiting = true
    ∧ (vxeOf waitSt 0).stopped = false ∧ qOf waitSt (qKey 2 1) = some com1 ∧ mayB .f0 (aFlt 0x38) 4 waitSt = true := by decide +kernel
theorem test_record_filed : after .faultRecord (actS 5 2 0 (ctxRec 5 2)) (fun n => (regRaw n (aFlt 0), bit (regRaw n (aFlt 0x10)) 3, n.faults.length)) = some (1, true, 0) := by decide +kernel
theorem test_record_aborts : after .faultRecord (actS 5 2 1 (ctxRec 5 2)) (fun n => (aborted n 3, (ctxOf n 3).state, (linkOf n 0).queue.map (fun k => (pOpc k, pOp k 263 256)))) = some (true, .held, [(0x30, 1)]) := by decide +kernel
theorem test_record_resets : after .faultRecord (actS 9 1 0 { ctxRec 9 1 with ctx := none }) (fun n => (n.pins.alert, n.rst.map (·.phase))) = some (true, some 0) := by decide +kernel
theorem test_wait_watchdog : after (.waitWatchdog (.st 0 0)) waitSt (fun n => ((stOf n 0 0).run, n.faults.map (fun r => (r.cls, r.code)))) = some (.stopped, [(6, 1)]) := by decide +kernel
theorem test_hang : after (.hang 0x30 2 0) up (fun n => n.faults.map (fun r => (r.cls, r.code, r.unit, r.die))) = some [(9, 1, 0x30, 2)] := by decide +kernel
theorem test_requested_reset : after (.requestedReset .f0) waitSt (fun n => n.faults.map (fun r => (r.cls, r.code))) = some [(10, 8)] := by decide +kernel

/-- A chip reset in a phase; dump slots at 0 and 64 MiB. -/
def rstX (p : Nat) : Reset := { phase := p, t0 := 9, cause := 5, lost := [], dump := some 1, reached := 0, bad := [], nonFree := [3], start := 100 }
def rstS (p : Nat) : State := { withRegs [(aFlt 0x30, 0x4000000)] (torus (inCtx run3)) with rst := some (rstX p) }
def env0 (flash : Bool) : StartEnv := { straps := 0, stackFail := [], edgeFail := [], repaired := [], flashOk := flash, legend := {} }
theorem witness_ChipReset_begin : (rstS 0).rst = some (rstX 0) ∧ (rstX 0).t0 < 2 ^ 64 ∧ dumpSlot (rstS 0) (rstX 0).lost = some 0 ∧ slotBase (rstS 0) 1 = 0x4000000
    ∧ dumpSlot (withRegs ((List.range 20).map (fun k => (aHbmc k 0, 0#64))) (rstS 0)) [] = none ∧ (0 : Nat) ∈ floodPorts (rstS 0) := by decide +kernel
theorem witness_ChipReset_phases : (rstS 3).rst = some (rstX 3) ∧ (rstX 3).phase = 3 ∧ (rstX 3).dump = some 1 ∧ (rstX 3).reached ≤ 645 ∧ (rstX 4).phase = 4 ∧ (env0 false).flashOk = false ∧ (rstX 8).phase = 8 ∧ 9 ≤ (rstX 9).phase
    ∧ (rstX 8).start + 10000000000 < 2 ^ 64 := by decide +kernel
theorem witness_ChipReset_dump : hbmFree (rstS 3) (slotBase (rstS 3) 1) 0x4000000 := hbmFree_ok _ _ _ rfl rfl
def rstF : State := { rstS 4 with ctxs := [(3, { gen := 5 })] }
theorem witness_ChipReset_free : ((List.range 16).all (fun c => decide ((ctxOf rstF c).state = .free))) = true ∧ (rstF.ctxs.map (·.1)).Nodup := by decide +kernel
theorem test_reset_begins : after (.chipReset (env0 true)) (rstS 0) (fun n => (n.rst.map (fun x => (x.phase, x.dump)), n.datums.pend, regRaw n (aFlt 0x100))) = some (some (3, some 0), [(73, 6)], 5) := by decide +kernel
theorem test_reset_flood : after (.chipReset (env0 true)) (rstS 0) (fun n => (linkOf n 0).queue.map (fun k => (pOpc k, pOp k 263 256))) = some [(0x30, 2)] := by decide +kernel
theorem test_dump_part_not_read : after (.dumpReadTimeout 7 12) (rstS 3) (fun n => n.rst.map (fun x => (x.reached, x.bad))) = some (some (8, [(7, 12)])) := by decide +kernel
theorem test_write_back_budget : after (.writeBackBudget 2) (rstS 4) (fun n => n.rst.map (·.lost)) = some (some [2]) := by decide +kernel
theorem test_reset_without_flash : after (.chipReset (env0 false)) rstF (fun n => (n.rst.map (·.phase), fld (regRaw n (aCmps 0)) 31 24, n.ctxs.map (fun c => (c.1, c.2.gen.toNat)))) = some (some 8, 4, [(3, 5)]) := by decide +kernel
theorem test_boot_timeout : after .bootTimeout (rstS 8) (fun n => (now n, n.faults.map (fun r => (r.cls, r.code)))) = some (10000000100, [(10, 7)]) := by decide +kernel
theorem test_ready_timeout : after .readyTimeout (rstS 9) (fun n => n.faults.map (fun r => (r.cls, r.code))) = some [(10, 7)] := by decide +kernel

/-! ### Power, clocks and the sideband (chapters 18, 19) -/

/-- Every pair on, pair 5 free. -/
def pwS (l : Tab Word) : State := withRegs l (withRegs [(aPwrc 0x18, 0xFFFFFFFFFFFFFFFF)] (inCtx run3))
def swS (o : Bool) : State := { pwS [] with power := { switching := [(pairDomain 5, o)] } }
def rail1 (mV : Nat) (f : Bool) : List RailSample := { mV := mV, cA := 100, fault := f } :: List.replicate 15 { mV := 0, cA := 0, fault := false }
theorem witness_PowerDomainsAndRails_switch : live (pwS []) = true ∧ mayB .f0 (aPwrc 0x18) 8 (pwS []) = true ∧ bit (regRaw (pwS []) (aPwrc 0x18)) 5 = true ∧ pairFree (pwS []) 5 = true ∧ pairFree (pwS []) 0 = false
    ∧ (0xFFFFFFFFFFFFFFDF : Word).toNat = setBit (regRaw (pwS []) (aPwrc 0x18)) 5 false ∧ (0xFFFFFFFFFFFFFFFE : Word).toNat = setBit (regRaw (pwS []) (aPwrc 0x18)) 0 false := by decide +kernel
theorem witness_PowerDomainsAndRails_may : mayWrite .f0 (aPwrc 0x18) 8 (pwS []) := mayB_ok _ _ _ _ (by decide +kernel)
/-- The survey is in a step on tile 10, of pair 5. -/
def heldS : State := { pwS [] with tiles := (pairTiles 5).map (fun t => (t, { ({} : Tile) with ports := { walk := 3 } })) }
theorem witness_PowerDomainsAndRails_waits : (pwS []).power.enWait = [] ∧ enHeld (pwS []) 0xFFFFFFFFFFFFFFDF = false ∧ enHeld heldS 0xFFFFFFFFFFFFFFDF = true ∧ pairFree heldS 5 = true := by decide +kernel
theorem test_tile_en_waits : after (.tileEn .f0 0xFFFFFFFFFFFFFFDF) heldS (fun n => (regRaw n (aPwrc 0x18), n.power.enWait)) = some (0xFFFFFFFFFFFFFFFF, [(.f0, 0xFFFFFFFFFFFFFFDF)]) := by decide +kernel
theorem witness_PowerDomainsAndRails_end : (swS true).power.switching.find? (fun x => x.1 = 18 * 0 + 5) = some (5, true) ∧ (swS false).power.switching.find? (fun x => x.1 = 18 * 0 + 5) = some (5, false) := by decide +kernel
theorem witness_PowerDomainsAndRails_rails : (rail1 1000 true).length = 16 ∧ ((rail1 1000 true).map (fun x => x.mV * x.cA)).sum % 100000 = 0 ∧ bit (regRaw (pwS []) (aPwrc 0x100)) 16 = false
    ∧ fld (regRaw (withRegs [(aPwrc 0x24, 0)] (pwS [])) (aPwrc 0x24)) 23 12 * 100000 < ((rail1 1000 true).map (fun x => x.mV * x.cA)).sum ∧ railOut 1000 800 = true ∧ railOut 1000 1000 = false := by decide +kernel
theorem witness_PowerDomainsAndRails_dies : ([200, 50, 50, 50, 50, 50] : List Nat).length = 6 ∧ (pwS []).legend.dieCrit ≤ 255 ∧ (Instr.synthesiserLockLoss 3, 11) = (.synthesiserLockLoss 3, 8 + 3) := by decide +kernel
theorem test_tile_en : after (.tileEn .f0 0xFFFFFFFFFFFFFFDF) (pwS []) (fun n => (regRaw n (aPwrc 0x18), n.power.switching)) = some (0xFFFFFFFFFFFFFFDF, [(5, false)]) := by decide +kernel
theorem test_tile_en_in_use : after (.tileEn .f0 0xFFFFFFFFFFFFFFFE) (pwS []) (fun n => (regRaw n (aPwrc 0x18), n.faults.length)) = some (0xFFFFFFFFFFFFFFFF, 1) := by decide +kernel
theorem test_domain_switch_end : after (.domainSwitchEnd 0 5) (swS false) (fun n => (domainOn n 5, domainOn n 6)) = some (false, true) := by decide +kernel
/-- 1000 mV at 1 A is 1 W: the report says 1. -/
theorem test_rail_sample : after (.railSample (rail1 1000 false)) (pwS []) (fun n => (n.power.samples, fld (regRaw n (aPwrc 0x20)) 15 0, fld (regRaw n (aPwrc 0x100)) 47 32)) = some ([100000], 1, 1000) := by decide +kernel
theorem test_rail_fault : after (.railSample (rail1 1000 true)) (pwS []) (fun n => n.faults.map (fun r => (r.cls, r.code, r.unit))) = some [(10, 6, 0x28)] := by decide +kernel
theorem test_die_temperature : after (.dieTemperatureSample [40, 41, 42, 43, 44, 45]) (pwS []) (fun n => (dieTemp n 0, dieTemp n 5)) = some (40, 45) := by decide +kernel
theorem test_reference_loss : after (.referenceLoss true) (withRegs [(aClkc, 0xEF03)] (pwS [])) (fun n => (regRaw n aClkc, n.faults.map (fun r => (r.cls, r.code)))) = some (0xEF01, [(10, 6)]) := by decide +kernel
theorem test_synthesiser_lock_loss : after (.synthesiserLockLoss 3) (withRegs [(aClkc, 0xEF03)] (pwS [])) (fun n => regRaw n aClkc) = some 0xE703 := by decide +kernel

/-- An unpowered module, and one in its slot that may take a position: X 1, Y 0, Z 0 in a machine of 4 × 2 × 2. -/
def posV : BitVec 32 := 0x01130001
def posS : State := { up with pins := { pwrEn := true, prsnt := true, safe := true, slotId := 1 } }
theorem witness_PowerAndPins_off : ({} : State).pins.pwrEn = false ∧ (env0 false).flashOk = false ∧ (env0 true).edgeFail = [] ∧ up.pins.pwrEn = true := by decide +kernel
theorem witness_PowerAndPins_removal : ((List.range 16).all (fun c => decide ((ctxOf up c).state = .free))) = true ∧ fld (regRaw up (aPwrc 0)) 7 4 < 6 ∧ 6 ≤ fld (regRaw (withRegs [(aPwrc 0, 0x90)] up) (aPwrc 0)) 7 4 := by decide +kernel
theorem witness_PowerAndPins_pos : posS.pins.safe = true ∧ sbPosOk posS posV.toNat = true ∧ sbPosOk posS 0 = false ∧ posS.pins.alert = false ∧ ({ posS with pins := { posS.pins with alert := true } } : State).pins.alert = true := by decide +kernel
theorem test_power_up_without_flash : after (.powerUp (env0 false)) {} (fun n => (n.rst.map (·.phase), fld (regRaw n (aCmps 0)) 31 24, regRaw n aClkc, n.pins.safe)) = some (some 8, 4, 0xEF03, true) := by decide +kernel
theorem test_power_loss : after .powerLoss { pwS [] with hbm := [(5, 1)] } (fun n => (n.regs.length, n.hbm.length, n.pins.pwrEn)) = some (0, 0, false) := by decide +kernel
theorem test_surprise_removal : after .surpriseRemoval (pwS []) (fun n => (n.pins.pwrEn, n.pins.prsnt)) = some (false, false) := by decide +kernel
theorem test_planned_removal : after .plannedRemoval up (fun n => (n.pins.pwrEn, n.regs.length)) = some (false, 0) := by decide +kernel
/-- X of the module: 2 × 1 + 1 = 3. -/
theorem test_sb_pos : after (.sbPos posV) posS (fun n => (ownDev n, n.pins.posWritten)) = some (3, true) := by decide +kernel
theorem test_sb_status_read : after .sbStatusRead { posS with pins := { posS.pins with alert := true } } (fun n => (n.pins.alert, n.pins.sbSent.length)) = some (false, 1) := by decide +kernel
theorem test_alert_response : after .alertResponse { posS with pins := { posS.pins with alert := true } } (fun n => n.pins.sbSent) = some [0x59] := by decide +kernel

/-! ### The service mailbox and the Compass cores (chapter 16) -/

/-- A request in the mailbox, F0's queue range at 1 GiB. -/
def rqRegs (v : Nat) : Tab Word :=
  ((List.range 32).map (fun i => (aCmps (0x100 + 8 * i), BitVec.ofNat 64 (v >>> (64 * i))))) ++ [(aCmps 8, 1), (aFn 0 0x20, 0x40000000), (aFn 0 0x28, 0x40000000)]
def rqS (v : Nat) (fl : Tab Byte) : State := { withRegs (rqRegs v) up with compass := { busy := true, flash := fl } }
/-- A boot record with slot 1 pending. -/
def recMem : Tab Byte :=
  [(0, 87), (1, 78), (2, 66), (3, 82), (4, 5), (5, 0), (6, 0), (7, 0), (8, 0), (9, 48)] ++ (List.range 50).map (fun i => (10 + i, 0#8)) ++ [(60, 18), (61, 36), (62, 76), (63, 203)]
def recB : List Byte := [87, 78, 66, 82, 5, 0, 0, 0, 0, 48] ++ List.replicate 50 0#8
theorem rec_crc : crc32c recB = 0xcb4c2412 := by
  unfold crc32c
  rw [← accF_eq]
  decide +kernel
theorem bootCopy_of (s : State) (i : Nat) (d : List Byte) (v : Nat) (c : BitVec 32) (hd : flashRead s (0x8000 * i) 64 = d) (hv : ofBytes d = v) (hc : crc32c (d.take 60) = c)
    (h : fld v 31 0 = 0x52424E57 ∧ fld v 511 480 = c.toNat) : bootCopy s i = some v := by
  unfold bootCopy
  simp only [hd, hv, hc]
  rw [if_pos h]
theorem flashRead_eq (s : State) (t : Tab Byte) (h : s.compass.flash = t) (a n : Nat) : flashRead s a n = takeRun erased n a (t.dropWhile (fun p => decide (p.1 < a))) := by subst h; rfl
def recV : Nat := 0x52424E57 + 5 <<< 32 + 1 <<< 76 + 1 <<< 77 + 0xcb4c2412 <<< 480
theorem rec_read (v : Nat) : bootRecord (rqS v recMem) = (0, recV) := by
  have h0 : bootCopy (rqS v recMem) 0 = some recV :=
    bootCopy_of _ 0 (recB ++ [18, 36, 76, 203]) recV _ ((flashRead_eq _ recMem rfl _ _).trans (by decide +kernel)) (by decide +kernel) (by rewrite [show List.take 60 (recB ++ [18, 36, 76, 203]) = recB by decide +kernel]; exact rec_crc) (by decide +kernel)
  have h1 : bootCopy (rqS v recMem) 1 = none := by
    unfold bootCopy
    rw [show flashRead (rqS v recMem) (0x8000 * 1) 64 = List.replicate 64 0xFF#8 from (flashRead_eq _ recMem rfl _ _).trans (by decide +kernel)]
    decide +kernel
  unfold bootRecord
  rw [h0, h1]
theorem signLoop_length (d e n : Nat) (k v : List Byte) : (signLoop d e n k v).length = 0 ∨ (signLoop d e n k v).length = 64 := by
  induction n generalizing k v with
  | zero => exact Or.inl rfl
  | succ n ih =>
    unfold signLoop
    dsimp only
    split
    · exact Or.inr (by simp [toBe, toBytes])
    · exact ih _ _
theorem witness_ServiceRequests_reserved : reqAt (rqS (1 + 1 <<< 100) []) 0x01 (1 + 1 <<< 100) ∧ reqReserved (1 + 1 <<< 100) = true ∧ reqReserved (1 + 7 <<< 16) = false ∧ reqAt (rqS (1 + 7 <<< 16) []) 0x01 (1 + 7 <<< 16) := by
  and_intros <;> decide +kernel
theorem witness_ServiceRequests_quiet (v : Nat) (h : v = 1 ∨ v = 0x11) : quiet (rqS v []) := by rcases h with rfl | rfl <;> exact quiet_of _ (by decide +kernel)
def atV (a : Nat) : Nat := 2 + a <<< 64
theorem witness_ServiceRequests_attest (g : List Byte) (hg : g = ecdsaSign (identityKey (rqS (atV 0x40000000) [])) (sha256 (reportBody (fld (atV 0x40000000) 383 128) (rqS (atV 0x40000000) [])))) :
    reqAt (rqS (atV 0x40000000) []) 0x02 (atV 0x40000000) ∧ serviceRange (rqS (atV 0x40000000) []) 0x40000000 384 = true ∧ memAvailable (rqS (atV 0x40000000) []) 0x40000000 (320 + g.length) = true
    ∧ serviceRange (rqS (atV 0x50000000) []) 0x50000000 384 = false ∧ reqAt (rqS (atV 0x50000000) []) 0x02 (atV 0x50000000) := by
  refine ⟨by and_intros <;> decide +kernel, by decide +kernel, ?_, by decide +kernel, by and_intros <;> decide +kernel⟩
  have h : g.length = 0 ∨ g.length = 64 := by rw [hg]; exact signLoop_length _ _ _ _ _
  rcases h with h | h <;> rw [h] <;> decide +kernel
theorem witness_ServiceRequests_free (v n : Nat) : hbmFree (rqS v []) 0x40000000 n := hbmFree_ok _ _ _ rfl rfl
def certMem : Tab Byte := [(0x10000, 0x30), (0x10001, 2), (0x10002, 5), (0x10003, 6)]
def crV : Nat := 3 + 0x40000000 <<< 64
theorem witness_ServiceRequests_certificate : reqAt (rqS crV certMem) 0x03 crV ∧ certificate (rqS crV certMem) = [0x30, 2, 5, 6] ∧ serviceRange (rqS crV certMem) 0x40000000 4 = true ∧ memAvailable (rqS crV certMem) 0x40000000 4 = true := by
  and_intros <;> decide +kernel
/-- A Legend image with one table of TYPE 3, two bytes long. -/
def lgImg : List Byte := toBytes 64 (0x474C4E57 + 1 <<< 32 + 1 <<< 48) ++ toBytes 16 (3 + 80 <<< 32 + 2 <<< 64) ++ [7, 8]
def lgV (t : Nat) : Nat := 0x13 + t <<< 64 + 0x40000000 <<< 128
def lgS (t : Nat) : State := { withRegs (rqRegs (lgV t)) up with compass := { busy := true, legendImg := lgImg } }
theorem witness_ServiceRequests_legend : reqAt (lgS 3) 0x13 (lgV 3) ∧ (legendDir (lgS 3).compass.legendImg).bind (fun es => legendTable (lgS 3).compass.legendImg es (fld (lgV 3) 79 64)) = some [7, 8]
    ∧ serviceRange (lgS 3) 0x40000000 2 = true ∧ memAvailable (lgS 3) 0x40000000 2 = true ∧ (legendDir (lgS 4).compass.legendImg).bind (fun es => legendTable (lgS 4).compass.legendImg es (fld (lgV 4) 79 64)) = none := by
  and_intros <;> decide +kernel
def sgV (len : Nat) : Nat := 0x10 + 0x40000000 <<< 64 + len <<< 128
theorem witness_ServiceRequests_stage : reqAt (rqS (sgV 0x100) []) 0x10 (sgV 0x100) ∧ 0x100 ≤ flashSlotSize ∧ flashSlotSize < 0x2000001 ∧ reqAt (rqS (sgV 0x2000001) []) 0x10 (sgV 0x2000001) ∧ serviceRange (rqS (sgV 0x100) []) 0x40000000 0x100 = true
    ∧ serviceRange (rqS (sgV 0x200001) []) 0x40000000 0x200001 = false ∧ recPend (bootRecord (rqS (sgV 0x100) [])).2 = false := by and_intros <;> decide +kernel
def slV (i : Nat) : Nat := 0x11 + i <<< 64
theorem witness_ServiceRequests_select : reqAt (rqS (slV 0) []) 0x11 (slV 0) ∧ recActive (bootRecord (rqS (slV 0) [])).2 = 0 ∧ reqAt (rqS (slV 2) []) 0x11 (slV 2) ∧ reqAt (rqS (slV 0xFF) recMem) 0x11 (slV 0xFF)
    ∧ recPend (bootRecord (rqS (slV 0xFF) [])).2 = false := by and_intros <;> decide +kernel
/-- A signed slot with empty images, its key's hash in the fuses; its hashes and its signature were made with another implementation. -/
def sgBytes : List Byte := toBytes 256 0x634eb2225f26aaa101db198fd97786ed9931414ac339398d0b6e0dba4ed2d7fe69556c4171fa18e7738bcd642c8025ec7cab599f373541883e1b0d9a1e9d8c499bb29de7d5c7d228ba038d44e77979edb916112e4395e3a0a19fe9f9bb50d8fa746db64f2fa217790b23fe50dede4b2a836c2107e32f9c2ab47dc5a153e1ab2655b852781b9995a44c939b64e441ae2724b96f99c8f4fb9a141cfc9842c4b0e355b852781b9995a44c939b64e441ae2724b96f99c8f4fb9a141cfc9842c4b0e30000000000000000000000000000000000000000000000000000000000000202000000000000010000000000000001000001000200000003000000014d464e57
def signedFuses : Fuses := { rootHash := [(2, BitVec.ofNat 256 0x1bb8e013ffd3d1b5e2973d7488f4ed84c70d6d8d48db4fcc9a7e13e3d7c221e)] }
def sgS : State := { rqS (slV 1) (listed erased 1 (flashSlot 1) sgBytes) with fuses := signedFuses }
theorem test_slot_valid : slotValid sgS 1 = true ∧ slotValid sgS 0 = false := by decide +kernel
theorem witness_ServiceRequests_selectable : reqReserved (slV 1) = false ∧ reqAt sgS 0x11 (slV 1) ∧ 1 ≠ recActive (bootRecord sgS).2 ∧ slotValid sgS 1 = true :=
  ⟨by decide +kernel, by and_intros <;> decide +kernel, by decide +kernel, test_slot_valid.1⟩
theorem witness_ServiceRequests_selectable_sorted : quiet sgS ∧ flashSorted sgS :=
  ⟨quiet_of _ (by decide +kernel), by show ((listed erased 1 (flashSlot 1) sgBytes).map (·.1)).Pairwise (· < ·); decide +kernel⟩
/-- A signed slot 0 whose Legend image sets the timeouts and the second dump slot. -/
def bsLegend : List Byte := toBytes 320 0x2faf080000004fc012000000000003c00000000000008fc0010003000000000000186a0000004fc001000240000000000989680000004fc0010002000000000000f4240000004fc0010001c000000003b9aca00000004fc001000180000000002faf080000004f8033f00000000000002faf080000004f8023f00000000000002faf080000004f8013f00000000000002faf080000004f8003f0000000000000000003400000940000000060000000000000800000001400000000500000000000000000000014000000004000000000000000000000140000000030000000000000000000001400000000200000000000000a0000000a000000001000000000000000000000000000000000000000000000000000000000000000000000000000000000000000000000000000000000000000000060001474c4e57 ++ List.replicate 2100 0#8
def bsFlash (i : Nat) : Tab Byte := listed erased 1 (flashSlot i) (toBytes 256 0x4ec3c1b5532a584fb1b0727d478af99aa3629db8c5297d86157b0f95c00a36624b6a6518767758118819819c931bf55cecdafd12ca53c4e36e24338ed985a4729bb29de7d5c7d228ba038d44e77979edb916112e4395e3a0a19fe9f9bb50d8fa746db64f2fa217790b23fe50dede4b2a836c2107e32f9c2ab47dc5a153e1ab269bbe85ed94e8a156a679435491f0f09058b5d933cc3e230ca4a6a5de1e4e8d1d6a806a9be8776c6e35c5b39fe701026f9b6c2947b4b6ab1f137fb9e147a7649f0000000000000000000000000000000000000000000000000000000000000202000009740000014000000004000001000001000200000003000000014d464e57 ++ [1, 2, 3, 4] ++ List.replicate 60 0xFF#8 ++ bsLegend)
def bsS : State := { fuses := signedFuses, compass := { flash := bsFlash 0 } }
def bsE : StartEnv := { straps := 0, stackFail := [], edgeFail := [], repaired := [], flashOk := true, legend := {} }
def bsEnts : List (Nat × Nat × Nat) := [(1065156018176,4,50000000),(1065172795392,4,50000000),(1065189572608,4,50000000),(1065206349824,4,50000000),(1082331758592+0x100018,4,1000000000),(1082331758592+0x10001C,4,1000000),(1082331758592+0x100020,4,10000000),(1082331758592+0x100024,4,100000),(1082331758592+0x100030,8,0x3C00000000),(1082331758592+0x1200000,4,50000000)]
/-- The FAULT_ACTIONS table writes no register that the rules look at. -/
theorem actions_keep (d : List Byte) (s : State) : legendRules (loadActions d s) = legendRules s := by
  have h : ∀ (l : List Nat) (x : State), (∀ i ∈ l, i < 512) →
      (∀ a, (a < aFlt 0x2000 ∨ aFlt 0x2800 ≤ a) → regRaw (l.foldl (fun s i => (fltWrite (0x2000 + 4 * i) (ofBytes ((d.drop (4 * i)).take 4)) s).getD s) x) a = regRaw x a)
      ∧ (l.foldl (fun s i => (fltWrite (0x2000 + 4 * i) (ofBytes ((d.drop (4 * i)).take 4)) s).getD s) x).legend = x.legend := by
    intro l
    induction l with
    | nil => intro x _; exact ⟨fun _ _ => rfl, rfl⟩
    | cons i r ih =>
      intro x hl
      have hi := hl i (List.mem_cons_self ..)
      have hr : ∀ j ∈ r, j < 512 := fun j hj => hl j (List.mem_cons_of_mem _ hj)
      have h1 : ∀ v, (∀ a, (a < aFlt 0x2000 ∨ aFlt 0x2800 ≤ a) → regRaw ((fltWrite (0x2000 + 4 * i) v x).getD x) a = regRaw x a)
          ∧ ((fltWrite (0x2000 + 4 * i) v x).getD x).legend = x.legend := by
        intro v
        have n1 : ¬ 0x2000 + 4 * i = 0x38 := by omega
        have n2 : ¬ 0x2000 + 4 * i = 0x10 := by omega
        have n3 : ¬ (0x18 ≤ 0x2000 + 4 * i ∧ 0x2000 + 4 * i ≤ 0x24) := by omega
        unfold fltWrite
        rw [if_neg n1, if_neg n2, if_neg n3]
        split
        · exact ⟨fun _ _ => rfl, rfl⟩
        · split
          · refine ⟨fun a ha => ?_, rfl⟩
            refine regRaw_regPut_ne _ _ _ ?_
            simp only [aFlt, aGlob] at ha ⊢
            omega
          · exact ⟨fun _ _ => rfl, rfl⟩
      rw [List.foldl_cons]
      have h2 := ih ((fltWrite (0x2000 + 4 * i) (ofBytes ((d.drop (4 * i)).take 4)) x).getD x) hr
      have h3 := h1 (ofBytes ((d.drop (4 * i)).take 4))
      exact ⟨fun a ha => (h2.1 a ha).trans (h3.1 a ha), h2.2.trans h3.2⟩
  have k := h (List.range 512) s (fun i hi => List.mem_range.1 hi)
  rw [show (List.range 512).foldl (fun s i => (fltWrite (0x2000 + 4 * i) (ofBytes ((d.drop (4 * i)).take 4)) s).getD s) s = loadActions d s by unfold loadActions; rfl] at k
  obtain ⟨k1, k2⟩ := k
  have q : ∀ a, decide (a < aFlt 0x2000 ∨ aFlt 0x2800 ≤ a) = true → regRaw (loadActions d s) a = regRaw s a := fun a ha => k1 a (of_decide_eq_true ha)
  have l : ∀ l : List Nat, l.all (fun a => decide (a < aFlt 0x2000 ∨ aFlt 0x2800 ≤ a)) = true →
      l.all (fun a => decide (regRaw (loadActions d s) a ≠ 0)) = l.all (fun a => decide (regRaw s a ≠ 0)) := by
    intro l hl
    induction l with
    | nil => simp only [List.all_nil]
    | cons b r ih =>
      rw [List.all_cons, Bool.and_eq_true] at hl
      rw [List.all_cons, List.all_cons, q b hl.1, ih hl.2]
  unfold legendRules
  rw [k2, q (aGlob 0x100028) (by decide +kernel), q (aGlob 0x100030) (by decide +kernel), l _ (by decide +kernel)]
/-- The tables are applied where the REGISTERS entries are performed and the rules hold then. -/
theorem apply_ok (l : Legend) (img : List Byte) (s : State) (t : LegendTables) (ht : legendTables img = some t) (ho : legendOk l = true)
    (h : (loadRegisters t.registers (legendZero s)).map (fun x => legendRules { x with legend := { l with weights := t.health } }) = some true) :
    ∃ n, applyLegend l img s = .ok n := by
  unfold applyLegend
  rw [ht]
  dsimp only
  cases e : loadRegisters t.registers (legendZero s) with
  | none => rw [e] at h; cases h
  | some x =>
    rw [e] at h
    dsimp only
    have h1 : legendRules { x with legend := { l with weights := t.health } } = true := Option.some.inj h
    rw [if_pos ho, if_pos (by rw [actions_keep]; exact h1)]
    exact ⟨_, rfl⟩
theorem boot_ok (env : StartEnv) (s t : State) (i m : Nat) (img : List Byte) (hf : env.flashOk = true) (hc : chooseSlot true s = (i, t)) (hv : slotValid t i = true)
    (hm : manifestOf t i = m) (hi : slotLegend t i m = img)
    (h : ∃ n, applyLegend env.legend img (showPending (regMod (aCmps 0) (fun v => setFld (setFld v 15 15 i) 11 8 15)
      { t with compass := { t.compass with booted := i, manifest := BitVec.ofNat 2048 m, legendImg := img } })) = .ok n) : ∃ b, boot true env s = (true, b) := by
  obtain ⟨n, hn⟩ := h
  have e : validSlot i t = (some i, t) := by unfold validSlot; rw [if_pos hv]
  refine ⟨n, ?_⟩
  unfold boot
  rw [hf, hc]
  dsimp only [Bool.not_true]
  rw [if_neg (by decide), e]
  dsimp only
  rw [hm, hi, hn]
theorem choose_none (s : State) (h : bootRecord s = (1, 0)) : chooseSlot true s = (0, s) := by
  unfold chooseSlot
  rw [h]
  rfl
theorem boots : ∃ b, boot true bsE (powerBegin bsE bsS) = (true, b) := by
  refine boot_ok bsE (powerBegin bsE bsS) (powerBegin bsE bsS) 0 _ bsLegend rfl (choose_none _ (by decide +kernel)) (by decide +kernel) rfl (by decide +kernel) ?_
  refine apply_ok _ _ _ { registers := bsEnts, actions := List.replicate 2048 0, health := List.replicate 13 (0, 0) } (by decide +kernel) (by decide +kernel) ?_
  decide +kernel
theorem witness_PowerAndPins_boot : bsS.pins.pwrEn = false ∧ bsE.edgeFail = [] ∧ ∃ b, boot true bsE (powerBegin bsE bsS) = (true, b) := ⟨rfl, rfl, boots⟩
theorem witness_ServiceRequests_pending : recPend (bootRecord (rqS (slV 0xFF) recMem)).2 = true := by rw [rec_read]; decide +kernel
theorem witness_ServiceRequests_sorted : flashSorted (rqS (slV 0xFF) recMem) ∧ flashSorted (rqS (slV 0) []) := by
  constructor
  · show (recMem.map (·.1)).Pairwise (· < ·); decide +kernel
  · exact List.Pairwise.nil
def coV (k : Nat) : Nat := 0x12 + k <<< 64
theorem witness_ServiceRequests_commit : reqAt (rqS (coV 0xFFFFFFFF) []) 0x12 (coV 0xFFFFFFFF) ∧ manSvn (manifestOf (rqS (coV 0xFFFFFFFF) []) (recActive (bootRecord (rqS (coV 0xFFFFFFFF) [])).2)) = 0xFFFFFFFF
    ∧ ({ rqS (coV 3) [] with fuses := { fsvn := 4 } } : State).fuses.fsvn = 4 ∧ reqAt { rqS (coV 3) [] with fuses := { fsvn := 4 } } 0x12 (coV 3) := by and_intros <;> decide +kernel
def failS (v : Nat) : State := withRegs [(aCmps 0x20, 2)] (rqS v [])
theorem witness_ServiceRequests_response : coreState (rqS 5 []) 0 = 0 ∧ knownOps.contains (fld (reqOf (rqS 5 [])) 7 0) = false ∧ bit (regRaw (rqS 5 []) (aCmps 8)) 0 = true ∧ (rqS 5 []).compass.busy = true ∧ live (rqS 5 []) = true
    ∧ coreState (failS 5) 0 = 2 ∧ knownOps.contains (fld (reqOf (rqS 1 [])) 7 0) = true := by decide +kernel
def stat (n : State) : Option Nat := n.compass.answer.map (fun d => fld (ofBytes d) 15 8)
theorem test_identity_reserved : after .identity (rqS (1 + 1 <<< 100) []) stat = some (some 2) := by decide +kernel
theorem test_attest_outside : after .attest (rqS (atV 0x50000000) []) stat = some (some 3) := by decide +kernel
theorem test_cert_read : after (.certRead .ok) (rqS crV certMem) (fun n => (n.compass.answer.map (fun d => fld (ofBytes d) 159 128), hbmRead n 0x40000000 4)) = some (some 4, [0x30, 2, 5, 6]) := by decide +kernel
theorem test_cert_read_error : after (.certRead .error) (rqS crV certMem) stat = some (some 5) := by decide +kernel
theorem test_stage_error : after (.stage .error) (rqS (sgV 0x100) [(flashSlot 1, 3), (flashSlot 0, 3)]) (fun n => (stat n, n.compass.flash.map (·.1))) = some (some 5, [flashSlot 0]) := by decide +kernel
theorem test_select_active : after (.select .ok) (rqS (slV 0) []) stat = some (some 6) := by decide +kernel
theorem test_select_no_slot : after (.select .ok) (rqS (slV 2) []) stat = some (some 2) := by decide +kernel
theorem test_commit_svn : after .commitSvn (rqS (coV 9) []) (fun n => (n.fuses.fsvn, stat n)) = some (9, some 0) := by decide +kernel
theorem test_legend_read : after .legendRead (lgS 3) (fun n => (stat n, hbmRead n 0x40000000 2)) = some (some 0, [7, 8]) := by decide +kernel
theorem test_service_response_reserved_op : after .serviceResponse (rqS (5 + 9 <<< 16) []) (fun n => (regRaw n (aCmps 0x200), regRaw n (aCmps 8), n.compass.busy)) = some (5 + 1 <<< 8 + 9 <<< 16, 0, false) := by decide +kernel

theorem witness_CoreRestarts : live up = true ∧ coreState up 2 = 0 ∧ coreState (withRegs [(aCmps 0x28, 1)] up) 2 = 1 ∧ coreRuns up 0 = true ∧ coreRuns (withRegs [(aCmps 0x20, 1)] up) 0 = false ∧ coreState up 3 ≠ 1 := by decide +kernel
theorem witness_CoreRestarts_quiet : quiet up := quiet_of _ (by decide +kernel)
theorem test_core_watchdog : after (.coreWatchdog 2) up (fun n => (coreState n 2, fld (regRaw n (aCmps 0x28)) 23 16, n.faults.map (fun r => (r.cls, r.code)))) = some (1, 1, [(12, 1)]) := by decide +kernel
theorem test_core_restart_third : after (.coreRestart 1 3) { up with compass := { restarts := [0, 0] } } (fun n => (bit (regRaw n (aCmps 0)) 2, n.faults.map (fun r => (r.cls, r.code)))) = some (true, [(12, 1), (12, 2)]) := by decide +kernel
theorem test_restart_end : after (.restartEnd 2 false) (withRegs [(aCmps 0x28, 1)] up) (fun n => coreState n 2) = some 2 ∧ after (.restartEnd 2 true) (withRegs [(aCmps 0x28, 1)] up) (fun n => coreState n 2) = some 0 := by decide +kernel
theorem test_atlas_write_error : after (.atlasWrite .error) { up with compass := { flash := [(atlasBase, 3), (atlasBase + 0x10000, 3), (atlasBase + 0x20000, 3)] } } (fun n => (n.compass.flash.map (·.1), bit (regRaw n (aAtl 4)) 1)) = some ([atlasBase, atlasBase + 0x20000], true) := by
  decide +kernel

/-! ### The Datum and the Atlas (chapter 17) -/

/-- Every source enabled and ARM set. -/
def dtS (ctl : Nat) (d : Datums) : State := { withRegs [(aDat 0, BitVec.ofNat 64 ctl), (aDat 0x20, 500), (aDat 0x18, 700)] (merS 0 [] id) with datums := d }
def allOn : Nat := 0x3E01
def fdPk (t : Nat) : Packet := mkPacket (withRegs [(aBlw 0 0x8000, 0x10000)] on) { opc := 0x48, vc := 7, dst := 0, op := 3 <<< 8 + 6 <<< 16 + t <<< 32 } []
def fdS (ctl t : Nat) (seen : List (Nat × Nat)) : State := { dtS ctl { seen := seen } with links := [(8, { inbox := [fdPk t] })] }
theorem witness_DatumAndAtlas_commands : live (dtS allOn {}) = true ∧ mayB .f0 (aDat 8) 4 (dtS allOn {}) = true ∧ srcEnabled (dtS allOn {}) 5 = true ∧ srcEnabled (dtS 1 {}) 5 = false ∧ now (dtS allOn {}) < regRaw (dtS allOn {}) (aDat 0x20)
    ∧ regRaw (withRegs [(aDat 0x20, 0)] (dtS allOn {})) (aDat 0x20) ≤ now (dtS allOn {}) ∧ (0 : Nat) ∈ floodPorts (dtS allOn {}) := by decide +kernel
theorem witness_DatumAndAtlas_may : mayWrite .f0 (aDat 8) 4 (dtS allOn {}) := mayB_ok _ _ _ _ (by decide +kernel)
theorem witness_DatumAndAtlas_fabric : mgmtAt (fdS allOn 900 []) 8 3 (fdPk 900) ∧ pOp (fdPk 900) 351 288 = 900 ∧ (fdS allOn 900 []).datums.seen.contains (1, 6) = false ∧ (fdS allOn 900 [(1, 6)]).datums.seen.contains (pSrc (fdPk 900), pOp (fdPk 900) 287 272) = true
    ∧ mgmtAt (fdS allOn 0 []) 8 3 (fdPk 0) ∧ now (fdS allOn 0 []) = 0 := by and_intros <;> decide +kernel
theorem witness_DatumAndAtlas_match : ({ matched := false } : Datums).lateMatch = false ∧ now (dtS allOn { matched := false }) ≤ regRaw (dtS allOn { matched := false }) (aDat 0x18) ∧ srcEnabled (dtS allOn {}) 3 = true
    ∧ ({ matched := false, lateMatch := true } : Datums).lateMatch = true ∧ ({} : Datums).matched = true := by decide +kernel
theorem witness_DatumAndAtlas_latch : nextTriggers (dtS allOn { pend := [(80, 0), (64, 3), (64, 6)] }) = some (64, [3, 6]) ∧ bit (datCtl (dtS allOn {})) 0 = true ∧ bit (datCtl (dtS 0 {})) 0 = false ∧ bit (datCtl (dtS allOn {})) 20 = false
    ∧ srcEnabled (dtS allOn {}) 4 = true ∧ (List.replicate 16 900).length = 16 := by decide +kernel
theorem test_trigger : after (.trigger .f0) (dtS allOn {}) (fun n => n.datums.pend) = some [(64, 0)] := by decide +kernel
theorem test_fabric_datum : after (.fabricDatum .f0) (dtS allOn { number := 6 }) (fun n => (n.datums.pend, n.datums.number, (linkOf n 0).queue.map (fun k => (pOp k 287 272, pOp k 351 288)))) = some ([(500, 5)], 7, [(6, 500)]) := by decide +kernel
theorem test_fdatum : after (.fdatum 8 (fdPk 900)) (fdS allOn 900 []) (fun n => (n.datums.pend, n.datums.seen, (linkOf n 0).queue.length, (linkOf n 8).queue.length)) = some ([(900, 5)], [(1, 6)], 1, 0) := by decide +kernel
theorem test_fdatum_late : after (.fdatum 8 (fdPk 0)) (fdS allOn 0 []) (fun n => (n.datums.pend, regRaw n (aDat 0x38))) = some ([], 1) := by decide +kernel
theorem test_time_match : after .timeMatch (dtS allOn { matched := false }) (fun n => (now n, n.datums.pend, bit (datCtl n) 11)) = some (700, [(700, 3)], false) := by decide +kernel
theorem test_datum_in : after (.datumIn false) (dtS allOn {}) (fun n => n.datums.pend) = some [(64, 4)] ∧ after (.datumIn true) (dtS allOn {}) (fun n => n.datums.pend) = some [] := by decide +kernel
theorem test_latch_missed : after .latch (dtS 0 { pend := [(80, 0), (64, 3)] }) (fun n => (now n, n.datums.pend, regRaw n (aDat 0x28))) = some (64, [(80, 0)], 1) := by decide +kernel
theorem test_atl_sample : after (.atlSample (List.replicate 16 900)) up (fun n => img32 n (0x100 + 4 * tempBin (dieTemp up 0))) = some 1 := by decide +kernel
theorem test_bucket_rotation : after .bucketRotation up (fun n => n.power.bucket.val) = some 1 := by decide +kernel

end Sys2Proof.Tests
end

section
/-!
PROOFS. The scope (chapter 0): every command answers; register writes; read after write in the memories; the state after reset.
-/

namespace Sys2Proof.Machine

/-! ### Every command answers -/

/-- The answer that R21 and R22 ask of a command: a next state where the units that it names exist, and the fault of a missing unit
where they do not (DESIGN CHOICE: log entry 15). -/
def answersFor (ok : Bool) (o : Host.Outcome State Fault Refusal) : Prop :=
  (ok = true → ∃ n, o = .next n) ∧ (ok = false → o = .fault .noSuchUnit)

theorem actAny_answers (ok : Bool) (s : State) (f : State → State) : answersFor ok (actAny ok s f) := by
  cases ok with
  | false => exact ⟨nofun, fun _ => rfl⟩
  | true => exact ⟨fun _ => ⟨f s, rfl⟩, nofun⟩

theorem act_answers (ok : Bool) (s : State) (f : State → State) : answersFor ok (act ok s f) :=
  actAny_answers ok s (fun s => whenLive s f)

theorem actPowered_answers (ok : Bool) (s : State) (f : State → State) : answersFor ok (actPowered ok s f) :=
  actAny_answers ok s _

/-- Every command's meaning goes through one of the three answers, with its `wellFormed` test as the check of its operands. -/
theorem exec_answers (c : Instr) (s : State) : answersFor (wellFormed c) (exec c s) := by
  cases c with
  | powerUp | plannedRemoval | surpriseRemoval | powerLoss | sbPos | sbStatusRead | alertResponse => exact actAny_answers _ s _
  | chipReset | bootTimeout | readyTimeout | abort | msync | counterResume | latch | faultRecord | hang | dumpReadTimeout | dumpExpiry
  | dumpComplete | writeBackBudget | domainSwitchEnd | railSample | dieTemperatureSample | referenceLoss | synthesiserLockLoss =>
    exact actPowered_answers _ s _
  | _ => exact act_answers _ s _

/-- Settles O2: every arm of `exec` answers by `act`, `actAny` or `actPowered`, on the command's own `wellFormed` test. -/
theorem everyCommandCompletes : Obligations.EveryCommandCompletes := exec_answers

/-! ### HBM and scratchpads: read after write -/

/-- A memory reads back what was written to it. -/
theorem memRead_memWrite_self (m : Tab Byte) (a : Nat) (d : List Byte) : memRead (memWrite m a d) a d.length = d := by
  apply List.ext_getElem (memRead_length _ _ _)
  intro i h hd
  rw [memRead_getElem, memByte_memWrite_in d a i hd]

/-- The byte that an HBM address holds: in the pinned store, where pinning is on and covers it, or in the stack (R323). -/
def hbmByte (s : State) (b : Nat) : Byte := memByte (if anyPin s && pinned s b then s.pin else s.hbm) b

theorem hbmByte_of_anyPin {s : State} (h : anyPin s = true) (b : Nat) : hbmByte s b = memByte (if pinned s b then s.pin else s.hbm) b := by
  simp only [hbmByte, h, Bool.true_and]

theorem hbmByte_of_noPin {s : State} (h : anyPin s = false) (b : Nat) : hbmByte s b = memByte s.hbm b := by
  simp only [hbmByte, h, Bool.false_and, Bool.false_eq_true, if_false]

theorem hbmRead_length (s : State) (a n : Nat) : (hbmRead s a n).length = n := by
  unfold hbmRead
  split
  · simp
  · exact memRead_length _ _ _

theorem hbmRead_getElem (s : State) (a n i : Nat) (h : i < (hbmRead s a n).length) : (hbmRead s a n)[i] = hbmByte s (a + i) := by
  cases hp : anyPin s with
  | true =>
    simp only [hbmRead, hp, if_true, List.getElem_map, List.getElem_range, hbmByte_of_anyPin hp]
    split <;> rfl
  | false => simp only [hbmRead, hp, Bool.false_eq_true, if_false, memRead_getElem, hbmByte_of_noPin hp]

theorem hbmRead_one (s : State) (b : Nat) : hbmRead s b 1 = [hbmByte s b] := by
  obtain ⟨x, hx⟩ := List.length_eq_one_iff.1 (hbmRead_length s b 1)
  have h0 := hbmRead_getElem s b 1 0 (by rw [hbmRead_length]; omega)
  simp only [hx, List.getElem_cons_zero, Nat.add_zero] at h0
  rw [hx, h0]

/-- One byte written to the store that holds its address. -/
def pinPut (a : Nat) (b : Byte) (s : State) : State :=
  if pinned s a then { s with pin := tset unwritten s.pin a b } else { s with hbm := tset unwritten s.hbm a b }

theorem pinWrite_cons (a : Nat) (b : Byte) (d : List Byte) (s : State) : pinWrite a (b :: d) s = pinWrite (a + 1) d (pinPut a b s) := rfl

@[simp] theorem pinPut_regs (a : Nat) (b : Byte) (s : State) : (pinPut a b s).regs = s.regs := by unfold pinPut; split <;> rfl
@[simp] theorem pinPut_spd (a : Nat) (b : Byte) (s : State) : (pinPut a b s).spd = s.spd := by unfold pinPut; split <;> rfl
@[simp] theorem anyPin_pinPut (a : Nat) (b : Byte) (s : State) : anyPin (pinPut a b s) = anyPin s := by unfold pinPut; split <;> rfl
@[simp] theorem pinned_pinPut (a : Nat) (b : Byte) (s : State) (j : Nat) : pinned (pinPut a b s) j = pinned s j := by
  unfold pinPut; split <;> rfl

theorem hbmByte_pinPut {s : State} (h : anyPin s = true) (a : Nat) (b : Byte) (j : Nat) :
    hbmByte (pinPut a b s) j = if j = a then b else hbmByte s j := by
  rw [hbmByte_of_anyPin (by simpa using h), hbmByte_of_anyPin h, pinned_pinPut]
  by_cases ha : pinned s a = true
  · by_cases hj : j = a
    · subst hj; simp [pinPut, ha, memByte]
    · by_cases hp : pinned s j = true <;> simp [pinPut, ha, hp, hj, memByte]
  · by_cases hj : j = a
    · subst hj; simp [pinPut, ha, memByte]
    · by_cases hp : pinned s j = true <;> simp [pinPut, ha, hp, hj, memByte]

/-- A byte outside the range written is as before, in both stores. -/
theorem hbmByte_pinWrite_out (d : List Byte) (a j : Nat) {s : State} (hs : anyPin s = true) (h : j < a ∨ a + d.length ≤ j) :
    hbmByte (pinWrite a d s) j = hbmByte s j := by
  induction d generalizing a s with
  | nil => rfl
  | cons b r ih =>
    rw [List.length_cons] at h
    have hj : j ≠ a := by omega
    rw [pinWrite_cons, ih (a + 1) (by simpa using hs) (by omega), hbmByte_pinPut hs, if_neg hj]

/-- A byte inside the range reads as written, from the store that holds it. -/
theorem hbmByte_pinWrite_in (d : List Byte) (a i : Nat) {s : State} (hs : anyPin s = true) (h : i < d.length) :
    hbmByte (pinWrite a d s) (a + i) = d[i] := by
  induction d generalizing a i s with
  | nil => simp at h
  | cons b r ih =>
    have hs' : anyPin (pinPut a b s) = true := by simpa using hs
    cases i with
    | zero => rw [pinWrite_cons, hbmByte_pinWrite_out r (a + 1) (a + 0) hs' (by omega), hbmByte_pinPut hs, if_pos (Nat.add_zero a)]; rfl
    | succ i =>
      rw [pinWrite_cons, show a + (i + 1) = a + 1 + i by omega, ih (a + 1) i hs' (by simpa using h)]
      rfl

@[simp] theorem pinWrite_regs (a : Nat) (d : List Byte) (s : State) : (pinWrite a d s).regs = s.regs := by
  induction d generalizing a s with
  | nil => rfl
  | cons b r ih => rw [pinWrite_cons, ih, pinPut_regs]

@[simp] theorem pinWrite_spd (a : Nat) (d : List Byte) (s : State) : (pinWrite a d s).spd = s.spd := by
  induction d generalizing a s with
  | nil => rfl
  | cons b r ih => rw [pinWrite_cons, ih, pinPut_spd]

/-- The dirty lines and the poisoned ones, which no read of bytes sees, at other values. -/
def withLines (dirty poison pinPoison : List Nat) (s : State) : State := { s with dirty := dirty, poison := poison, pinPoison := pinPoison }

/-- A write to HBM writes its bytes to the two stores, or to the stack alone where nothing is pinned; beside that it touches its lines' marks. -/
theorem hbmWrite_eq (a : Nat) (d : List Byte) (s : State) :
    ∃ x y z, hbmWrite a d s = if anyPin s then pinWrite a d (withLines x y z s) else { withLines x y z s with hbm := memWrite s.hbm a d } :=
  ⟨_, _, _, rfl⟩

theorem hbmWrite_of_anyPin (a : Nat) (d : List Byte) {s : State} (h : anyPin s = true) :
    ∃ x y z, hbmWrite a d s = pinWrite a d (withLines x y z s) := by
  obtain ⟨x, y, z, hw⟩ := hbmWrite_eq a d s
  exact ⟨x, y, z, by rw [hw, if_pos h]⟩

theorem hbmWrite_of_noPin (a : Nat) (d : List Byte) {s : State} (h : anyPin s = false) :
    ∃ x y z, hbmWrite a d s = { withLines x y z s with hbm := memWrite s.hbm a d } := by
  obtain ⟨x, y, z, hw⟩ := hbmWrite_eq a d s
  exact ⟨x, y, z, by rw [hw, if_neg (by simp [h])]⟩

theorem hbmByte_hbmWrite_out (a : Nat) (d : List Byte) (s : State) (j : Nat) (h : j < a ∨ a + d.length ≤ j) :
    hbmByte (hbmWrite a d s) j = hbmByte s j := by
  cases hp : anyPin s with
  | true =>
    obtain ⟨x, y, z, hw⟩ := hbmWrite_of_anyPin a d hp
    rw [hw]
    exact hbmByte_pinWrite_out d a j (s := withLines x y z s) hp h
  | false =>
    obtain ⟨x, y, z, hw⟩ := hbmWrite_of_noPin a d hp
    rw [hw, hbmByte_of_noPin hp, hbmByte_of_noPin (by exact hp)]
    exact memByte_memWrite_out d a j h

theorem hbmByte_hbmWrite_in (a : Nat) (d : List Byte) (s : State) (i : Nat) (h : i < d.length) :
    hbmByte (hbmWrite a d s) (a + i) = d[i] := by
  cases hp : anyPin s with
  | true =>
    obtain ⟨x, y, z, hw⟩ := hbmWrite_of_anyPin a d hp
    rw [hw]
    exact hbmByte_pinWrite_in d a i (s := withLines x y z s) hp h
  | false =>
    obtain ⟨x, y, z, hw⟩ := hbmWrite_of_noPin a d hp
    rw [hw, hbmByte_of_noPin (by exact hp)]
    exact memByte_memWrite_in d a i h

@[simp] theorem hbmWrite_regs (a : Nat) (d : List Byte) (s : State) : (hbmWrite a d s).regs = s.regs := by
  obtain ⟨x, y, z, hw⟩ := hbmWrite_eq a d s
  rw [hw]
  split
  · rw [pinWrite_regs]; rfl
  · rfl

@[simp] theorem hbmWrite_spd (a : Nat) (d : List Byte) (s : State) : (hbmWrite a d s).spd = s.spd := by
  obtain ⟨x, y, z, hw⟩ := hbmWrite_eq a d s
  rw [hw]
  split
  · rw [pinWrite_spd]; rfl
  · rfl

/-- Bytes written to HBM read back, pinned or not (R312). -/
theorem hbmRead_hbmWrite_self (a : Nat) (d : List Byte) (s : State) : hbmRead (hbmWrite a d s) a d.length = d := by
  apply List.ext_getElem (hbmRead_length _ _ _)
  intro i h hd
  rw [hbmRead_getElem, hbmByte_hbmWrite_in a d s i hd]

theorem hbmRead_hbmWrite_out (a : Nat) (d : List Byte) (s : State) (b : Nat) (h : b < a ∨ a + d.length ≤ b) :
    hbmRead (hbmWrite a d s) b 1 = hbmRead s b 1 := by
  rw [hbmRead_one, hbmRead_one, hbmByte_hbmWrite_out a d s b h]

@[simp] theorem endReservations_regs (t o n : Nat) (s : State) : (endReservations t o n s).regs = s.regs := by
  simp only [endReservations, List.foldl_cons, List.foldl_nil]
  repeat' split
  all_goals rfl

@[simp] theorem spdWrite_regs (t o : Nat) (d : List Byte) (s : State) : (spdWrite t o d s).regs = s.regs := by simp [spdWrite]

/-- Bytes written to a scratchpad read back (R301). -/
theorem spdRead_spdWrite_self (t o : Nat) (d : List Byte) (s : State) : spdRead (spdWrite t o d s) t o d.length = d := by
  rw [spdRead, spdWrite_spd, memRead_memWrite_self]

theorem memByte_spdWrite_out (t o : Nat) (d : List Byte) (s : State) (j : Nat) (h : j < t * spdSize + o ∨ t * spdSize + o + d.length ≤ j) :
    memByte (spdWrite t o d s).spd j = memByte s.spd j := by
  rw [spdWrite_spd, memByte_memWrite_out d _ j h]

/-- Settles O8: a write of bytes is one of each byte to the store that holds it, which no write to a memory changes. -/
theorem memoryReadAfterWrite : Obligations.MemoryReadAfterWrite :=
  ⟨fun s a d => ⟨hbmRead_hbmWrite_self a d s, hbmRead_hbmWrite_out a d s, hbmWrite_keeps a d, hbmWrite_regs a d s, hbmWrite_spd a d s⟩,
    fun s t o d => ⟨spdRead_spdWrite_self t o d s, memByte_spdWrite_out t o d s, spdWrite_keeps t o d, spdWrite_regs t o d s, spdWrite_hbm t o d s⟩⟩

/-! ### The state after reset -/

/-- After reset every register reads its reset value: nothing is listed. -/
theorem regRaw_reset (a : Nat) : regRaw State.reset a = regReset a % 2 ^ 64 := BitVec.toNat_ofNat _ _

/-- The status of the first steward's window after reset (Table 3-9). -/
theorem regReset_stewardStatus (t : Nat) (h : t < 128) : regReset (aTile t 0 0) = 0x100 := by
  have ha : aTile t 0 0 = tcbBase + t * 0x10000 := rfl
  have h1 : ¬ tcbBase + t * 0x10000 < tcbBase := by omega
  have h2 : tcbBase + t * 0x10000 < tcbBase + 0x800000 := by omega
  have h3 : (tcbBase + t * 0x10000 - tcbBase) % 0x10000 = 0 := by omega
  simp only [regReset, regSpec, ha, if_neg h1, if_pos h2, h3]
  rfl

theorem portState_reset (p : Nat) (h : p < 16) : portState State.reset p = 0 := by
  rw [portState, regRaw_reset]
  revert p
  decide

/-- The registers that the statement names by value. -/
theorem regRaw_reset_values : regRaw State.reset (aGlob 0x200000) = 0 ∧ regRaw State.reset (aGlob 0x100018) = 1000000000
    ∧ regRaw State.reset (aGlob 0x1200000) = 50000000 ∧ regRaw State.reset (aHost 8) = 24680 := by
  simp only [regRaw_reset]
  decide

/-- Settles O4: after reset nothing is listed in any table, so every unit is at its default and every register at its reset value. -/
theorem resetState : Obligations.ResetState := by
  obtain ⟨htime, hflt, hcol, hhost⟩ := regRaw_reset_values
  refine ⟨fun _ => rfl, fun _ _ => rfl, portState_reset, fun _ => ⟨rfl, rfl, rfl, rfl⟩, fun _ => rfl, fun _ => rfl, rfl, rfl, memOk_reset,
    htime, hflt, hcol, hhost, fun t ht => ?_⟩
  rw [regRaw_reset, regReset_stewardStatus t ht]
  norm_num

/-! ### Records of a refused access -/

/-- Raising a record changes nothing but the records that wait. -/
theorem raise_others (r : FaultRec) (s : State) : { raise r s with faults := s.faults } = s := by
  unfold raise
  split <;> rfl

/-- A record of a unit of which none waits is filed (R478). -/
theorem raise_first {r : FaultRec} {s : State} (h : s.faults.any (sameUnit s r) = false) : (raise r s).faults = s.faults ++ [r] := by
  simp [raise, h]

/-- The unit that reports the refused accesses of an agent that is no steward (Table 15-1). -/
def agentUnit (who : Who) : Nat := if who = .f0 then 0x22 else 0x27

theorem accessFault_agent {who : Who} (hw : who = .f0 ∨ who = .compass) (e a : Nat) (s : State) :
    accessFault who e a s = raise (atAddr s a (blankFault s 1 e (agentUnit who) 4)) s := by
  rcases hw with rfl | rfl <;> rfl

/-- Which unit of its code an agent's record is of does not depend on the address it names. -/
theorem sameUnit_atAddr {who : Who} (hw : who = .f0 ∨ who = .compass) (e a : Nat) (s : State) :
    sameUnit s (atAddr s a (blankFault s 1 e (agentUnit who) 4)) = sameUnit s (blankFault s 1 e (agentUnit who) 4) := by
  rcases hw with rfl | rfl <;> rfl

/-! ### A register write as a command -/

theorem regCommand_ok {who : Who} (hw : who = .f0 ∨ who = .compass) {a width v : Nat} {s n : State} (h : writeReg who a width v s = .ok n) :
    regCommand who a width v s = n := by
  rcases hw with rfl | rfl <;> simp [regCommand, h]

theorem regCommand_error {who : Who} (hw : who = .f0 ∨ who = .compass) {a width v e : Nat} {s : State}
    (h : writeReg who a width v s = .error e) : regCommand who a width v s = accessFault who e a s := by
  rcases hw with rfl | rfl <;> simp [regCommand, h]

theorem regCommand_steward (t m a width v : Nat) (s : State) : regCommand (.steward t m) a width v s =
    if nextStore s t m = some (a, width, v) then rvInstruction t m s else s := rfl

theorem whoOk_agent {who : Who} (hw : who = .f0 ∨ who = .compass) : whoOk who = true := by
  rcases hw with rfl | rfl <;> rfl

theorem registerWrite_operandsOk {who : Who} {a width : Nat} (hw : whoOk who = true) (hk : widthOk width = true) (ha : a < 2 ^ 40) :
    (whoOk who && widthOk width && decide (a < 2 ^ 40)) = true := by
  rw [hw, hk, decide_eq_true ha]
  rfl

theorem exec_registerWrite {who : Who} {a width : Nat} (v : Word) {s : State} (hl : live s = true) (hw : whoOk who = true)
    (hk : widthOk width = true) (ha : a < 2 ^ 40) : exec (.registerWrite who a width v) s = .next (regCommand who a width v.toNat s) :=
  act_live hl (registerWrite_operandsOk hw hk ha)

/-- A command that is one register access, of a value given as a word or as a number, is the register write of that value. -/
theorem act_regCommand_word {ok : Bool} {who : Who} {a width : Nat} (v : Word) (s : State) (hok : ok = true) (hw : whoOk who = true)
    (hk : widthOk width = true) (ha : a < 2 ^ 40) : act ok s (regCommand who a width v.toNat) = exec (.registerWrite who a width v) s := by
  rw [hok, ← registerWrite_operandsOk hw hk ha]
  rfl

theorem act_regCommand {ok : Bool} {who : Who} {a width v : Nat} (s : State) (hok : ok = true) (hw : whoOk who = true)
    (hk : widthOk width = true) (ha : a < 2 ^ 40) (hv : v < 2 ^ 64) :
    act ok s (regCommand who a width v) = exec (.registerWrite who a width (BitVec.ofNat 64 v)) s := by
  rw [← act_regCommand_word _ s hok hw hk ha, BitVec.toNat_ofNat, Nat.mod_eq_of_lt hv]

/-! ### Bits of a register after a write -/

@[simp] theorem bit_lor (v w i : Nat) : bit (Nat.lor v w) i = (bit v i || bit w i) := Nat.testBit_or v w i
@[simp] theorem bit_land (v w i : Nat) : bit (Nat.land v w) i = (bit v i && bit w i) := Nat.testBit_and v w i
@[simp] theorem bit_xor (v w i : Nat) : bit (Nat.xor v w) i = (bit v i ^^ bit w i) := Nat.testBit_xor v w i
theorem bit_allOnes (n i : Nat) : bit (2 ^ n - 1) i = decide (i < n) := Nat.testBit_two_pow_sub_one n i
theorem bit_mod_two_pow (v n i : Nat) : bit (v % 2 ^ n) i = (decide (i < n) && bit v i) := Nat.testBit_mod_two_pow v n i

/-- The access types of Table 0-4, bit by bit. -/
theorem bit_accessTypes (r : RegSpec) (old v : Nat) {i : Nat} (h : i < 64) :
    bit (accessTypes r old v) i = ((bit r.rw i && bit v i) || (bit r.w1s i && bit v i)
      || (bit old i && !bit r.rw i && !(bit r.w1c i && bit v i))) := by
  simp only [accessTypes, bit_lor, bit_land, bit_xor, bit_allOnes, h, decide_true, Bool.true_xor]
  generalize bit v i = x, bit r.rw i = rw, bit r.w1s i = ws, bit r.w1c i = wc, bit old i = o
  revert x rw ws wc o
  decide

/-- Each bit of a register after a plain write (Table 0-4), and every other register. -/
theorem bit_plainWrite (r : RegSpec) (a v : Nat) (s : State) {i : Nat} (h : i < 64) :
    bit (regRaw (plainWrite r a v s) a) i = ((bit r.rw i && bit v i) || (bit r.w1s i && bit v i)
      || (bit (regRaw s a) i && !bit r.rw i && !(bit r.w1c i && bit v i))) := by
  rw [plainWrite, regRaw_regPut_self, bit_mod_two_pow, decide_eq_true h, Bool.true_and, bit_accessTypes r _ v h]

theorem regRaw_plainWrite_ne (r : RegSpec) (a v : Nat) (s : State) {b : Nat} (h : b ≠ a) : regRaw (plainWrite r a v s) b = regRaw s b :=
  regRaw_regPut_ne a _ s h

/-! ### The write of a register in its window -/

/-- A check that comes out in favour, before and after what it lets pass. -/
theorem refuseIf_eq_ok {α : Type} {c : Prop} [Decidable c] {e : Nat} {x : Except Nat α} {r : α} :
    (if c then .error e else x) = .ok r ↔ ¬ c ∧ x = .ok r := by
  by_cases h : c <;> simp [h]

theorem allowIf_eq_ok {α : Type} {c : Prop} [Decidable c] {e : Nat} {x : Except Nat α} {r : α} :
    (if c then x else .error e) = .ok r ↔ c ∧ x = .ok r := by
  by_cases h : c <;> simp [h]

/-- The register that an agent may access is the one that the access names (R15, R36). -/
theorem regAt_of_regFor {who : Who} {w : Bool} {a width : Nat} {s : State} {r : RegSpec} (h : regFor who w a width s = .ok r) :
    regAt s a width = .ok r := by
  rw [regFor, refuseIf_eq_ok] at h
  cases hr : regAt s a width with
  | error e => simp [hr] at h
  | ok r' =>
    simp only [hr, allowIf_eq_ok] at h
    exact h.2.2

/-- A part of a store wider than 64 bits that an access of 8 bytes names stands at a multiple of 8 (R15). -/
theorem regAt_wide_aligned {a : Nat} {s : State} {r : RegSpec} (h : regAt s a 8 = .ok r) (hr : r.wide = true) : a % 8 = 0 := by
  rw [regAt, refuseIf_eq_ok] at h
  obtain ⟨-, h⟩ := h
  cases hs : regSpec a with
  | none => simp [hs] at h
  | some r' =>
    cases hw : r'.wide with
    | true =>
      simp only [hs, hw, if_true, allowIf_eq_ok] at h
      omega
    | false =>
      simp only [hs, hw, Bool.false_eq_true, if_false, allowIf_eq_ok, Except.ok.injEq] at h
      rw [← h.2, hw] at hr
      cases hr

/-- An access of a whole register, or of an aligned 64-bit word, is the write of its window. -/
theorem writeReg_whole {who : Who} {a width : Nat} {s n : State} {r : RegSpec} (v : Nat) (h : regFor who true a width s = .ok r)
    (hr : r.wide = false ∨ width = 8) (hu : unitWrite who r a (v % 2 ^ (8 * width)) s = some n) : writeReg who a width v s = .ok n := by
  have ha : (if r.wide then a / 8 * 8 else a) = a := by
    split
    · next hw =>
      obtain rfl : width = 8 := hr.resolve_left (by simp [hw])
      have := regAt_wide_aligned (regAt_of_regFor h) hw
      omega
    · rfl
  have hpart : (r.wide && decide (width = 4)) = false := by
    rcases hr with hr | rfl
    · simp [hr]
    · simp
  unfold writeReg
  simp only [h, ha, hpart, Bool.false_eq_true, if_false, hu]

theorem globWrite_plain (who : Who) (r : RegSpec) {o : Nat} (v : Nat) (s : State) (h1 : 0x200000 ≤ o) (h2 : o < 0x400000)
    (hcmd : o ≠ 0x300008) (hmatch : o ≠ 0x300018) (hlog : o = 0x200020 → 16 ≤ fld v 4 0 ∧ fld v 4 0 ≤ 24) :
    globWrite who r o v s = some (plainWrite r (aGlob o) v s) := by
  have hbad : ¬ (o = 0x200020 ∧ (fld v 4 0 < 16 ∨ 24 < fld v 4 0)) := by omega
  unfold globWrite
  rw [if_neg (by omega), if_neg (by omega), if_neg hbad, if_neg hcmd, if_neg hmatch]
  iterate 9 rw [if_neg (by omega)]

theorem unitWrite_glob (who : Who) (r : RegSpec) (o v : Nat) (s : State) : unitWrite who r (aGlob o) v s = globWrite who r o v s := by
  have h1 : ¬ aGlob o < dieBase := by simp only [aGlob, globBase, dieBase]; omega
  have h2 : ¬ aGlob o < globBase := by simp only [aGlob]; omega
  have h3 : aGlob o - globBase = o := by simp only [aGlob]; omega
  rw [unitWrite, if_neg h1, if_neg h2, h3]

/-- A field of a value that an access of at least one byte carries. -/
theorem fld_mod_width (v : Nat) {width : Nat} (hk : widthOk width = true) : fld (v % 2 ^ (8 * width)) 4 0 = fld v 4 0 := by
  have h : (2 : Nat) ^ 5 ∣ 2 ^ (8 * width) := by
    apply pow_dvd_pow
    simp only [widthOk, decide_eq_true_eq] at hk
    omega
  show (v % 2 ^ (8 * width)) >>> 0 % 2 ^ 5 = v >>> 0 % 2 ^ 5
  exact Nat.mod_mod_of_dvd v h

/-- A register's value with EN (bit 31) set is one of 64 bits. -/
theorem setBit_31_lt {v : Nat} (h : v < 2 ^ 64) : setBit v 31 true < 2 ^ 64 := by
  simp only [setBit, setFld, fld, Nat.shiftLeft_eq, Nat.shiftRight_eq_div_pow, Bool.toNat_true]
  norm_num at h ⊢
  omega

theorem regRaw_lt (s : State) (a : Nat) : regRaw s a < 2 ^ 64 := BitVec.isLt _

/-! ### Register writes by F0 and the firmware, by a steward, and as other commands -/

/-- A write that the checks refuse (R15, R36): nothing changes but the records that wait, and one is filed where the unit has none waiting. -/
theorem registerWrite_refused {s : State} {who : Who} {a width : Nat} {v : Word} {e : Nat} (hl : live s = true)
    (hw : who = .f0 ∨ who = .compass) (hk : widthOk width = true) (ha : a < 2 ^ 40) (h : writeReg who a width v.toNat s = .error e) :
    ∃ n, exec (.registerWrite who a width v) s = .next n ∧ { n with faults := s.faults } = s
      ∧ (s.faults.any (sameUnit s (blankFault s 1 e (agentUnit who) 4)) = false →
          ∃ r, n.faults = s.faults ++ [r] ∧ r.cls = 1 ∧ r.code = e ∧ r.addr = some (ownDev s, a) ∧ r.ctx = none) := by
  refine ⟨raise (atAddr s a (blankFault s 1 e (agentUnit who) 4)) s, ?_, raise_others _ s, fun hn => ?_⟩
  · rw [exec_registerWrite v hl (whoOk_agent hw) hk ha, regCommand_error hw h, accessFault_agent hw]
  · rw [← sameUnit_atAddr hw e a s] at hn
    exact ⟨_, raise_first hn, rfl, rfl, rfl, rfl⟩

/-- A write in the Meridian and the DAT windows without a rule of its own (Tables 12-11 and 17-4). -/
theorem registerWrite_plain {s : State} {who : Who} {o width : Nat} {v : Word} {r : RegSpec} (hl : live s = true)
    (hw : who = .f0 ∨ who = .compass) (hk : widthOk width = true) (h1 : 0x200000 ≤ o) (h2 : o < 0x400000)
    (hcmd : o ≠ 0x300008) (hmatch : o ≠ 0x300018) (hlog : o = 0x200020 → 16 ≤ fld v.toNat 4 0 ∧ fld v.toNat 4 0 ≤ 24)
    (h : regFor who true (aGlob o) width s = .ok r) (hr : r.wide = false ∨ width = 8) :
    exec (.registerWrite who (aGlob o) width v) s = .next (plainWrite r (aGlob o) (v.toNat % 2 ^ (8 * width)) s) := by
  have ha : aGlob o < 2 ^ 40 := by simp only [aGlob, globBase]; omega
  have hu : unitWrite who r (aGlob o) (v.toNat % 2 ^ (8 * width)) s = some (plainWrite r (aGlob o) (v.toNat % 2 ^ (8 * width)) s) := by
    rw [unitWrite_glob]
    exact globWrite_plain who r _ s h1 h2 hcmd hmatch (by rw [fld_mod_width _ hk]; exact hlog)
  rw [exec_registerWrite v hl (whoOk_agent hw) hk ha, regCommand_ok hw (writeReg_whole v.toNat h hr hu)]

/-- A steward's register write is the store that it executes next (DESIGN CHOICE: log entry 89). -/
theorem registerWrite_steward {s : State} {t m a width : Nat} (v : Word) (hl : live s = true) (ht : t < 128) (hm : m < 2)
    (hk : widthOk width = true) (ha : a < 2 ^ 40) :
    (nextStore s t m = some (a, width, v.toNat) → exec (.registerWrite (.steward t m) a width v) s = exec (.rv64Instruction t m) s)
    ∧ (nextStore s t m ≠ some (a, width, v.toNat) → exec (.registerWrite (.steward t m) a width v) s = .next s) := by
  rw [exec_registerWrite v hl (by simp [whoOk, ht, hm]) hk ha, regCommand_steward]
  exact ⟨fun h => by rw [if_pos h]; exact (act_live hl (stOk_of ht hm)).symm, fun h => by rw [if_neg h]⟩

theorem aTile_lt {t w off : Nat} (ht : t < 128) (hw : w < 16) (ho : off < 0x1000) : aTile t w off < 2 ^ 40 := by
  simp only [aTile, tcbBase]
  omega

theorem aGlob_lt {off : Nat} (ho : off < 0x400000000) : aGlob off < 2 ^ 40 := by
  simp only [aGlob, globBase]
  omega

/-- The commands of a tile's units that are one register access. -/
theorem tileCommands_are_registerWrites (s : State) {who : Who} {t a st k : Nat} (v : Word) (hw : whoOk who = true) (ht : t < 128) (ha : a < 2)
    (hs : st < 2) (hk : k < 8) :
    exec (.maDescHead who t a st v) s = exec (.registerWrite who (aTile t (2 + a) (8 * st)) 8 v) s
    ∧ exec (.cpyDescHead who t v) s = exec (.registerWrite who (aTile t 6 0) 8 v) s
    ∧ exec (.vsCfgWrite who t k v) s = exec (.registerWrite who (aTile t 7 (0x800 + 0x20 * k)) 8 v) s :=
  ⟨act_regCommand_word v s (by simp [hw, tileOk, ht, ha, hs]) hw rfl (aTile_lt ht (by omega) (by omega)),
    act_regCommand_word v s (by simp [hw, tileOk, ht]) hw rfl (aTile_lt ht (by omega) (by omega)),
    act_regCommand_word v s (by simp [hw, tileOk, ht, hk]) hw rfl (aTile_lt ht (by omega) (by omega))⟩

/-- The commands of dies, books, functions, the Datum, power control and contexts that are one register access. -/
theorem blockCommands_are_registerWrites (s : State) {who : Who} {p b c die : Nat} (v : Word) (hw : whoOk who = true) (hp : p < 16) (hb : b < 16)
    (hc : c < 16) (hd : die < 4) :
    exec (.scacheFlush who die) s = exec (.registerWrite who (aSc die 4) 4 1) s
    ∧ exec (.bookResume who b) s = exec (.registerWrite who (aFbk b 8) 4 1) s
    ∧ exec (.bookBind who b c) s = exec (.registerWrite who (aFbk b 0) 4 (BitVec.ofNat 64 (0x100 + c <<< 16))) s
    ∧ exec (.functionEnable who p) s = exec (.registerWrite who (aFn p 0) 4 (BitVec.ofNat 64 (setBit (regRaw s (aFn p 0)) 31 true))) s
    ∧ exec (.trigger who) s = exec (.registerWrite who (aDat 8) 4 1) s
    ∧ exec (.tileEn who v) s = exec (.registerWrite who (aPwrc 0x18) 8 v) s
    ∧ exec (.start (.reg who) c) s = exec (.registerWrite who (aCtx c 4) 4 3) s := by
  have hbind : 0x100 + c <<< 16 < 2 ^ 64 := by rw [Nat.shiftLeft_eq]; omega
  have hsc : aSc die 4 < 2 ^ 40 := by simp only [aSc, aDie, dieBase]; omega
  exact ⟨act_regCommand s (by simp [hw, dieOk, hd]) hw rfl hsc (by norm_num),
    act_regCommand s (by simp [hw, bookOk, hb]) hw rfl (aGlob_lt (by omega)) (by norm_num),
    act_regCommand s (by simp [hw, bookOk, hb, ctxOk, hc]) hw rfl (aGlob_lt (by omega)) hbind,
    act_regCommand s (by simp [hw, fnOk, hp]) hw rfl (aGlob_lt (by omega)) (setBit_31_lt (regRaw_lt s _)),
    act_regCommand s hw hw rfl (aGlob_lt (by omega)) (by norm_num),
    act_regCommand_word v s hw hw rfl (aGlob_lt (by omega)),
    act_regCommand s (by simp [srcOk, hw, ctxOk, hc]) hw rfl (aGlob_lt (by omega)) (by norm_num)⟩

/-- Settles O7: a register write is `writeReg`'s answer, which in the Meridian and the DAT windows is the write of the access types, and every
command that is one register access calls the same `regCommand`. -/
theorem registerAccess : Obligations.RegisterAccess := by
  refine ⟨fun s who a width v hl hw hk ha => ⟨fun n h => ?_, fun e h => registerWrite_refused hl hw hk ha h⟩, ?_,
    fun s t m a width v hl ht hm hk ha => registerWrite_steward v hl ht hm hk ha, ?_⟩
  · rw [exec_registerWrite v hl (whoOk_agent hw) hk ha, regCommand_ok hw h]
  · rintro s who o _ width _ v r hl hw hk rfl h1 h2 hcmd hmatch hlog h hr rfl
    exact ⟨_, registerWrite_plain hl hw hk h1 h2 hcmd hmatch hlog h hr, fun i hi => bit_plainWrite r _ _ s hi,
      fun b hb => regRaw_plainWrite_ne r _ _ s hb, rfl⟩
  · intro s who t a st k p b c die v hw ht ha hs hk hp hb hc hd
    obtain ⟨hma, hcpy, hvs⟩ := tileCommands_are_registerWrites s v hw ht ha hs hk
    obtain ⟨hsc, hblock⟩ := blockCommands_are_registerWrites s v hw hp hb hc hd
    exact ⟨hma, hcpy, hvs, hsc, hblock⟩

end Sys2Proof.Machine
end

section
/-!
PROOFS. Stacked memory (chapter 10): a served read or write of HBM, and what holds an access back.
-/

namespace Sys2Proof.Machine

/-! ### What serving an access leaves unchanged -/

/-- The tokens that requests take change nothing but the stacks' controllers (R326). -/
def withStackCtl (x : Tab Stack) (s : State) : State := { s with stackCtl := x }

theorem charge_eq {a p : Nat} {s n : State} (h : charge a p s = some n) : ∃ x, n = withStackCtl x s := by
  unfold charge at h
  simp only at h
  split at h
  · cases h; exact ⟨_, rfl⟩
  · split at h <;> cases h <;> exact ⟨_, rfl⟩

/-- A walk that ends at the first request that waits, where every other one changes the controllers alone. -/
theorem foldl_option_withStackCtl {f : Option State → Nat → Option State} (hnone : ∀ l, f none l = none)
    (hsome : ∀ s l n, f (some s) l = some n → ∃ x, n = withStackCtl x s) (ls : List Nat) {s n : State} (h : ls.foldl f (some s) = some n) :
    ∃ x, n = withStackCtl x s := by
  induction ls generalizing s with
  | nil => cases h; exact ⟨_, rfl⟩
  | cons l r ih =>
    rw [List.foldl_cons] at h
    cases hc : f (some s) l with
    | none => rw [hc, List.foldl_fixed' hnone] at h; cases h
    | some m =>
      obtain ⟨x, rfl⟩ := hsome s l m hc
      rw [hc] at h
      obtain ⟨y, rfl⟩ := ih h
      exact ⟨y, rfl⟩

theorem chargeAll_eq {a n p : Nat} {s m : State} (h : chargeAll a n p s = some m) : ∃ x, m = withStackCtl x s :=
  foldl_option_withStackCtl (fun _ => rfl) (fun _ _ _ h => charge_eq h) _ h

/-- With no book's engine running no address lies in the exclusive state of one. -/
theorem cbwFind_of_noBook {s : State} (h : noBook s) (a : Nat) : cbwFind s a = none := by
  rw [cbwFind, List.findSome?_eq_none_iff]
  intro b _
  cases hp : (bookOf s b).plan with
  | none => simp [hp]
  | some p => simp [hp, h b]

/-- With no book's engine running a write goes on at once (R454). -/
theorem cbw_of_noBook {s : State} (h : noBook s) (a n : Nat) : cbw a n s = (true, s) :=
  List.foldl_fixed' (fun l => by simp only [cbwFind_of_noBook h]) _

theorem accWrite_of_noBook {s : State} (h : noBook s) (a : Acc) (f : State → State) : accWrite a f s = f s := by
  simp [accWrite, cbw_of_noBook h]

/-- A walk of which every step leaves the state as it is. -/
theorem foldl_unchanged {α β : Type} {f : β → α → β} {b : β} (l : List α) (h : ∀ x ∈ l, f b x = b) : l.foldl f b = b := by
  induction l with
  | nil => rfl
  | cons x r ih =>
    rw [List.foldl_cons, h x (List.mem_cons_self ..)]
    exact ih fun y hy => h y (List.mem_cons_of_mem _ hy)

/-- A write beside every tensor table and statistics bank spoils none (R241). -/
theorem spoilTensors_of_noTensor {s : State} {a n : Nat} (h : noTensor s a n) : spoilTensors a n s = s := by
  refine foldl_unchanged _ fun c hc => ?_
  cases ht : (ctxOf s c).tensors with
  | none => rfl
  | some tk =>
    have hout : (tensorAreas tk).any (fun r => decide (r.1 < a + n ∧ a < r.1 + r.2)) = false :=
      List.any_eq_false.2 fun r hr => by simpa using h c tk (List.mem_range.1 hc) ht r hr
    exact if_neg (by rw [hout]; exact Bool.false_ne_true)

@[simp] theorem endReservations_accs (t o n : Nat) (s : State) : (endReservations t o n s).accs = s.accs := by
  simp only [endReservations, List.foldl_cons, List.foldl_nil]
  repeat' split
  all_goals rfl

@[simp] theorem endReservations_tiles (t o n : Nat) (s : State) : (endReservations t o n s).tiles = s.tiles := by
  simp only [endReservations, List.foldl_cons, List.foldl_nil]
  repeat' split
  all_goals rfl

@[simp] theorem spdWrite_accs (t o : Nat) (d : List Byte) (s : State) : (spdWrite t o d s).accs = s.accs := by simp [spdWrite, modTile]

@[simp] theorem spdWrite_cpy (t o : Nat) (d : List Byte) (s : State) : cpyOf (spdWrite t o d s) t = cpyOf s t := by
  rw [cpyOf, spdWrite, tileOf_eq_of_tiles (endReservations_tiles t o d.length _), modTile, tileOf_setTile_self]
  rfl

/-! ### What a write of HBM leaves unchanged -/

/-- Beside the two stores and the marks of lines, n is as s. -/
def onlyHbm (s n : State) : Prop :=
  { n with hbm := s.hbm, pin := s.pin, dirty := s.dirty, poison := s.poison, pinPoison := s.pinPoison } = s

theorem onlyHbm_trans {s m n : State} (h : onlyHbm s m) (hn : onlyHbm m n) : onlyHbm s n := by
  unfold onlyHbm at *
  calc { n with hbm := s.hbm, pin := s.pin, dirty := s.dirty, poison := s.poison, pinPoison := s.pinPoison }
      = { { n with hbm := m.hbm, pin := m.pin, dirty := m.dirty, poison := m.poison, pinPoison := m.pinPoison } with
          hbm := s.hbm, pin := s.pin, dirty := s.dirty, poison := s.poison, pinPoison := s.pinPoison } := rfl
    _ = s := by rw [hn, h]

theorem pinPut_onlyHbm (a : Nat) (b : Byte) (s : State) : onlyHbm s (pinPut a b s) := by unfold pinPut; split <;> rfl

theorem pinWrite_onlyHbm (a : Nat) (d : List Byte) (s : State) : onlyHbm s (pinWrite a d s) := by
  induction d generalizing a s with
  | nil => rfl
  | cons b r ih => rw [pinWrite_cons]; exact onlyHbm_trans (pinPut_onlyHbm a b s) (ih (a + 1) _)

theorem hbmWrite_onlyHbm (a : Nat) (d : List Byte) (s : State) : onlyHbm s (hbmWrite a d s) := by
  obtain ⟨x, y, z, hw⟩ := hbmWrite_eq a d s
  have hl : onlyHbm s (withLines x y z s) := rfl
  rw [hw]
  split
  · exact onlyHbm_trans hl (pinWrite_onlyHbm a d _)
  · rfl

theorem onlyHbm_fields {s n : State} (h : onlyHbm s n) : n.accs = s.accs ∧ n.tiles = s.tiles ∧ n.ctxs = s.ctxs := by
  have haccs := congrArg State.accs h
  have htiles := congrArg State.tiles h
  have hctxs := congrArg State.ctxs h
  exact ⟨haccs, htiles, hctxs⟩

@[simp] theorem hbmWrite_accs (a : Nat) (d : List Byte) (s : State) : (hbmWrite a d s).accs = s.accs := (onlyHbm_fields (hbmWrite_onlyHbm a d s)).1
@[simp] theorem hbmWrite_tiles (a : Nat) (d : List Byte) (s : State) : (hbmWrite a d s).tiles = s.tiles := (onlyHbm_fields (hbmWrite_onlyHbm a d s)).2.1
@[simp] theorem hbmWrite_ctxs (a : Nat) (d : List Byte) (s : State) : (hbmWrite a d s).ctxs = s.ctxs := (onlyHbm_fields (hbmWrite_onlyHbm a d s)).2.2

theorem noTensor_hbmWrite {s : State} {a n : Nat} (h : noTensor s a n) (x : Nat) (d : List Byte) : noTensor (hbmWrite x d s) a n := by
  simpa only [noTensor, ctxOf, hbmWrite_ctxs] using h

/-! ### An access by its cases -/

section

variable {s : State} {id : Nat} {a : Acc}

theorem accHere_of_le (h : gAddr a.addr + accLen a ≤ hbmTop) : accHere a = accLen a := by unfold accHere; omega

theorem exec_hbmAccess (hl : live s = true) : exec (.hbmAccess id) s = .next (hbmAccess id s) := act_live hl rfl

/-- A read that may be served now: it takes its tokens, and ends where all of it lies in HBM and no line is poisoned (R24, R312). -/
theorem hbmAccess_read {len dst : Nat} {got : List Byte} {red : Option RedReq} (h : accNow s id a) (ht : gAddr a.addr + accLen a ≤ hbmTop)
    (hop : a.op = .read len got dst red) (ho : lineOpen s (gAddr a.addr) (accLen a) = false) :
    hbmAccess id s = charged a (fun s => if (memPoisoned s (gAddr a.addr) (accLen a)).isSome then accDone a 7 0 [] s
      else accDone a 0 0 (hbmRead s (gAddr a.addr) (accLen a)) s) s := by
  obtain ⟨_, hacc, hsv, hcur, hav⟩ := h
  simp [hbmAccess, hacc, hsv, hcur, hop, accHere_of_le ht, hav, ho]

/-- A write that may be served now: it waits for an open entry and for an earlier write of its engine, then goes on (R303, R318, R344). -/
theorem hbmAccess_write {d : List Byte} (h : accNow s id a) (ht : gAddr a.addr + accLen a ≤ hbmTop) (hop : a.op = .write d) :
    hbmAccess id s = if lineOpen s (gAddr a.addr) (accLen a) then setStage id .waitEntry s
      else if earlierWrite s a then s
      else accWrite a (charged a (fun s => accDone a 0 0 [] (spoilTensors (gAddr a.addr) (accLen a) (hbmWrite (gAddr a.addr) d s)))) s := by
  obtain ⟨_, hacc, hsv, hcur, hav⟩ := h
  simp [hbmAccess, hacc, hsv, hcur, hop, accHere_of_le ht, hav]

/-- A request that has its turn and its tokens is served. -/
theorem charged_served {s1 : State} {f : State → State} (ht : gAddr a.addr + accLen a ≤ hbmTop) (hturn : accTurn s a = true)
    (hc : chargeAll (gAddr a.addr) (accLen a) (accPart s a) s = some s1) : charged a f s = f s1 := by
  simp [charged, hturn, accHere_of_le ht, hc]

/-- One that lacks its turn or a token waits (R326). -/
theorem charged_waits {f : State → State} (ht : gAddr a.addr + accLen a ≤ hbmTop)
    (h : accTurn s a = false ∨ chargeAll (gAddr a.addr) (accLen a) (accPart s a) s = none) : charged a f s = s := by
  rcases h with h | h
  · simp [charged, h]
  · simp [charged, accHere_of_le ht, h]

end

/-! ### The answer to an access of a copy -/

theorem gDev_gAt {dev x : Nat} (hd : dev < 4096) (hx : x < 2 ^ 40) : gDev (gAt dev x) = dev := by
  simp only [gDev, gAt, Nat.shiftRight_eq_div_pow]
  omega

theorem gAddr_gAt {dev x : Nat} (hx : x < 2 ^ 40) : gAddr (gAt dev x) = x := by
  simp only [gAddr, gAt]
  omega

theorem ownDev_lt (s : State) : ownDev s < 4096 := Nat.mod_lt _ (by norm_num)

theorem spdAddr_lt {t d : Nat} (ht : t < 128) (hd : d < spdSize) : spdAddr t d < 2 ^ 40 := by
  simp only [spdAddr, spdBase, spdSize] at *
  omega

theorem spdOf_spdAddr {t d : Nat} (ht : t < 128) (hd : d < spdSize) : spdOf (spdAddr t d) = some (t, d) := by
  have hin : spdBase ≤ spdAddr t d ∧ spdAddr t d < spdBase + 128 * spdSize := by
    simp only [spdAddr, spdBase, spdSize] at *
    omega
  have ho : spdAddr t d - spdBase = t * spdSize + d := by simp only [spdAddr]; omega
  have hz : 0 < spdSize := Nat.zero_lt_of_lt hd
  rw [spdOf, if_pos hin, ho, Nat.add_comm, Nat.add_mul_div_right _ _ hz, Nat.add_mul_mod_self_right, Nat.div_eq_of_lt hd, Nat.mod_eq_of_lt hd,
    Nat.zero_add]

/-- A copy's write to its own scratchpad, where no cycle has granted a request of the tile, is performed at once (R274). -/
theorem postWrite_own {s : State} {t no row off c d : Nat} {g : BitVec 16} {x : List Byte} (ht : t < 128) (hd : d < spdSize)
    (hg : (tileOf s t).ports.got = []) (hv : vsWritable s t d x.length = true) :
    postWrite t no row off c g (gAt (ownDev s) (spdAddr t d)) x s = spdWrite t d x s := by
  have hlt := spdAddr_lt ht hd
  rw [postWrite, gDev_gAt (ownDev_lt s) hlt, gAddr_gAt hlt, if_pos rfl, spdOf_spdAddr ht hd]
  simp only [portMayWrite, portStore, hg, hv, if_true]

/-- The state that learns an access's outcome: the access has left the list, and flits were counted. -/
def accLeft (a : Acc) (s : State) : State := accTravels a { s with accs := accsWithout s a.id }

theorem accDone_cpy {a : Acc} {t no row off status sub : Nat} {data : List Byte} (s : State) (h : a.origin = .cpy t no row off) :
    accDone a status sub data s = reply a status sub data (accLeft a s) := by
  simp only [accDone, h]
  rfl

/-- The data of a copy's read goes to its destination. -/
theorem reply_read {s : State} {a : Acc} {t no row off len dst sub : Nat} {got data : List Byte} (h : a.origin = .cpy t no row off)
    (hop : a.op = .read len got dst none) (hc : current s a.ctx a.gen = true) :
    reply a 0 sub data s = postWrite t no row off a.ctx a.gen dst data s := by
  simp [reply, h, hop, hc]

/-- The answer to a copy's write asks for nothing. -/
theorem reply_write {s : State} {a : Acc} {t no row off sub : Nat} {b data : List Byte} (h : a.origin = .cpy t no row off)
    (hop : a.op = .write b) : reply a 0 sub data s = s := by
  simp [reply, h, hop]

/-! ### Served and waiting accesses -/

section

variable {s s1 : State} {id t no row off : Nat} {a : Acc}

/-- A served read is the write of its bytes into the scratchpad (R24, R274). -/
theorem hbmAccess_read_served {k d : Nat} (h : accNow s id a) (htop : gAddr a.addr + accLen a ≤ hbmTop) (hturn : accTurn s a = true)
    (ho : lineOpen s (gAddr a.addr) (accLen a) = false) (hc : chargeAll (gAddr a.addr) (accLen a) (accPart s a) s = some s1)
    (hor : a.origin = .cpy t no row off) (hop : a.op = .read k [] (gAt (ownDev s) (spdAddr t d)) none) (ht : t < 128) (hk : 0 < k)
    (hd : d + k ≤ spdSize) (hp : memPoisoned s (gAddr a.addr) k = none) (hg : (tileOf s t).ports.got = [])
    (hv : vsWritable s t d k = true) :
    ∃ x, hbmAccess id s = spdWrite t d (hbmRead s (gAddr a.addr) k) (accLeft a (withStackCtl x s)) := by
  have hserve := hbmAccess_read h htop hop ho
  obtain ⟨-, -, -, hcur, -⟩ := h
  obtain ⟨x, rfl⟩ := chargeAll_eq hc
  refine ⟨x, ?_⟩
  have hlen : accLen a = k := by rw [accLen, hop]
  have hp1 : memPoisoned (withStackCtl x s) (gAddr a.addr) k = none := hp
  have hr1 : hbmRead (withStackCtl x s) (gAddr a.addr) k = hbmRead s (gAddr a.addr) k := rfl
  have hpost : postWrite t no row off a.ctx a.gen (gAt (ownDev s) (spdAddr t d)) (hbmRead s (gAddr a.addr) k) (accLeft a (withStackCtl x s))
      = spdWrite t d (hbmRead s (gAddr a.addr) k) (accLeft a (withStackCtl x s)) :=
    postWrite_own (s := accLeft a (withStackCtl x s)) ht (by omega) hg (by rw [hbmRead_length]; exact hv)
  rw [hserve, charged_served htop hturn hc, hlen, hp1, hr1, if_neg (by simp), accDone_cpy _ hor, reply_read hor hop (show current (accLeft a (withStackCtl x s)) a.ctx a.gen = true from hcur), hpost]

/-- A served write puts its bytes into memory and leaves the list (R303). -/
theorem hbmAccess_write_served {b : List Byte} (h : accNow s id a) (htop : gAddr a.addr + accLen a ≤ hbmTop) (hturn : accTurn s a = true)
    (ho : lineOpen s (gAddr a.addr) (accLen a) = false) (hc : chargeAll (gAddr a.addr) (accLen a) (accPart s a) s = some s1)
    (hb : noBook s) (hn : noTensor s (gAddr a.addr) (accLen a)) (hor : a.origin = .cpy t no row off) (hop : a.op = .write b)
    (he : earlierWrite s a = false) : ∃ x, hbmAccess id s = accLeft a (hbmWrite (gAddr a.addr) b (withStackCtl x s)) := by
  obtain ⟨x, rfl⟩ := chargeAll_eq hc
  refine ⟨x, ?_⟩
  have hn1 : noTensor (withStackCtl x s) (gAddr a.addr) (accLen a) := hn
  rw [hbmAccess_write h htop hop, ho, he, if_neg Bool.false_ne_true, if_neg Bool.false_ne_true, accWrite_of_noBook hb,
    charged_served htop hturn hc, spoilTensors_of_noTensor (noTensor_hbmWrite hn1 _ b), accDone_cpy _ hor, reply_write hor hop]

end

/-- Settles O34: a served access is a read or a write of the bytes of HBM once its tokens are taken, which changes nothing else that the
statement names; an open entry, an earlier write, a missing turn and a missing token each hold a write back. -/
theorem hbmAccess_movesItsBytes : Obligations.HbmAccess := by
  intro s s1 id a h htop
  have hl : live s = true := h.1
  have hex : exec (.hbmAccess id) s = .next (hbmAccess id s) := exec_hbmAccess hl
  refine ⟨?_, ?_, ?_, ?_, ?_⟩
  · intro t no row off k d hturn ho hc hor hop ht hk hd hp hg hv
    obtain ⟨x, hx⟩ := hbmAccess_read_served h htop hturn ho hc hor hop ht hk hd hp hg hv
    refine ⟨spdWrite t d _ (accLeft a (withStackCtl x s)), by rw [hex, hx], spdWrite_accs .., ?_, fun j hj => ?_, spdWrite_hbm .., spdWrite_pin .., spdWrite_regs .., spdWrite_cpy ..⟩
    · have hself := spdRead_spdWrite_self t d (hbmRead s (gAddr a.addr) k) (accLeft a (withStackCtl x s))
      rwa [hbmRead_length] at hself
    · exact memByte_spdWrite_out t d _ _ j (by rwa [hbmRead_length])
  · intro t no row off b hturn ho hc hb hn hor hop he
    obtain ⟨x, hx⟩ := hbmAccess_write_served h htop hturn ho hc hb hn hor hop he
    refine ⟨accLeft a (hbmWrite (gAddr a.addr) b (withStackCtl x s)), by rw [hex, hx], ?_, hbmRead_hbmWrite_self _ b _, hbmRead_hbmWrite_out _ b _, hbmWrite_spd .., hbmWrite_regs .., hbmWrite_tiles ..⟩
    show accsWithout _ a.id = accsWithout s a.id
    rw [accsWithout, hbmWrite_accs]
    rfl
  · intro b hop ho
    refine ⟨setStage id .waitEntry s, ?_, rfl, rfl⟩
    rw [hex, hbmAccess_write h htop hop, if_pos ho]
  · intro b hop ho he hb hw
    rw [hex, hbmAccess_write h htop hop, ho, he, if_neg Bool.false_ne_true, if_neg Bool.false_ne_true, accWrite_of_noBook hb,
      charged_waits htop hw]
  · intro b hop ho he
    rw [hex, hbmAccess_write h htop hop, ho, if_neg Bool.false_ne_true, if_pos he]

end Sys2Proof.Machine
end

section
/-!
PROOFS. The ports and the edges between dies (chapters 1 and 12): what an entry of the firmware log may change, what an event at a port leaves
unchanged, and what each event does.
-/

namespace Sys2Proof.Machine

/-! ### An entry of the firmware log -/

/-- n is s but for what an entry of the firmware log may change. -/
def onlyLog (s n : State) : Prop := logKept s n = s

section

variable {s m n : State}

theorem onlyLog_trans (h : onlyLog s m) (hn : onlyLog m n) : onlyLog s n := by
  unfold onlyLog at *
  calc logKept s n = logKept s (logKept m n) := rfl
    _ = s := by rw [hn, h]

theorem onlyLog_of_onlyHbm (h : onlyHbm s n) : onlyLog s n := by
  unfold onlyHbm at h
  calc logKept s n = logKept s { n with hbm := s.hbm, pin := s.pin, dirty := s.dirty, poison := s.poison, pinPoison := s.pinPoison } := rfl
    _ = s := by rw [h]; rfl

theorem hbmPut_onlyLog (a : Nat) (d : List Byte) (s : State) : onlyLog s (hbmPut a d s) := by
  unfold hbmPut
  split
  · rfl
  · exact onlyLog_of_onlyHbm (hbmWrite_onlyHbm a d s)

theorem ownWrite_onlyLog (e p a : Nat) (d : List Byte) (s : State) : onlyLog s (ownWrite e p a d s) :=
  onlyLog_trans (hbmPut_onlyLog a d s) rfl

theorem sendRoce_onlyLog (k : Nat) (o : RoceOut) (s : State) : onlyLog s (sendRoce k o s) := by
  unfold sendRoce
  simp only
  repeat' split
  all_goals rfl

theorem setQ_onlyLog (k : Nat) (q : Queue) (s : State) : onlyLog s (setQ k q s) := rfl

theorem setQp_onlyLog (k : Nat) (x : Qp) (s : State) : onlyLog s (setQp k x s) := rfl

theorem roceLaunch_onlyLog (k i : Nat) (s : State) : onlyLog s (roceLaunch k i s) := by
  induction i generalizing s with
  | zero => rfl
  | succ i ih =>
    rw [roceLaunch]
    split
    · rfl
    · split
      · rfl
      · simp only
        split
        · rfl
        · exact onlyLog_trans (setQp_onlyLog k _ s) (onlyLog_trans (sendRoce_onlyLog k _ _) (ih _))

theorem roceRequest_onlyLog (k a : Nat) (rkey : BitVec 32) (d : List Byte) (len q i : Nat) (s : State) :
    onlyLog s (roceRequest k a rkey d len q i s) := by
  unfold roceRequest
  split
  · exact onlyLog_trans (setQp_onlyLog k _ s) (roceLaunch_onlyLog _ _ _)
  · rfl

/-- What an entry of the log does: it changes the ring and what carries it, and F0's unit may raise a record (R519, R581). -/
def logDid (s n : State) : Prop := onlyLog s n ∨ ∃ m r, onlyLog s m ∧ r.unit = 0x22 ∧ n = raise r m

theorem logDid_of_onlyLog (h : onlyLog s m) (hn : logDid m n) : logDid s n := by
  rcases hn with hn | ⟨k, r, hk, hr, rfl⟩
  · exact .inl (onlyLog_trans h hn)
  · exact .inr ⟨k, r, onlyLog_trans h hk, hr, rfl⟩

theorem logDid_ite {c : Prop} [Decidable c] (hm : logDid s m) (hn : logDid s n) : logDid s (if c then m else n) := by
  split
  · exact hm
  · exact hn

theorem qProduce_logDid (e p k : Nat) (d : List Byte) (s : State) : logDid s (qProduce e p k d s) := by
  unfold qProduce
  split
  · exact .inl rfl
  · simp only
    split
    · exact .inl (onlyLog_trans (setQ_onlyLog k _ s) (roceRequest_onlyLog ..))
    · split
      · exact .inl (onlyLog_trans (setQ_onlyLog k _ s) (ownWrite_onlyLog ..))
      · exact .inr ⟨setQ k _ s, atAddr s _ (blankFault s 5 6 0x22 4), setQ_onlyLog k _ s, rfl, rfl⟩

theorem logEntry_logDid (core level point a0 a1 : Nat) (s : State) : logDid s (logEntry core level point a0 a1 s) := by
  refine logDid_ite (logDid_of_onlyLog ?_ (qProduce_logDid ..)) (.inl ?_)
  · rfl
  · rfl

theorem trace_logDid (core point a0 a1 : Nat) (s : State) : logDid s (trace core point a0 a1 s) := by
  unfold trace
  split
  · exact logEntry_logDid ..
  · exact .inl rfl

/-- A core that does not trace writes nothing. -/
theorem trace_of_quiet {core point : Nat} (h : quiet s) (hc : core < 4) (hp : point < 64) (a0 a1 : Nat) : trace core point a0 a1 s = s := by
  simp [trace, h core point hc hp]

theorem logDid_fields (h : logDid s n) : n.regs = s.regs ∧ n.links = s.links ∧ n.sentBlks = s.sentBlks := by
  have hlog : ∀ m, onlyLog s m → m.regs = s.regs ∧ m.links = s.links ∧ m.sentBlks = s.sentBlks := by
    intro m hm
    have hregs := congrArg State.regs hm
    have hlinks := congrArg State.links hm
    have hblks := congrArg State.sentBlks hm
    exact ⟨hregs, hlinks, hblks⟩
  rcases h with h | ⟨m, r, hm, -, rfl⟩
  · exact hlog n h
  · simpa only [raise_regs, raise_links, raise_sentBlks] using hlog m hm

end

section

variable (core point a0 a1 : Nat) (s : State)

@[simp] theorem trace_regs : (trace core point a0 a1 s).regs = s.regs := (logDid_fields (trace_logDid ..)).1
@[simp] theorem trace_links : (trace core point a0 a1 s).links = s.links := (logDid_fields (trace_logDid ..)).2.1
@[simp] theorem trace_sentBlks : (trace core point a0 a1 s).sentBlks = s.sentBlks := (logDid_fields (trace_logDid ..)).2.2
@[simp] theorem regRaw_trace (a : Nat) : regRaw (trace core point a0 a1 s) a = regRaw s a := regRaw_eq_of_regs (trace_regs ..) a
@[simp] theorem now_trace : now (trace core point a0 a1 s) = now s := regRaw_trace ..
@[simp] theorem linkOf_trace (p : Nat) : linkOf (trace core point a0 a1 s) p = linkOf s p := by simp only [linkOf, trace_links]

end

/-! ### Records that wait -/

/-- No record of a unit of a die waits. -/
def noneWaiting (s : State) (unit die : Nat) : Prop := ∀ r ∈ s.faults, ¬ (r.unit = unit ∧ r.die = die)

theorem noneWaiting_of_faults {s n : State} {u d : Nat} (h : noneWaiting s u d) (hf : n.faults = s.faults) : noneWaiting n u d := by
  simpa only [noneWaiting, hf] using h

/-- A record of another unit leaves it so. -/
theorem noneWaiting_raise {s : State} {u d : Nat} {r : FaultRec} (h : noneWaiting s u d) (hr : r.unit ≠ u) : noneWaiting (raise r s) u d := by
  intro x hx ⟨hu, hd⟩
  unfold raise at hx
  split at hx
  · obtain ⟨y, hy, rfl⟩ := List.mem_map.1 hx
    refine h y hy ?_
    cases hs : sameUnit s r y <;> simpa [hs] using And.intro hu hd
  · rcases List.mem_append.1 hx with hx | hx
    · exact h x hx ⟨hu, hd⟩
    · exact hr (List.mem_singleton.1 hx ▸ hu)

theorem noneWaiting_trace {s : State} {u d : Nat} (h : noneWaiting s u d) (hu : u ≠ 0x22) (core point a0 a1 : Nat) :
    noneWaiting (trace core point a0 a1 s) u d := by
  have hlog : ∀ m, onlyLog s m → noneWaiting m u d := fun m hm => by
    have hf := congrArg State.faults hm
    exact noneWaiting_of_faults h hf
  rcases trace_logDid core point a0 a1 s with hn | ⟨m, r, hm, hr, hn⟩
  · exact hlog _ hn
  · rw [hn]
    exact noneWaiting_raise (hlog m hm) (by rw [hr]; exact fun e => hu e.symm)

/-- The first record of its unit waits. -/
theorem mem_raise {s : State} {r : FaultRec} (h : noneWaiting s r.unit r.die) : r ∈ (raise r s).faults := by
  have hfirst : s.faults.any (sameUnit s r) = false := by
    refine List.any_eq_false.2 fun x hx hs => h x hx ?_
    simp only [sameUnit, Bool.and_eq_true, beq_iff_eq] at hs
    exact ⟨hs.1.1.1.1.symm, hs.1.1.1.2.symm⟩
  rw [raise_first hfirst]
  exact List.mem_append_right _ (List.mem_singleton_self r)

/-! ### Addresses -/

theorem aBlw_ne_clock (p o : Nat) : aBlw p o ≠ aGlob 0x200000 := by simp only [aBlw, aGlob]; omega

theorem aBlw_notAtlas (p o : Nat) : notAtlas (aBlw p o) := by simp only [notAtlas, aBlw, aGlob]; omega

theorem clock_notAtlas : notAtlas (aGlob 0x200000) := by simp only [notAtlas, aGlob]; omega

@[simp] theorem aBlw_inj (p o o' : Nat) : aBlw p o = aBlw p o' ↔ o = o' := by simp only [aBlw, aGlob]; omega

theorem aBlw_lt_aCmps {p o : Nat} (hp : p < 16) (ho : o < 0x10000) (c : Nat) : aBlw p o < aCmps c := by simp only [aBlw, aCmps, aGlob]; omega

theorem aBlw_eq_iff {p q o o' : Nat} (ho : o < 0x10000) (ho' : o' < 0x10000) : aBlw p o = aBlw q o' ↔ p = q ∧ o = o' := by
  simp only [aBlw, aGlob]; omega

theorem aImg_atlas {o : Nat} (h : o < 0x10000) : ¬ notAtlas (aImg o) := by simp only [notAtlas, aImg, aAtl, aGlob]; omega

theorem aImg_lt_aCmps {o : Nat} (h : o < 0x10000) (c : Nat) : aImg o < aCmps c := by simp only [aImg, aAtl, aCmps, aGlob]; omega

/-! ### What an event at a port leaves unchanged -/

/-- Only port p changed, and the registers that say what the cores trace did not. -/
def portOnly (p : Nat) (l : List Nat) (s n : State) : Prop := portDid p l s n ∧ ∀ o, regRaw n (aCmps o) = regRaw s (aCmps o)

section

variable {p : Nat} {l : List Nat} {s m n : State}

theorem quiet_of_cmps (h : ∀ o, regRaw n (aCmps o) = regRaw s (aCmps o)) (hq : quiet s) : quiet n := by
  intro c k hc hk
  rw [traceOn, coreRuns, coreState, h, h, h]
  exact hq c k hc hk

theorem portOnly_refl (p : Nat) (l : List Nat) (s : State) : portOnly p l s s :=
  ⟨⟨rfl, fun _ => rfl, fun _ _ => rfl, fun _ _ _ => rfl⟩, fun _ => rfl⟩

theorem portOnly_trans (h : portOnly p l s m) (hn : portOnly p l m n) : portOnly p l s n := by
  obtain ⟨⟨hrest, hquiet, hlinks, hregs⟩, hcmps⟩ := h
  obtain ⟨⟨hrest', hquiet', hlinks', hregs'⟩, hcmps'⟩ := hn
  refine ⟨⟨?_, fun hq => ?_, fun q hp => (hlinks' q hp).trans (hlinks q hp), fun a ha hat => (hregs' a ha hat).trans (hregs a ha hat)⟩,
    fun o => (hcmps' o).trans (hcmps o)⟩
  · calc { logKept s n with links := s.links, regs := s.regs, sentBlks := s.sentBlks, faults := s.faults }
        = { logKept s { logKept m n with links := m.links, regs := m.regs, sentBlks := m.sentBlks, faults := m.faults } with
            links := s.links, regs := s.regs, sentBlks := s.sentBlks, faults := s.faults } := rfl
      _ = s := by rw [hrest', hrest]
  · have hm := hquiet hq
    have hn := hquiet' (quiet_of_cmps hcmps hq)
    calc logKept s n = logKept (logKept s m) n := rfl
      _ = n := by rw [hm, hn]

/-- A write of a register of the list, or of the Atlas. -/
theorem portOnly_regPut {a : Nat} (v : Nat) (ha : a ∈ l ∨ ¬ notAtlas a) (hc : ∀ c, a < aCmps c) : portOnly p l s (regPut a v s) := by
  refine ⟨⟨rfl, fun _ => rfl, fun _ _ => rfl, fun b hb hbt => regRaw_regPut_ne a v s ?_⟩, fun o => regRaw_regPut_ne a v s (hc o).ne'⟩
  rintro rfl
  rcases ha with ha | ha
  · exact hb ha
  · exact ha hbt

theorem portOnly_regPut_blw {o : Nat} (v : Nat) (hp : p < 16) (ho : o < 0x10000) (h : aBlw p o ∈ l) : portOnly p l s (regPut (aBlw p o) v s) :=
  portOnly_regPut v (.inl h) (aBlw_lt_aCmps hp ho)

theorem portOnly_regPut_img {o : Nat} (v : Nat) (ho : o < 0x10000) : portOnly p l s (regPut (aImg o) v s) :=
  portOnly_regPut v (.inr (aImg_atlas ho)) (aImg_lt_aCmps ho)

theorem portOnly_links {x : Tab Link} (h : ∀ q, q ≠ p → tgetD {} x q = linkOf s q) : portOnly p l s { s with links := x } :=
  ⟨⟨rfl, fun _ => rfl, h, fun _ _ _ => rfl⟩, fun _ => rfl⟩

theorem portOnly_modLink (f : Link → Link) : portOnly p l s (modLink p f s) := portOnly_links fun _ h => linkOf_modLink_ne p f s h

theorem portOnly_sentBlks (x : List (Nat × List Byte)) : portOnly p l s { s with sentBlks := x } :=
  ⟨⟨rfl, fun _ => rfl, fun _ _ => rfl, fun _ _ _ => rfl⟩, fun _ => rfl⟩

theorem raise_eq (r : FaultRec) (s : State) : ∃ x, raise r s = { s with faults := x } := by
  unfold raise
  split <;> exact ⟨_, rfl⟩

theorem portOnly_raise (r : FaultRec) : portOnly p l s (raise r s) := by
  obtain ⟨x, hx⟩ := raise_eq r s
  rw [hx]
  exact ⟨⟨rfl, fun _ => rfl, fun _ _ => rfl, fun _ _ _ => rfl⟩, fun _ => rfl⟩

theorem portOnly_trace {core point : Nat} (hc : core < 4) (hk : point < 64) (a0 a1 : Nat) : portOnly p l s (trace core point a0 a1 s) := by
  refine ⟨⟨?_, fun hq => by rw [trace_of_quiet hq hc hk]; rfl, fun q _ => linkOf_trace .., fun a _ _ => regRaw_trace ..⟩, fun o => regRaw_trace ..⟩
  have hlog : ∀ k x, onlyLog s k → { logKept s { k with faults := x } with links := s.links, regs := s.regs, sentBlks := s.sentBlks, faults := s.faults } = s := by
    intro k x hk
    calc { logKept s { k with faults := x } with links := s.links, regs := s.regs, sentBlks := s.sentBlks, faults := s.faults }
        = { logKept s k with links := s.links, regs := s.regs, sentBlks := s.sentBlks, faults := s.faults } := rfl
      _ = s := by rw [show logKept s k = s from hk]
  rcases trace_logDid core point a0 a1 s with h | ⟨m, r, h, -, hn⟩
  · exact hlog _ s.faults h
  · obtain ⟨x, hx⟩ := raise_eq r m
    rw [hn, hx]
    exact hlog m x h

end

/-! ### Counters and the registers of a port -/

theorem satAdd_lt (a n : Nat) : satAdd 64 a n < 2 ^ 64 := by unfold satAdd; omega

theorem satAdd_zero (s : State) (a : Nat) : satAdd 64 (regRaw s a) 0 = regRaw s a := by
  have := regRaw_lt s a
  unfold satAdd
  omega

@[simp] theorem regRaw_regCount_self (a n : Nat) (s : State) : regRaw (regCount a n s) a = satAdd 64 (regRaw s a) n := by
  rw [regCount, regMod, regRaw_regPut_self, Nat.mod_eq_of_lt (satAdd_lt _ _)]

@[simp] theorem regRaw_regCount_ne {a b : Nat} (n : Nat) (s : State) (h : b ≠ a) : regRaw (regCount a n s) b = regRaw s b := regRaw_regPut_ne _ _ _ h

@[simp] theorem regCount_links (a n : Nat) (s : State) : (regCount a n s).links = s.links := rfl
@[simp] theorem regCount_sentBlks (a n : Nat) (s : State) : (regCount a n s).sentBlks = s.sentBlks := rfl
@[simp] theorem regCount_faults (a n : Nat) (s : State) : (regCount a n s).faults = s.faults := rfl
@[simp] theorem linkOf_regCount (a n p : Nat) (s : State) : linkOf (regCount a n s) p = linkOf s p := rfl

/-- A count of the health record is a write of one word of the Atlas. -/
theorem atlCount_eq (o n : Nat) (s : State) : ∃ v, atlCount o n s = regPut (aImg o) v s := by
  unfold atlCount img32Put
  split <;> exact ⟨_, rfl⟩

/-- The word of the record that counts a health term in the current bucket (R543). -/
def healthWord (s : State) (term : Nat) : Nat := aImg (0x1E00 + 48 * s.power.bucket.val + 4 * term)

theorem healthCount_eq (term n : Nat) (s : State) : ∃ v, healthCount term n s = regPut (healthWord s term) v s := atlCount_eq _ n s

/-- A count of a port's link counters writes a word of the Atlas, and for four of them that of a health term (Table 17-5, R543). -/
theorem linkCount_cases (p j n : Nat) (s : State) : ∃ v, linkCount p j n s = regPut (aImg (0x1800 + 64 * p + 8 * j)) v s
    ∨ ∃ t w, t < 12 ∧ linkCount p j n s = regPut (healthWord s t) w (regPut (aImg (0x1800 + 64 * p + 8 * j)) v s) := by
  refine ⟨satAdd 64 (regRaw s (aImg (0x1800 + 64 * p + 8 * j))) n, ?_⟩
  have hterm : ∀ t, t < 12 → ∃ t' w, t' < 12 ∧ healthCount t n (regCount (aImg (0x1800 + 64 * p + 8 * j)) n s)
      = regPut (healthWord s t') w (regCount (aImg (0x1800 + 64 * p + 8 * j)) n s) := by
    intro t ht
    obtain ⟨w, hw⟩ := healthCount_eq t n (regCount (aImg (0x1800 + 64 * p + 8 * j)) n s)
    exact ⟨t, w, ht, hw⟩
  unfold linkCount
  simp only
  split
  · exact .inr (hterm 5 (by omega))
  · split
    · exact .inr (hterm 6 (by omega))
    · exact .inl rfl

section

variable {p j : Nat} (n : Nat) (s : State)

theorem linkCount_eq : ∃ x, linkCount p j n s = { s with regs := x } := by
  obtain ⟨v, h | ⟨t, w, -, h⟩⟩ := linkCount_cases p j n s
  · exact ⟨_, h⟩
  · exact ⟨_, h⟩

@[simp] theorem linkCount_links : (linkCount p j n s).links = s.links := by obtain ⟨x, h⟩ := linkCount_eq n s; rw [h]
@[simp] theorem linkCount_sentBlks : (linkCount p j n s).sentBlks = s.sentBlks := by obtain ⟨x, h⟩ := linkCount_eq n s; rw [h]
@[simp] theorem linkCount_faults : (linkCount p j n s).faults = s.faults := by obtain ⟨x, h⟩ := linkCount_eq n s; rw [h]
@[simp] theorem linkOf_linkCount (q : Nat) : linkOf (linkCount p j n s) q = linkOf s q := by simp only [linkOf, linkCount_links]

variable (hp : p < 16) (hj : j < 8)
include hp hj

theorem portOnly_linkCount (l : List Nat) : portOnly p l s (linkCount p j n s) := by
  have hword : ∀ v, portOnly p l s (regPut (aImg (0x1800 + 64 * p + 8 * j)) v s) := fun v => portOnly_regPut_img v (by omega)
  obtain ⟨v, h | ⟨t, w, ht, h⟩⟩ := linkCount_cases p j n s
  · exact h ▸ hword v
  · have := s.power.bucket.isLt
    exact h ▸ portOnly_trans (hword v) (portOnly_regPut_img w (by omega))

theorem regRaw_linkCount {a : Nat} (ha : notAtlas a) : regRaw (linkCount p j n s) a = regRaw s a := by
  obtain ⟨⟨-, -, -, hregs⟩, -⟩ := portOnly_linkCount n s hp hj []
  exact hregs a (List.not_mem_nil) ha

end

/-! ### The state of a port -/

theorem portState_regPut_status (p v : Nat) (s : State) : portState (regPut (aBlw p 4) v s) p = v % 8 := by
  simp only [portState, regRaw_regPut_self, fld, Nat.shiftRight_zero]
  omega

theorem portState_setPortState (p : Nat) {v : Nat} (s : State) (hv : v < 8) : portState (setPortState p v s) p = v := by
  rw [setPortState, regFld, regMod, portState_regPut_status]
  have := regRaw_lt s (aBlw p 4)
  simp only [setFld, fld, Nat.shiftLeft_eq, Nat.shiftRight_eq_div_pow]
  omega

@[simp] theorem linkOf_setPortState (p v q : Nat) (s : State) : linkOf (setPortState p v s) q = linkOf s q := rfl
@[simp] theorem setPortState_faults (p v : Nat) (s : State) : (setPortState p v s).faults = s.faults := rfl
@[simp] theorem setPortState_sentBlks (p v : Nat) (s : State) : (setPortState p v s).sentBlks = s.sentBlks := rfl

theorem regRaw_setPortState_ne {p v a : Nat} (s : State) (h : a ≠ aBlw p 4) : regRaw (setPortState p v s) a = regRaw s a := regRaw_regPut_ne _ _ _ h

/-! ### Retraining (R360) -/

section

variable {p : Nat} (s : State)

theorem linkOf_retrainStart : linkOf (retrainStart p s) p = { linkOf s p with since := now s } := by
  simp [retrainStart]

variable (hp : p < 16)
include hp

theorem regRaw_retrainStart {a : Nat} (ha : notAtlas a) :
    regRaw (retrainStart p s) a = regRaw (regCount (aBlw p 0x128) 1 (setPortState p 3 s)) a := by
  simp only [retrainStart, regRaw_trace, regRaw_modLink]
  exact regRaw_linkCount 1 _ hp (by omega) ha

theorem retrainStart_portOnly {l : List Nat} (h4 : aBlw p 4 ∈ l) (h128 : aBlw p 0x128 ∈ l) : portOnly p l s (retrainStart p s) := by
  have hregs : portOnly p l s (regCount (aBlw p 0x128) 1 (setPortState p 3 s)) :=
    portOnly_trans (portOnly_regPut_blw _ hp (by omega) h4) (portOnly_regPut_blw _ hp (by omega) h128)
  have hlink := portOnly_trans (portOnly_trans hregs (portOnly_linkCount (j := 4) 1 _ hp (by omega) l)) (portOnly_modLink fun l => { l with since := now s })
  exact portOnly_trans (portOnly_trans hlink (portOnly_trace (by omega) (by omega) p 3)) (portOnly_trace (by omega) (by omega) p 0)

theorem portState_retrainStart : portState (retrainStart p s) p = 3 := by
  rw [portState, regRaw_retrainStart s hp (aBlw_notAtlas p 4), regRaw_regCount_ne _ _ (by simp)]
  exact portState_setPortState p s (by omega)

end

/-- The clock at a tick that is reached at the latest (DESIGN CHOICE: log entry 3). -/
theorem now_advanceTo (t : Nat) (s : State) : now (advanceTo t s) = max (now s) t % 2 ^ 64 := by
  have := regRaw_lt s (aGlob 0x200000)
  unfold advanceTo
  split
  · next h => rw [setNow, now, regRaw_regPut_self, Nat.max_eq_right (by omega)]
  · next h => rw [Nat.max_eq_left (by omega), Nat.mod_eq_of_lt (by exact this)]

theorem advanceTo_portOnly {p : Nat} {l : List Nat} (h : aGlob 0x200000 ∈ l) (t : Nat) (s : State) : portOnly p l s (advanceTo t s) := by
  unfold advanceTo
  split
  · exact portOnly_regPut _ (.inl h) fun c => by simp only [aCmps, aGlob]; omega
  · exact portOnly_refl p l s

theorem regRaw_advanceTo_ne {a : Nat} (t : Nat) (s : State) (h : a ≠ aGlob 0x200000) : regRaw (advanceTo t s) a = regRaw s a := by
  unfold advanceTo
  split
  · exact regRaw_regPut_ne _ _ _ h
  · rfl

@[simp] theorem linkOf_advanceTo (t p : Nat) (s : State) : linkOf (advanceTo t s) p = linkOf s p := by unfold advanceTo; split <;> rfl

/-- RETRAINING's clause. -/
theorem retraining_spec {s : State} {p : Nat} (hp : p < 16) (h2 : portState s p = 2) (hu : (linkOf s p).unacked ≠ []) :
    portState (retraining p s) p = 3 ∧ linkOf (retraining p s) p = { linkOf s p with since := now (retraining p s) }
      ∧ now (retraining p s) = max (now s) ((linkOf s p).heard + 20000) % 2 ^ 64
      ∧ regRaw (retraining p s) (aBlw p 0x128) = satAdd 64 (regRaw s (aBlw p 0x128)) 1
      ∧ portDid p [aBlw p 4, aBlw p 0x128, aGlob 0x200000] s (retraining p s) := by
  have hr : retraining p s = retrainStart p (advanceTo ((linkOf s p).heard + 20000) s) := if_pos ⟨h2, hu⟩
  have hnow : now (retraining p s) = now (advanceTo ((linkOf s p).heard + 20000) s) := by
    rw [hr, now, regRaw_retrainStart _ hp clock_notAtlas, regRaw_regCount_ne _ _ (aBlw_ne_clock p _).symm,
      regRaw_setPortState_ne _ (aBlw_ne_clock p _).symm, now]
  refine ⟨by rw [hr, portState_retrainStart _ hp], ?_, ?_, ?_, ?_⟩
  · rw [hnow, hr, linkOf_retrainStart, linkOf_advanceTo]
  · rw [hnow, now_advanceTo]
  · rw [hr, regRaw_retrainStart _ hp (aBlw_notAtlas p _), regRaw_regCount_self, regRaw_setPortState_ne _ (by simp),
      regRaw_advanceTo_ne _ _ (aBlw_ne_clock p _)]
  · rw [hr]
    exact (portOnly_trans (advanceTo_portOnly (by simp) _ s) (retrainStart_portOnly _ hp (by simp) (by simp))).1

/-! ### What a port sends again (R359, R360) -/

theorem replay_portOnly {p : Nat} {l : List Nat} (s : State) (hp : p < 16) (h : aBlw p 0x120 ∈ l) : portOnly p l s (replay p s) := by
  have hregs := portOnly_trans (portOnly_regPut_blw (s := s) _ hp (by omega) h)
    (portOnly_linkCount (j := 3) (linkOf s p).unacked.length (regCount (aBlw p 0x120) (linkOf s p).unacked.length s) hp (by omega) l)
  exact portOnly_trans (portOnly_trans hregs (portOnly_sentBlks _)) (portOnly_modLink _)

theorem linkOf_replay (p : Nat) (s : State) : linkOf (replay p s) p = { linkOf s p with replays := (linkOf s p).replays + 1 } := by
  have h : ∀ (x : List (Nat × List Byte)) (m : State), linkOf { m with sentBlks := x } p = linkOf m p := fun _ _ => rfl
  simp only [replay, linkOf_modLink_self, h, linkOf_linkCount, linkOf_regCount]

@[simp] theorem replay_sentBlks (p : Nat) (s : State) : (replay p s).sentBlks = s.sentBlks ++ (linkOf s p).unacked.map (fun b => (p, b.2)) := by
  simp [replay]

@[simp] theorem replay_faults (p : Nat) (s : State) : (replay p s).faults = s.faults := by simp [replay]

theorem regRaw_replay {p a : Nat} (s : State) (hp : p < 16) (ha : notAtlas a) :
    regRaw (replay p s) a = regRaw (regCount (aBlw p 0x120) (linkOf s p).unacked.length s) a := by
  have hregs : (replay p s).regs = (linkCount p 3 (linkOf s p).unacked.length (regCount (aBlw p 0x120) (linkOf s p).unacked.length s)).regs := by
    simp only [replay, modLink_regs]
  rw [regRaw_eq_of_regs hregs, regRaw_linkCount _ _ hp (by omega) ha]

theorem pump_of_rest_nil {p : Nat} {s : State} (h : (linkOf s p).rest = []) (n : Nat) : pump p n s = s := by
  cases n with
  | zero => rfl
  | succ n => simp [pump, h]

/-- A block that goes out leaves the port's state and the records that wait, and is kept behind those that were kept for replay. -/
theorem sendBlock_keeps (p : Nat) (d : List Byte) (s : State) : (sendBlock p d s).regs = s.regs ∧ (sendBlock p d s).faults = s.faults
    ∧ (linkOf s p).unacked <+: (linkOf (sendBlock p d s) p).unacked := by
  refine ⟨rfl, rfl, ?_⟩
  have h : linkOf (sendBlock p d s) p = { blockSent (linkOf s p) d (makeBlock (linkOf s p) d) with
      heard := if (linkOf s p).unacked = [] then now s else (linkOf s p).heard } :=
    linkOf_modLink_self p (fun l => { blockSent (linkOf s p) d (makeBlock (linkOf s p) d) with heard := if l.unacked = [] then now s else l.heard }) s
  rw [h]
  unfold blockSent
  simp only
  split
  · exact List.prefix_rfl
  · exact List.prefix_append ..

/-- What goes out of a packet under way leaves the port's state and the records that wait, and is kept behind those kept for replay. -/
theorem pump_keeps (p n : Nat) (s : State) : portState (pump p n s) p = portState s p ∧ (pump p n s).faults = s.faults
    ∧ (linkOf s p).unacked <+: (linkOf (pump p n s) p).unacked := by
  induction n generalizing s with
  | zero => exact ⟨rfl, rfl, List.prefix_rfl⟩
  | succ n ih =>
    rw [pump]
    simp only
    split
    · exact ⟨rfl, rfl, List.prefix_rfl⟩
    · generalize hm : regCount (aBlw p 0x140) (((linkOf s p).rest.take 512).length / 64) (modLink p (fun l => { l with rest := l.rest.drop 512 }) s) = m
      have hlink : (linkOf m p).unacked = (linkOf s p).unacked := by rw [← hm, linkOf_regCount, linkOf_modLink_self]
      have hstate : portState m p = portState s p := by rw [← hm, portState, regRaw_regCount_ne _ _ (by simp)]; rfl
      have hfaults : m.faults = s.faults := by rw [← hm]; rfl
      obtain ⟨hregs, hf, hpre⟩ := sendBlock_keeps p ((linkOf s p).rest.take 512) m
      obtain ⟨ihs, ihf, ihp⟩ := ih (sendBlock p ((linkOf s p).rest.take 512) m)
      refine ⟨?_, by rw [ihf, hf, hfaults], hlink ▸ hpre.trans ihp⟩
      rw [ihs, portState, regRaw_eq_of_regs hregs, ← hstate, portState]

/-! ### RETRAINING_END -/

/-- The port is UP again and the link manager has traced it. -/
def upTraced (p : Nat) (s : State) : State :=
  trace 1 2 p (now (setPortState p 2 s) - (linkOf (setPortState p 2 s) p).since) (trace 1 0 p 2 (setPortState p 2 s))

/-- The port is UP again with its record, and nothing has been sent again yet. -/
def resumed (p : Nat) (s : State) : State :=
  raise (portFault (upTraced p s) p 8 2) (modLink p (fun l => { l with replays := 0, heard := now (upTraced p s) }) (upTraced p s))

theorem retrainingEnd_eq {p : Nat} {s : State} (h : portState s p = 3) : retrainingEnd p s = pump p 9 (replay p (resumed p s)) := if_pos h

/-- The port's record names its die (Table 15-3). -/
theorem portFault_names (s : State) (p cls code : Nat) : (portFault s p cls code).cls = cls ∧ (portFault s p cls code).code = code
    ∧ (portFault s p cls code).unit = 0x23 ∧ (portFault s p cls code).die = portDie p := ⟨rfl, rfl, rfl, rfl⟩

theorem recorded_raise {s m : State} {p cls code : Nat} (h : noneWaiting s 0x23 (portDie p) → noneWaiting m 0x23 (portDie p)) (k : State) :
    recorded s (raise (portFault k p cls code) m) cls code 0x23 (portDie p) :=
  fun hs => ⟨_, mem_raise (r := portFault k p cls code) (h hs), portFault_names k p cls code⟩

theorem recorded_of_faults {s m n : State} {cls code unit d : Nat} (h : recorded s m cls code unit d) (hf : n.faults = m.faults) :
    recorded s n cls code unit d := by
  simpa only [recorded, hf] using h

theorem setPortState_portOnly {p : Nat} {l : List Nat} (v : Nat) (s : State) (hp : p < 16) (h : aBlw p 4 ∈ l) : portOnly p l s (setPortState p v s) :=
  portOnly_regPut_blw _ hp (by omega) h

section

variable {p : Nat} (s : State)

theorem linkOf_resumed : linkOf (resumed p s) p = { linkOf s p with replays := 0, heard := now s } := by
  have hnow : now (setPortState p 2 s) = now s := regRaw_setPortState_ne s (aBlw_ne_clock p 4).symm
  simp only [resumed, upTraced, linkOf_raise, linkOf_modLink_self, linkOf_trace, linkOf_setPortState, now_trace, hnow]

@[simp] theorem resumed_sentBlks : (resumed p s).sentBlks = s.sentBlks := by simp [resumed, upTraced]

theorem portState_resumed : portState (resumed p s) p = 2 := by
  rw [resumed, upTraced, portState, regRaw_raise, regRaw_modLink, regRaw_trace, regRaw_trace]
  exact portState_setPortState p s (by omega)

theorem regRaw_resumed_ne {a : Nat} (h : a ≠ aBlw p 4) : regRaw (resumed p s) a = regRaw s a := by
  simp only [resumed, upTraced, regRaw_raise, regRaw_modLink, regRaw_trace, regRaw_setPortState_ne s h]

theorem resumed_portOnly {l : List Nat} (hp : p < 16) (h : aBlw p 4 ∈ l) : portOnly p l s (resumed p s) := by
  have htraced := portOnly_trans (portOnly_trans (setPortState_portOnly 2 s hp h) (portOnly_trace (core := 1) (point := 0) (by omega) (by omega) p 2))
    (portOnly_trace (core := 1) (point := 2) (by omega) (by omega) p (now (setPortState p 2 s) - (linkOf (setPortState p 2 s) p).since))
  exact portOnly_trans (portOnly_trans htraced (portOnly_modLink _)) (portOnly_raise _)

theorem resumed_recorded : recorded s (resumed p s) 8 2 0x23 (portDie p) := by
  have htraced : noneWaiting s 0x23 (portDie p) → noneWaiting (upTraced p s) 0x23 (portDie p) := fun h =>
    noneWaiting_trace (noneWaiting_trace (noneWaiting_of_faults h (setPortState_faults p 2 s)) (by omega) 1 0 p 2) (by omega) 1 2 p _
  exact recorded_raise (fun h => noneWaiting_of_faults (htraced h) (modLink_faults ..)) _

end

/-- RETRAINING_END's first clause: the port is UP with a record, and keeps all that waits to be acknowledged. -/
theorem retrainingEnd_up {s : State} {p : Nat} (hp : p < 16) (h3 : portState s p = 3) :
    portState (retrainingEnd p s) p = 2 ∧ recorded s (retrainingEnd p s) 8 2 0x23 (portDie p)
      ∧ (linkOf (retrainingEnd p s) p).unacked.take (linkOf s p).unacked.length = (linkOf s p).unacked := by
  obtain ⟨hstate, hfaults, hpre⟩ := pump_keeps p 9 (replay p (resumed p s))
  rw [linkOf_replay, linkOf_resumed s] at hpre
  rw [retrainingEnd_eq h3]
  refine ⟨?_, recorded_of_faults (resumed_recorded s) (by rw [hfaults, replay_faults]), (List.prefix_iff_eq_take.1 hpre).symm⟩
  rw [hstate, portState, regRaw_replay _ hp (aBlw_notAtlas p 4), regRaw_regCount_ne _ _ (by simp)]
  exact portState_resumed s

/-- Its second: with no packet under way nothing but the replay is sent. -/
theorem retrainingEnd_replays {s : State} {p : Nat} (hp : p < 16) (h3 : portState s p = 3) (hrest : (linkOf s p).rest = []) :
    linkOf (retrainingEnd p s) p = { linkOf s p with replays := 1, heard := now s }
      ∧ (retrainingEnd p s).sentBlks = s.sentBlks ++ (linkOf s p).unacked.map (fun b => (p, b.2))
      ∧ regRaw (retrainingEnd p s) (aBlw p 0x120) = satAdd 64 (regRaw s (aBlw p 0x120)) (linkOf s p).unacked.length
      ∧ portDid p [aBlw p 4, aBlw p 0x120] s (retrainingEnd p s) := by
  have hlink := linkOf_replay p (resumed p s)
  rw [linkOf_resumed s] at hlink
  rw [retrainingEnd_eq h3, pump_of_rest_nil (by rw [hlink]; exact hrest)]
  refine ⟨hlink, ?_, ?_, (portOnly_trans (resumed_portOnly s hp (by simp)) (replay_portOnly _ hp (by simp))).1⟩
  · rw [replay_sentBlks, resumed_sentBlks, linkOf_resumed s]
  · rw [regRaw_replay _ hp (aBlw_notAtlas p _), regRaw_regCount_self, regRaw_resumed_ne s (by simp), linkOf_resumed s]

/-! ### BLWp_STATUS (R356, R372) -/

/-- The value that a write of BLWp_STATUS holds. -/
def statusWord (st gen lanes cause : Nat) : Nat := st + gen <<< 8 + lanes <<< 12 + cause <<< 16

theorem statusWord_failed (lanes cause : Nat) : statusWord 4 0 lanes cause = 4 + lanes <<< 12 + cause <<< 16 := by simp [statusWord]

theorem statusWord_up (gen : Nat) : statusWord 2 gen 15 0 = 2 + gen <<< 8 + 15 <<< 12 := by simp [statusWord]

section

variable {p st gen lanes cause : Nat} (s : State)

/-- A write of BLWp_STATUS: a count when the port fails, the register, and the core's trace of a new STATE. -/
def statusPut (p st v : Nat) (s : State) : State := regPut (aBlw p 4) v (if st = 4 then linkCount p 5 1 s else s)

theorem setStatus_eq (p st gen lanes cause : Nat) (s : State) :
    setStatus p st gen lanes cause s = stateTraced p (portState s p) (statusPut p st (statusWord st gen lanes cause) s) := rfl

theorem stateTraced_cases (p old : Nat) (s : State) : stateTraced p old s = s ∨ stateTraced p old s = trace 1 0 p (portState s p) s := by
  unfold stateTraced
  split
  · exact .inl rfl
  · exact .inr rfl

theorem stateTraced_fields (p old : Nat) (s : State) :
    (stateTraced p old s).regs = s.regs ∧ (stateTraced p old s).links = s.links ∧ (stateTraced p old s).sentBlks = s.sentBlks := by
  rcases stateTraced_cases p old s with h | h <;> rw [h] <;> simp

theorem statusPut_fields (p st v : Nat) (s : State) : (statusPut p st v s).links = s.links ∧ (statusPut p st v s).sentBlks = s.sentBlks
    ∧ (statusPut p st v s).faults = s.faults := by
  unfold statusPut
  split <;> simp

@[simp] theorem setStatus_links : (setStatus p st gen lanes cause s).links = s.links := by
  rw [setStatus_eq, (stateTraced_fields ..).2.1, (statusPut_fields ..).1]

@[simp] theorem setStatus_sentBlks : (setStatus p st gen lanes cause s).sentBlks = s.sentBlks := by
  rw [setStatus_eq, (stateTraced_fields ..).2.2, (statusPut_fields ..).2.1]

@[simp] theorem linkOf_setStatus (q : Nat) : linkOf (setStatus p st gen lanes cause s) q = linkOf s q := by simp only [linkOf, setStatus_links]

theorem noneWaiting_setStatus {u d : Nat} (h : noneWaiting s u d) (hu : u ≠ 0x22) : noneWaiting (setStatus p st gen lanes cause s) u d := by
  have hput := noneWaiting_of_faults h (statusPut_fields p st (statusWord st gen lanes cause) s).2.2
  rw [setStatus_eq]
  rcases stateTraced_cases p (portState s p) (statusPut p st (statusWord st gen lanes cause) s) with h | h <;> rw [h]
  · exact hput
  · exact noneWaiting_trace hput hu _ _ _ _

theorem regRaw_setStatus (a : Nat) : regRaw (setStatus p st gen lanes cause s) a = regRaw (statusPut p st (statusWord st gen lanes cause) s) a :=
  regRaw_eq_of_regs (setStatus_eq p st gen lanes cause s ▸ (stateTraced_fields ..).1) a

/-- BLWp_STATUS as written. -/
theorem regRaw_setStatus_self (h : statusWord st gen lanes cause < 2 ^ 64) :
    regRaw (setStatus p st gen lanes cause s) (aBlw p 4) = statusWord st gen lanes cause := by
  rw [regRaw_setStatus, statusPut, regRaw_regPut_self, Nat.mod_eq_of_lt h]

/-- A write of any state but FAILED changes no other register. -/
theorem regRaw_setStatus_ne {a : Nat} (hst : st ≠ 4) (h : a ≠ aBlw p 4) : regRaw (setStatus p st gen lanes cause s) a = regRaw s a := by
  rw [regRaw_setStatus, statusPut, if_neg hst, regRaw_regPut_ne _ _ _ h]

theorem setStatus_portOnly {l : List Nat} (hp : p < 16) (h : aBlw p 4 ∈ l) : portOnly p l s (setStatus p st gen lanes cause s) := by
  have hput : portOnly p l s (statusPut p st (statusWord st gen lanes cause) s) := by
    unfold statusPut
    split
    · exact portOnly_trans (portOnly_linkCount 1 s hp (by omega) l) (portOnly_regPut_blw _ hp (by omega) h)
    · exact portOnly_regPut_blw _ hp (by omega) h
  rw [setStatus_eq]
  rcases stateTraced_cases p (portState s p) (statusPut p st (statusWord st gen lanes cause) s) with h | h <;> rw [h]
  · exact hput
  · exact portOnly_trans hput (portOnly_trace (by omega) (by omega) _ _)

end

/-! ### A port stops carrying, or starts to train -/

/-- Port p starts with a link of its own again. -/
def withoutLink (p : Nat) (s : State) : State := { s with links := tdel s.links p }

section

variable {p : Nat} (s : State)

@[simp] theorem withoutLink_regs : (withoutLink p s).regs = s.regs := (rfl)
@[simp] theorem withoutLink_sentBlks : (withoutLink p s).sentBlks = s.sentBlks := (rfl)
@[simp] theorem withoutLink_faults : (withoutLink p s).faults = s.faults := (rfl)
@[simp] theorem regRaw_withoutLink (a : Nat) : regRaw (withoutLink p s) a = regRaw s a := regRaw_eq_of_regs (withoutLink_regs s) a
@[simp] theorem linkOf_withoutLink : linkOf (withoutLink p s) p = {} := by simp [linkOf, withoutLink, tgetD, tget_tdel]
theorem linkOf_withoutLink_ne {q : Nat} (h : q ≠ p) : linkOf (withoutLink p s) q = linkOf s q := by simp [linkOf, withoutLink, tgetD, tget_tdel, h]

theorem withoutLink_portOnly (l : List Nat) : portOnly p l s (withoutLink p s) := portOnly_links fun _ h => linkOf_withoutLink_ne s h

/-- The link goes, and what waited is counted if anything did (R582). -/
theorem linkDrop_cases (p : Nat) (s : State) : ((linkOf s p).queue.length = 0 ∧ linkDrop p s = withoutLink p s)
    ∨ linkDrop p s = withoutLink p (regCount (aBlw p 0x150) (linkOf s p).queue.length s) := by
  unfold linkDrop
  simp only
  split
  · next h => exact .inl ⟨h, rfl⟩
  · exact .inr rfl

@[simp] theorem linkOf_linkDrop : linkOf (linkDrop p s) p = {} := by rcases linkDrop_cases p s with ⟨-, h⟩ | h <;> rw [h, linkOf_withoutLink]

@[simp] theorem linkDrop_sentBlks : (linkDrop p s).sentBlks = s.sentBlks := by rcases linkDrop_cases p s with ⟨-, h⟩ | h <;> simp [h]

@[simp] theorem linkDrop_faults : (linkDrop p s).faults = s.faults := by rcases linkDrop_cases p s with ⟨-, h⟩ | h <;> simp [h]

theorem regRaw_linkDrop_self : regRaw (linkDrop p s) (aBlw p 0x150) = satAdd 64 (regRaw s (aBlw p 0x150)) (linkOf s p).queue.length := by
  rcases linkDrop_cases p s with ⟨h0, h⟩ | h
  · rw [h, h0, satAdd_zero, regRaw_withoutLink]
  · rw [h, regRaw_withoutLink, regRaw_regCount_self]

theorem regRaw_linkDrop_ne {a : Nat} (ha : a ≠ aBlw p 0x150) : regRaw (linkDrop p s) a = regRaw s a := by
  rcases linkDrop_cases p s with ⟨-, h⟩ | h
  · rw [h, regRaw_withoutLink]
  · rw [h, regRaw_withoutLink, regRaw_regCount_ne _ _ ha]

theorem linkDrop_portOnly {l : List Nat} (hp : p < 16) (hl : aBlw p 0x150 ∈ l) : portOnly p l s (linkDrop p s) := by
  rcases linkDrop_cases p s with ⟨-, h⟩ | h
  · exact h ▸ withoutLink_portOnly s l
  · exact h ▸ portOnly_trans (portOnly_regPut_blw _ hp (by omega) hl) (withoutLink_portOnly _ l)

theorem startTraining_eq (p : Nat) (s : State) : startTraining p s = withoutLink p (setStatus p 1 0 0 0 s) := by
  simp only [startTraining, withoutLink, setStatus_links]

@[simp] theorem linkOf_startTraining : linkOf (startTraining p s) p = {} := by rw [startTraining_eq, linkOf_withoutLink]

theorem linkOf_startTraining_ne {q : Nat} (h : q ≠ p) : linkOf (startTraining p s) q = linkOf s q := by
  rw [startTraining_eq, linkOf_withoutLink_ne _ h, linkOf_setStatus]

@[simp] theorem startTraining_sentBlks : (startTraining p s).sentBlks = s.sentBlks := by rw [startTraining_eq, withoutLink_sentBlks, setStatus_sentBlks]

theorem regRaw_startTraining_self : regRaw (startTraining p s) (aBlw p 4) = 1 := by
  rw [startTraining_eq, regRaw_withoutLink, regRaw_setStatus_self s (by decide)]
  rfl

theorem regRaw_startTraining_ne {a : Nat} (h : a ≠ aBlw p 4) : regRaw (startTraining p s) a = regRaw s a := by
  rw [startTraining_eq, regRaw_withoutLink, regRaw_setStatus_ne s (by decide) h]

theorem startTraining_portOnly {l : List Nat} (hp : p < 16) (h : aBlw p 4 ∈ l) : portOnly p l s (startTraining p s) :=
  startTraining_eq p s ▸ portOnly_trans (setStatus_portOnly s hp h) (withoutLink_portOnly _ l)

end

/-! ### RETRAIN_BUDGET and TRAINING_TIMEOUT -/

theorem fld_lt (v hi lo : Nat) : fld v hi lo < 2 ^ (hi + 1 - lo) := Nat.mod_lt _ (Nat.two_pow_pos _)

/-- The fields of BLWp_STATUS fit the register. -/
theorem statusWord_lt {st gen lanes cause : Nat} (hs : st < 8) (hg : gen < 16) (hl : lanes < 16) (hc : cause < 8) :
    statusWord st gen lanes cause < 2 ^ 64 := by
  simp only [statusWord, Nat.shiftLeft_eq]
  omega

/-- RETRAIN_BUDGET's clause: the port is FAILED with cause 5, and what waited is discarded (R360, R582). -/
theorem retrainBudget_spec {s : State} {p : Nat} (hp : p < 16) (h3 : portState s p = 3) :
    regRaw (retrainBudget p s) (aBlw p 4) = statusWord 4 (fld (regRaw s (aBlw p 4)) 8 8) (fld (regRaw s (aBlw p 4)) 15 12) 5
      ∧ linkOf (retrainBudget p s) p = {}
      ∧ regRaw (retrainBudget p s) (aBlw p 0x150) = satAdd 64 (regRaw s (aBlw p 0x150)) (linkOf s p).queue.length
      ∧ (retrainBudget p s).sentBlks = s.sentBlks ∧ recorded s (retrainBudget p s) 8 1 0x23 (portDie p)
      ∧ portDid p [aBlw p 4, aBlw p 0x150] s (retrainBudget p s) := by
  generalize hg : fld (regRaw s (aBlw p 4)) 8 8 = g
  generalize hl : fld (regRaw s (aBlw p 4)) 15 12 = lanes
  generalize hm : trace 1 2 p (now s - (linkOf s p).since) s = m
  have hr : retrainBudget p s = raise (portFault (linkDrop p (setStatus p 4 g lanes 5 m)) p 8 1) (linkDrop p (setStatus p 4 g lanes 5 m)) := by
    rw [← hg, ← hl, ← hm]
    exact if_pos h3
  have hfit : statusWord 4 g lanes 5 < 2 ^ 64 := by
    have hg2 := fld_lt (regRaw s (aBlw p 4)) 8 8
    have hl2 := fld_lt (regRaw s (aBlw p 4)) 15 12
    exact statusWord_lt (by omega) (by omega) (by omega) (by omega)
  have hmreg : ∀ a, regRaw m a = regRaw s a := fun a => by rw [← hm, regRaw_trace]
  have hmlink : linkOf m p = linkOf s p := by rw [← hm, linkOf_trace]
  have hm150 : regRaw (setStatus p 4 g lanes 5 m) (aBlw p 0x150) = regRaw s (aBlw p 0x150) := by
    rw [regRaw_setStatus, statusPut, if_pos rfl, regRaw_regPut_ne _ _ _ (by simp), regRaw_linkCount 1 m hp (by omega) (aBlw_notAtlas p _), hmreg]
  rw [hr]
  refine ⟨?_, ?_, ?_, ?_, recorded_raise (fun h => ?_) _, ?_⟩
  · rw [regRaw_raise, regRaw_linkDrop_ne _ (by simp), regRaw_setStatus_self _ hfit]
  · rw [linkOf_raise, linkOf_linkDrop]
  · rw [regRaw_raise, regRaw_linkDrop_self, linkOf_setStatus, hmlink, hm150]
  · rw [raise_sentBlks, linkDrop_sentBlks, setStatus_sentBlks, ← hm, trace_sentBlks]
  · have htraced : noneWaiting m 0x23 (portDie p) := hm ▸ noneWaiting_trace h (by omega) 1 2 p _
    exact noneWaiting_of_faults (noneWaiting_setStatus m htraced (by omega)) (linkDrop_faults _)
  · have htraced : portOnly p [aBlw p 4, aBlw p 0x150] s m := hm ▸ portOnly_trace (by omega) (by omega) p _
    have hdropped := portOnly_trans (portOnly_trans htraced (setStatus_portOnly (st := 4) (gen := g) (lanes := lanes) (cause := 5) m hp (by simp)))
      (linkDrop_portOnly _ hp (by simp))
    exact (portOnly_trans hdropped (portOnly_raise _)).1

/-- TRAINING_TIMEOUT's clause: FAILED with cause 1 (R356). -/
theorem trainingTimeout_spec {s : State} {p : Nat} (hp : p < 16) (h1 : portState s p = 1) :
    regRaw (trainingTimeout p s) (aBlw p 4) = 4 + 1 <<< 16 ∧ (trainingTimeout p s).links = s.links
      ∧ portDid p [aBlw p 4] s (trainingTimeout p s) := by
  have hr : trainingTimeout p s = setStatus p 4 0 0 1 s := if_pos h1
  rw [hr]
  exact ⟨regRaw_setStatus_self s (by decide), setStatus_links s, (setStatus_portOnly s hp (by simp)).1⟩

/-! ### PORT_TRAINING_END (R356, R371, R372) -/

/-- Another end than the port's role expects answered. -/
def wrongPeer (s : State) (p : Nat) (r : TrainEnd) : Bool :=
  match expectedPeer s p with
  | some (d, k) => decide (r.peerDev ≠ d ∨ r.peerPort ≠ k)
  | none => false

theorem wrongPeer_of_expected {s : State} {p d k : Nat} {r : TrainEnd} (h : expectedPeer s p = some (d, k)) (hr : r.peerDev ≠ d ∨ r.peerPort ≠ k) :
    wrongPeer s p r = true := by
  simp [wrongPeer, h, hr]

theorem not_wrongPeer {s : State} {p : Nat} {r : TrainEnd} (h : ∀ d k, expectedPeer s p = some (d, k) → r.peerDev = d ∧ r.peerPort = k) :
    wrongPeer s p r = false := by
  unfold wrongPeer
  split
  · next d k he => simp [h d k he]
  · rfl

theorem wrongPeer_regPut {p : Nat} (v : Nat) (s : State) (r : TrainEnd) : wrongPeer (regPut (aBlw p 8) v s) p r = wrongPeer s p r := by
  have hpos : regRaw (regPut (aBlw p 8) v s) (aBlw 0 0x8000) = regRaw s (aBlw 0 0x8000) :=
    regRaw_regPut_ne _ _ _ (by rw [Ne, aBlw_eq_iff (by omega) (by omega)]; omega)
  have hshape : regRaw (regPut (aBlw p 8) v s) (aBlw 0 0x8008) = regRaw s (aBlw 0 0x8008) :=
    regRaw_regPut_ne _ _ _ (by rw [Ne, aBlw_eq_iff (by omega) (by omega)]; omega)
  have hrole : regRaw (regPut (aBlw p 8) v s) (aBlw p 0) = regRaw s (aBlw p 0) := regRaw_regPut_ne _ _ _ (by simp)
  simp only [wrongPeer, expectedPeer, roleOf, ownDev, dimX, dimY, dimZ, hpos, hshape, hrole]

/-- BLWp_PEER as the training leaves it (R372). -/
def peerWord (r : TrainEnd) : Nat := 2 ^ 31 + (r.peerPort % 16) <<< 24 + r.peerDev % 4096

theorem peerWord_lt (r : TrainEnd) : peerWord r < 2 ^ 64 := by
  simp only [peerWord, Nat.shiftLeft_eq]
  omega

/-- STATE, GEN, lanes and cause of a port by the result of its training. -/
def trainedStatus (s : State) (p : Nat) (r : TrainEnd) : Nat × Nat × Nat × Nat :=
  if r.lanes ≠ 15 then (4, 0, r.lanes.toNat, 2)
  else if r.genMatch = false then (4, 0, 15, 4)
  else if wrongPeer s p r then (4, 0, 15, 3)
  else (2, fld (regRaw s (aBlw p 0)) 4 4, 15, 0)

theorem portTrainingEnd_eq {s : State} {p : Nat} (r : TrainEnd) (h1 : portState s p = 1) :
    portTrainingEnd p r s = setStatus p (trainedStatus s p r).1 (trainedStatus s p r).2.1 (trainedStatus s p r).2.2.1 (trainedStatus s p r).2.2.2
      (regPut (aBlw p 8) (peerWord r) s) := by
  have hu : portTrainingEnd p r s = if r.lanes ≠ 15 then setStatus p 4 0 r.lanes.toNat 2 (regPut (aBlw p 8) (peerWord r) s)
      else if !r.genMatch then setStatus p 4 0 15 4 (regPut (aBlw p 8) (peerWord r) s)
      else if wrongPeer (regPut (aBlw p 8) (peerWord r) s) p r then setStatus p 4 0 15 3 (regPut (aBlw p 8) (peerWord r) s)
      else setStatus p 2 (fld (regRaw s (aBlw p 0)) 4 4) 15 0 (regPut (aBlw p 8) (peerWord r) s) := if_neg (fun h => h h1)
  rw [hu, wrongPeer_regPut, trainedStatus]
  cases r.genMatch <;> split <;> simp
  split <;> rfl

theorem trainedStatus_lt (s : State) (p : Nat) (r : TrainEnd) :
    statusWord (trainedStatus s p r).1 (trainedStatus s p r).2.1 (trainedStatus s p r).2.2.1 (trainedStatus s p r).2.2.2 < 2 ^ 64 := by
  have hl := r.lanes.isLt
  have hg := fld_lt (regRaw s (aBlw p 0)) 4 4
  unfold trainedStatus
  repeat' split
  all_goals exact statusWord_lt (by dsimp only; omega) (by dsimp only; omega) (by dsimp only; omega) (by dsimp only; omega)

/-- PORT_TRAINING_END's effect: BLWp_PEER and BLWp_STATUS by the result, and nothing else. -/
theorem portTrainingEnd_spec {s : State} {p : Nat} (r : TrainEnd) (hp : p < 16) (h1 : portState s p = 1) :
    regRaw (portTrainingEnd p r s) (aBlw p 8) = peerWord r
      ∧ regRaw (portTrainingEnd p r s) (aBlw p 4)
        = statusWord (trainedStatus s p r).1 (trainedStatus s p r).2.1 (trainedStatus s p r).2.2.1 (trainedStatus s p r).2.2.2
      ∧ (portTrainingEnd p r s).sentBlks = s.sentBlks ∧ (portTrainingEnd p r s).links = s.links
      ∧ portDid p [aBlw p 4, aBlw p 8] s (portTrainingEnd p r s) := by
  rw [portTrainingEnd_eq r h1]
  refine ⟨?_, regRaw_setStatus_self _ (trainedStatus_lt s p r), by rw [setStatus_sentBlks]; rfl, by rw [setStatus_links]; rfl, ?_⟩
  · rw [regRaw_setStatus, statusPut, regRaw_regPut_ne _ _ _ (by simp)]
    split
    · rw [regRaw_linkCount 1 _ hp (by omega) (aBlw_notAtlas p 8), regRaw_regPut_self, Nat.mod_eq_of_lt (peerWord_lt r)]
    · rw [regRaw_regPut_self, Nat.mod_eq_of_lt (peerWord_lt r)]
  · exact (portOnly_trans (portOnly_regPut_blw _ hp (by omega) (by simp)) (setStatus_portOnly _ hp (by simp))).1

/-! ### Writes of BLWp_CFG (R401) -/

theorem setBit_zero (v : Nat) (b : Bool) : setBit v 0 b = 2 * (v / 2) + b.toNat := by
  have hb := b.toNat_lt
  simp only [setBit, setFld, fld, Nat.shiftLeft_zero, Nat.shiftRight_zero]
  omega

theorem bit_setBit_zero (v : Nat) (b : Bool) (i : Nat) : bit (setBit v 0 b) i = if i = 0 then b else bit v i := by
  rw [setBit_zero]
  cases i with
  | zero => cases b <;> simp [bit, Nat.testBit_zero]
  | succ i =>
    have hb := b.toNat_lt
    rw [if_neg (by omega), bit, bit, Nat.testBit_succ, Nat.testBit_succ, show (2 * (v / 2) + b.toNat) / 2 = v / 2 by omega]

theorem bit_fld (v hi lo i : Nat) : bit (fld v hi lo) i = (decide (i < hi + 1 - lo) && bit v (lo + i)) := by
  simp only [bit, fld, Nat.testBit_mod_two_pow, Nat.testBit_shiftRight]

/-- The value that a write of EN puts into BLWp_CFG: its writable bits, of which EN alone is new (Table 12-10). -/
def cfgWith (s : State) (p : Nat) (en : Bool) : Nat := Nat.land (setBit (regRaw s (aBlw p 0)) 0 en) 0xF11

theorem bit_cfgMask {i : Nat} (h : i = 0 ∨ i = 4 ∨ (8 ≤ i ∧ i < 12)) : bit 0xF11 i = true := by
  rcases h with rfl | rfl | ⟨hlo, hhi⟩
  · rfl
  · rfl
  · interval_cases i <;> rfl

section

variable (s : State) (p : Nat) (en : Bool)

theorem bit_cfgWith_en : bit (cfgWith s p en) 0 = en := by
  rw [cfgWith, bit_land, bit_setBit_zero, bit_cfgMask (.inl rfl)]
  simp

theorem bit_cfgWith_gen : bit (cfgWith s p en) 4 = bit (regRaw s (aBlw p 0)) 4 := by
  rw [cfgWith, bit_land, bit_setBit_zero, bit_cfgMask (.inr (.inl rfl))]
  simp

theorem fld_cfgWith_role : fld (cfgWith s p en) 11 8 = roleOf s p := by
  refine Nat.eq_of_testBit_eq fun i => ?_
  show bit (fld (cfgWith s p en) 11 8) i = bit (fld (regRaw s (aBlw p 0)) 11 8) i
  rw [bit_fld, bit_fld]
  by_cases hi : i < 11 + 1 - 8
  · rw [cfgWith, bit_land, bit_setBit_zero, bit_cfgMask (.inr (.inr ⟨by omega, by omega⟩)), if_neg (by omega), Bool.and_true]
  · rw [decide_eq_false hi, Bool.false_and, Bool.false_and]

theorem cfgWith_lt : cfgWith s p en < 2 ^ 64 := Nat.lt_of_le_of_lt (Nat.and_le_right (n := setBit (regRaw s (aBlw p 0)) 0 en) (m := 0xF11)) (by norm_num)

/-- The bits beyond those of a 4-byte access are not writable. -/
theorem land_mod_cfgMask (v : Nat) : Nat.land (v % 2 ^ 32) 0xF11 = Nat.land v 0xF11 := by
  refine Nat.eq_of_testBit_eq fun i => ?_
  show bit (Nat.land (v % 2 ^ 32) 0xF11) i = bit (Nat.land v 0xF11) i
  rw [bit_land, bit_land, bit_mod_two_pow]
  by_cases hi : i < 32
  · rw [decide_eq_true hi, Bool.true_and]
  · have hm : bit 0xF11 i = false := Nat.testBit_lt_two_pow (Nat.lt_of_lt_of_le (by norm_num) (Nat.pow_le_pow_right (n := 2) (i := 32) (by norm_num) (by omega)))
    rw [hm, Bool.and_false, Bool.and_false]

/-- BLWp_CFG with its new value, and nothing started or stopped yet. -/
def cfgPut : State := regPut (aBlw p 0) (cfgWith s p en) s

theorem regRaw_cfgPut_ne {a : Nat} (h : a ≠ aBlw p 0) : regRaw (cfgPut s p en) a = regRaw s a := regRaw_regPut_ne _ _ _ h

theorem regRaw_cfgPut_self : regRaw (cfgPut s p en) (aBlw p 0) = cfgWith s p en := by
  rw [cfgPut, regRaw_regPut_self, Nat.mod_eq_of_lt (cfgWith_lt s p en)]

theorem mayTrain_cfgPut : mayTrain (cfgPut s p en) p = mayTrain s p := by
  have hpos : regRaw (cfgPut s p en) (aBlw 0 0x8000) = regRaw s (aBlw 0 0x8000) :=
    regRaw_cfgPut_ne s p en (by rw [Ne, aBlw_eq_iff (by omega) (by omega)]; omega)
  have hrole : roleOf (cfgPut s p en) p = roleOf s p := by rw [roleOf, regRaw_cfgPut_self, fld_cfgWith_role]
  rw [mayTrain, hpos, hrole, mayTrain]

/-- The port is DOWN, EN was 0, and its role lets it train (R401). -/
def startsTraining : Prop := portState s p = 0 ∧ bit (regRaw s (aBlw p 0)) 0 = false ∧ mayTrain s p = true

/-- A write of EN leaves ROLE and GEN as they are, so it is performed in every STATE. -/
theorem blwCfgWrite_en (hrole : roleOf s p ≤ 9) : blwCfgWrite p (setBit (regRaw s (aBlw p 0)) 0 en % 2 ^ 32) s
    = if !en then some (linkDrop p (setStatus p 0 0 0 0 (cfgPut s p en)))
      else if portState s p = 0 ∧ (!bit (regRaw s (aBlw p 0)) 0) = true ∧ mayTrain (cfgPut s p en) p = true then some (startTraining p (cfgPut s p en))
      else some (cfgPut s p en) := by
  have hfix : ¬ ((fld (cfgWith s p en) 11 8 ≠ fld (regRaw s (aBlw p 0)) 11 8 ∨ bit (cfgWith s p en) 4 ≠ bit (regRaw s (aBlw p 0)) 4)
      ∧ portState s p ≠ 0 ∧ portState s p ≠ 4) := by
    rw [fld_cfgWith_role, bit_cfgWith_gen]
    exact fun h => h.1.elim (fun hr => hr rfl) (fun hg => hg rfl)
  have hlow : ¬ 9 < fld (cfgWith s p en) 11 8 := by rw [fld_cfgWith_role]; omega
  have hen := bit_cfgWith_en s p en
  simp only [blwCfgWrite, land_mod_cfgMask]
  rw [← cfgWith, if_neg hfix, if_neg hlow, hen]
  rfl

theorem blwCfgWrite_starts (hrole : roleOf s p ≤ 9) (h : startsTraining s p) :
    blwCfgWrite p (setBit (regRaw s (aBlw p 0)) 0 true % 2 ^ 32) s = some (startTraining p (cfgPut s p true)) := by
  obtain ⟨hdown, hoff, hmay⟩ := h
  rw [blwCfgWrite_en s p true hrole, mayTrain_cfgPut, hoff, if_neg (by simp), if_pos ⟨hdown, rfl, hmay⟩]

theorem blwCfgWrite_stays (hrole : roleOf s p ≤ 9) (h : ¬ startsTraining s p) :
    blwCfgWrite p (setBit (regRaw s (aBlw p 0)) 0 true % 2 ^ 32) s = some (cfgPut s p true) := by
  rw [blwCfgWrite_en s p true hrole, mayTrain_cfgPut, if_neg (by simp)]
  refine if_neg ?_
  rintro ⟨hdown, hoff, hmay⟩
  exact h ⟨hdown, by simpa using hoff, hmay⟩

theorem blwCfgWrite_disable (hrole : roleOf s p ≤ 9) : blwCfgWrite p (setBit (regRaw s (aBlw p 0)) 0 false % 2 ^ 32) s
    = some (linkDrop p (setStatus p 0 0 0 0 (cfgPut s p false))) := by
  rw [blwCfgWrite_en s p false hrole, if_pos (by rfl)]

theorem cfgPut_portOnly {l : List Nat} (hp : p < 16) (h : aBlw p 0 ∈ l) : portOnly p l s (cfgPut s p en) := portOnly_regPut_blw _ hp (by omega) h

end

/-- An access of a width that is allowed names a register. -/
theorem regSpec_of_regAt {s : State} {a width : Nat} {r : RegSpec} (h : regAt s a width = .ok r) : regSpec a = some r := by
  rw [regAt, refuseIf_eq_ok] at h
  cases hs : regSpec a with
  | none => simp [hs] at h
  | some r' =>
    simp only [hs] at h
    split at h
    · rw [allowIf_eq_ok] at h
      exact congrArg some (Except.ok.inj h.2.2)
    · rw [allowIf_eq_ok] at h
      exact congrArg some (Except.ok.inj h.2.2)

theorem blwCfg_narrow {p : Nat} (hp : p < 16) : (regSpec (aBlw p 0)).map (·.wide) = some false := by
  revert p
  decide

theorem unitWrite_blwCfg (who : Who) (r : RegSpec) {p : Nat} (v : Nat) (s : State) (hp : p < 16) :
    unitWrite who r (aBlw p 0) v s = blwCfgWrite p v s := by
  have ho : aBlw p 0 = aGlob (0x1100000 + p * 0x10000) := by rw [aBlw, Nat.add_zero]
  have hwin : 0x1100000 ≤ 0x1100000 + p * 0x10000 ∧ 0x1100000 + p * 0x10000 < 0x1200000 ∧ (0x1100000 + p * 0x10000) % 0x10000 = 0 := by omega
  have hidx : (0x1100000 + p * 0x10000 - 0x1100000) / 0x10000 = p := by omega
  rw [ho, unitWrite_glob, globWrite]
  iterate 9 rw [if_neg (by omega)]
  rw [if_pos hwin, hidx]

/-- A write of EN by F0 or the firmware is that of its window. -/
theorem regCommand_en {who : Who} {s n : State} {p v : Nat} (hw : mayWrite who (aBlw p 0) 4 s) (hp : p < 16) (hn : blwCfgWrite p (v % 2 ^ 32) s = some n) :
    regCommand who (aBlw p 0) 4 v s = n := by
  obtain ⟨hwho, r, hr⟩ := hw
  have hnarrow : r.wide = false := by
    have := blwCfg_narrow hp
    rw [regSpec_of_regAt (regAt_of_regFor hr)] at this
    exact Option.some.inj this
  exact regCommand_ok hwho (writeReg_whole v hr (.inl hnarrow) (by rw [unitWrite_blwCfg who r _ s hp]; exact hn))

/-- PORT_ENABLE's effect. -/
theorem portEnable_spec {who : Who} {s : State} {p : Nat} (hl : live s = true) (hp : p < 16) (hw : mayWrite who (aBlw p 0) 4 s) (hrole : roleOf s p ≤ 9) :
    ∃ n, exec (.portEnable who p) s = .next n ∧ regRaw n (aBlw p 0) = cfgWith s p true
      ∧ (startsTraining s p → regRaw n (aBlw p 4) = 1 ∧ linkOf n p = {})
      ∧ (¬ startsTraining s p → regRaw n (aBlw p 4) = regRaw s (aBlw p 4) ∧ n.links = s.links)
      ∧ portDid p [aBlw p 0, aBlw p 4] s n := by
  have hex : exec (.portEnable who p) s = .next (regCommand who (aBlw p 0) 4 (setBit (regRaw s (aBlw p 0)) 0 true) s) :=
    act_live hl (by simp [whoOk_agent hw.1, portOk, hp])
  have hput : portOnly p [aBlw p 0, aBlw p 4] s (cfgPut s p true) := cfgPut_portOnly s p true hp (by simp)
  by_cases h : startsTraining s p
  · refine ⟨startTraining p (cfgPut s p true), ?_, ?_, fun _ => ⟨regRaw_startTraining_self _, linkOf_startTraining _⟩, fun hn => absurd h hn,
      (portOnly_trans hput (startTraining_portOnly _ hp (by simp))).1⟩
    · rw [hex, regCommand_en hw hp (blwCfgWrite_starts s p hrole h)]
    · rw [regRaw_startTraining_ne _ (by simp), regRaw_cfgPut_self]
  · refine ⟨cfgPut s p true, ?_, regRaw_cfgPut_self s p true, fun hy => absurd hy h, fun _ => ⟨regRaw_cfgPut_ne s p true (by simp), rfl⟩, hput.1⟩
    rw [hex, regCommand_en hw hp (blwCfgWrite_stays s p hrole h)]

/-- PORT_DISABLE's effect. -/
theorem portDisable_spec {who : Who} {s : State} {p : Nat} (hl : live s = true) (hp : p < 16) (hw : mayWrite who (aBlw p 0) 4 s) (hrole : roleOf s p ≤ 9) :
    ∃ n, exec (.portDisable who p) s = .next n ∧ regRaw n (aBlw p 0) = cfgWith s p false ∧ regRaw n (aBlw p 4) = 0 ∧ linkOf n p = {}
      ∧ regRaw n (aBlw p 0x150) = satAdd 64 (regRaw s (aBlw p 0x150)) (linkOf s p).queue.length
      ∧ portDid p [aBlw p 0, aBlw p 4, aBlw p 0x150] s n := by
  have hex : exec (.portDisable who p) s = .next (regCommand who (aBlw p 0) 4 (setBit (regRaw s (aBlw p 0)) 0 false) s) :=
    act_live hl (by simp [whoOk_agent hw.1, portOk, hp])
  refine ⟨linkDrop p (setStatus p 0 0 0 0 (cfgPut s p false)), ?_, ?_, ?_, linkOf_linkDrop _, ?_, ?_⟩
  · rw [hex, regCommand_en hw hp (blwCfgWrite_disable s p hrole)]
  · rw [regRaw_linkDrop_ne _ (by simp), regRaw_setStatus_ne _ (by decide) (by simp), regRaw_cfgPut_self]
  · rw [regRaw_linkDrop_ne _ (by simp), regRaw_setStatus_self _ (by decide)]
    rfl
  · rw [regRaw_linkDrop_self, linkOf_setStatus, regRaw_setStatus_ne _ (by decide) (by simp), regRaw_cfgPut_ne s p false (by simp)]
    rfl
  · exact (portOnly_trans (portOnly_trans (cfgPut_portOnly s p false hp (by simp)) (setStatus_portOnly _ hp (by simp)))
      (linkDrop_portOnly _ hp (by simp))).1

/-! ### The link manager starts ports again (R566) -/

/-- A port that TRAINING_RETRY starts. -/
def retryDue (s : State) (p : Nat) : Prop := portState s p = 4 ∧ bit (regRaw s (aBlw p 0)) 0 = true ∧ mayTrain s p = true

/-- The link manager looks at one port. -/
def retryPort (s : State) (p : Nat) : State :=
  if portState s p = 4 ∧ bit (regRaw s (aBlw p 0)) 0 ∧ mayTrain s p then startTraining p s else s

theorem trainingRetry_eq {s : State} (h : coreRuns s 1 = true) : trainingRetry s = (List.range 16).foldl retryPort s := by
  rw [trainingRetry, h]
  rfl

section

variable {p : Nat} (s : State)

theorem retryPort_of_due (h : retryDue s p) : retryPort s p = startTraining p s := if_pos h

theorem retryPort_of_not_due (h : ¬ retryDue s p) : retryPort s p = s := if_neg h

theorem regRaw_retryPort_ne {a : Nat} (ha : a ≠ aBlw p 4) : regRaw (retryPort s p) a = regRaw s a := by
  by_cases h : retryDue s p
  · rw [retryPort_of_due s h, regRaw_startTraining_ne s ha]
  · rw [retryPort_of_not_due s h]

theorem linkOf_retryPort_ne {q : Nat} (hq : q ≠ p) : linkOf (retryPort s p) q = linkOf s q := by
  by_cases h : retryDue s p
  · rw [retryPort_of_due s h, linkOf_startTraining_ne s hq]
  · rw [retryPort_of_not_due s h]

theorem aBlw_ne_of_port {p q o : Nat} (hq : q ≠ p) (ho : o < 0x10000) : aBlw q o ≠ aBlw p 4 := by
  rw [Ne, aBlw_eq_iff ho (by omega)]
  exact fun h => hq h.1

/-- Whether another port is due does not change. -/
theorem retryDue_retryPort {q : Nat} (hq : q ≠ p) : retryDue (retryPort s p) q ↔ retryDue s q := by
  have hpos : regRaw (retryPort s p) (aBlw 0 0x8000) = regRaw s (aBlw 0 0x8000) :=
    regRaw_retryPort_ne s (by rw [Ne, aBlw_eq_iff (by omega) (by omega)]; omega)
  have hcfg := regRaw_retryPort_ne s (aBlw_ne_of_port hq (o := 0) (by omega))
  have hst := regRaw_retryPort_ne s (aBlw_ne_of_port hq (o := 4) (by omega))
  have hmay : mayTrain (retryPort s p) q = mayTrain s q := by rw [mayTrain, mayTrain, roleOf, roleOf, hpos, hcfg]
  have hstate : portState (retryPort s p) q = portState s q := by rw [portState, portState, hst]
  rw [retryDue, retryDue, hmay, hcfg, hstate]

/-- Beside links, registers, records and the log, n is as s; the log too where no core traces. -/
def retryFrame (s n : State) : Prop :=
  { logKept s n with links := s.links, regs := s.regs, faults := s.faults } = s ∧ (quiet s → logKept s n = n)
    ∧ ∀ o, regRaw n (aCmps o) = regRaw s (aCmps o)

theorem retryFrame_trans {s m n : State} (h : retryFrame s m) (hn : retryFrame m n) : retryFrame s n := by
  obtain ⟨hrest, hquiet, hcmps⟩ := h
  obtain ⟨hrest', hquiet', hcmps'⟩ := hn
  refine ⟨?_, fun hq => ?_, fun o => (hcmps' o).trans (hcmps o)⟩
  · calc { logKept s n with links := s.links, regs := s.regs, faults := s.faults }
        = { logKept s { logKept m n with links := m.links, regs := m.regs, faults := m.faults } with
            links := s.links, regs := s.regs, faults := s.faults } := rfl
      _ = s := by rw [hrest', hrest]
  · have hm := hquiet hq
    have hn := hquiet' (quiet_of_cmps hcmps hq)
    calc logKept s n = logKept (logKept s m) n := rfl
      _ = n := by rw [hm, hn]

theorem retryFrame_of_portOnly {l : List Nat} {s n : State} (h : portOnly p l s n) (hb : n.sentBlks = s.sentBlks) : retryFrame s n := by
  obtain ⟨⟨hrest, hquiet, -, -⟩, hcmps⟩ := h
  refine ⟨?_, hquiet, hcmps⟩
  calc { logKept s n with links := s.links, regs := s.regs, faults := s.faults }
      = { { logKept s n with links := s.links, regs := s.regs, sentBlks := s.sentBlks, faults := s.faults } with sentBlks := n.sentBlks } := rfl
    _ = s := by rw [hrest, hb]

theorem retryPort_frame (hp : p < 16) : retryFrame s (retryPort s p) := by
  by_cases h : retryDue s p
  · rw [retryPort_of_due s h]
    exact retryFrame_of_portOnly (l := [aBlw p 4]) (startTraining_portOnly s hp (by simp)) (startTraining_sentBlks s)
  · rw [retryPort_of_not_due s h]
    exact ⟨rfl, fun _ => rfl, fun _ => rfl⟩

end

section

variable (l : List Nat) (s : State)

theorem retryFold_frame (h : ∀ p ∈ l, p < 16) : retryFrame s (l.foldl retryPort s) := by
  induction l generalizing s with
  | nil => exact ⟨rfl, fun _ => rfl, fun _ => rfl⟩
  | cons p r ih => exact retryFrame_trans (retryPort_frame s (h p (by simp))) (ih _ fun q hq => h q (by simp [hq]))

theorem regRaw_retryFold_ne {a : Nat} (h : ∀ p ∈ l, a ≠ aBlw p 4) : regRaw (l.foldl retryPort s) a = regRaw s a := by
  induction l generalizing s with
  | nil => rfl
  | cons p r ih => rw [List.foldl_cons, ih _ fun q hq => h q (by simp [hq]), regRaw_retryPort_ne s (h p (by simp))]

theorem linkOf_retryFold_ne {q : Nat} (h : q ∉ l) : linkOf (l.foldl retryPort s) q = linkOf s q := by
  induction l generalizing s with
  | nil => rfl
  | cons p r ih =>
    rw [List.mem_cons, not_or] at h
    rw [List.foldl_cons, ih _ h.2, linkOf_retryPort_ne s h.1]

/-- A port of the list has started exactly when it was due. -/
theorem retryFold_port (hl : l.Nodup) {p : Nat} (hp : p ∈ l) :
    (retryDue s p → regRaw (l.foldl retryPort s) (aBlw p 4) = 1 ∧ linkOf (l.foldl retryPort s) p = {})
      ∧ (¬ retryDue s p → regRaw (l.foldl retryPort s) (aBlw p 4) = regRaw s (aBlw p 4) ∧ linkOf (l.foldl retryPort s) p = linkOf s p) := by
  induction l generalizing s with
  | nil => simp at hp
  | cons q r ih =>
    obtain ⟨hqr, hr⟩ := List.nodup_cons.1 hl
    rw [List.foldl_cons]
    by_cases hpq : p = q
    · subst hpq
      have hreg := regRaw_retryFold_ne r (retryPort s p) (a := aBlw p 4) fun k hk =>
        aBlw_ne_of_port (fun e => hqr (e ▸ hk)) (by omega)
      have hlink := linkOf_retryFold_ne r (retryPort s p) hqr
      refine ⟨fun h => ?_, fun h => ?_⟩
      · rw [hreg, hlink, retryPort_of_due s h]
        exact ⟨regRaw_startTraining_self s, linkOf_startTraining s⟩
      · rw [hreg, hlink, retryPort_of_not_due s h]
        exact ⟨rfl, rfl⟩
    · have hpr : p ∈ r := (List.mem_cons.1 hp).resolve_left hpq
      have ih := ih (retryPort s q) hr hpr
      rwa [retryDue_retryPort s hpq, regRaw_retryPort_ne s (aBlw_ne_of_port hpq (by omega)), linkOf_retryPort_ne s hpq] at ih

end

/-- TRAINING_RETRY's clause. -/
theorem trainingRetry_spec {s : State} (h : coreRuns s 1 = true) :
    (∀ p, p < 16 → retryDue s p → regRaw (trainingRetry s) (aBlw p 4) = 1 ∧ linkOf (trainingRetry s) p = {})
      ∧ (∀ p, p < 16 → ¬ retryDue s p → regRaw (trainingRetry s) (aBlw p 4) = regRaw s (aBlw p 4) ∧ linkOf (trainingRetry s) p = linkOf s p)
      ∧ retryFrame s (trainingRetry s)
      ∧ ∀ a, (∀ p, p < 16 → a ≠ aBlw p 4) → regRaw (trainingRetry s) a = regRaw s a := by
  rw [trainingRetry_eq h]
  have hport := fun p (hp : p < 16) => retryFold_port (List.range 16) s List.nodup_range (List.mem_range.2 hp)
  exact ⟨fun p hp => (hport p hp).1, fun p hp => (hport p hp).2, retryFold_frame _ s fun p hp => List.mem_range.1 hp,
    fun a ha => regRaw_retryFold_ne _ s fun p hp => ha p (List.mem_range.1 hp)⟩

/-! ### The edges between dies (R32, R33) -/

theorem aDnet_ne {d k e o : Nat} (h : d ≠ k) : aDnet d e o ≠ aDnet k e o := by
  simp only [aDnet, aDie]
  omega

/-- FLIT_CRC_FAILURE's clause: the failure is counted at the end it is seen at (R32). -/
theorem flitCrcFailure_spec {e d : Nat} (s : State) (h : edgeAt e d = true) : onlyRegs [aDnet d e 0x18] s (flitCrcFailure e d s)
    ∧ regRaw (flitCrcFailure e d s) (aDnet d e 0x18) = satAdd 64 (regRaw s (aDnet d e 0x18)) 1 := by
  rw [flitCrcFailure, if_pos h]
  exact ⟨⟨rfl, fun a ha => regRaw_regCount_ne _ _ (by simpa using ha)⟩, regRaw_regCount_self ..⟩

/-- The status of an end of an edge that is DEAD (R33). -/
def deadWord (v : Nat) : Nat := setFld (setFld v 19 16 3) 2 0 3

theorem setFld_cause (v : Nat) : setFld v 19 16 3 = v / 2 ^ 20 * 2 ^ 20 + 3 * 2 ^ 16 + v % 2 ^ 16 := by
  simp only [setFld, fld, Nat.shiftLeft_eq, Nat.shiftRight_eq_div_pow]
  omega

theorem setFld_state (v : Nat) : setFld v 2 0 3 = v / 8 * 8 + 3 := by
  simp only [setFld, fld, Nat.shiftLeft_zero, Nat.shiftRight_zero]
  omega

theorem deadWord_eq (v : Nat) : deadWord v = v / 2 ^ 20 * 2 ^ 20 + 3 * 2 ^ 16 + v % 2 ^ 16 / 8 * 8 + 3 := by
  rw [deadWord, setFld_cause, setFld_state]
  omega

theorem deadWord_state (v : Nat) : fld (deadWord v % 2 ^ 64) 2 0 = 3 := by
  simp only [deadWord_eq, fld, Nat.shiftRight_zero]
  omega

theorem deadWord_cause (v : Nat) : fld (deadWord v % 2 ^ 64) 19 16 = 3 := by
  simp only [deadWord_eq, fld, Nat.shiftRight_eq_div_pow]
  omega

/-- The end of an edge at a die goes DEAD. -/
def endDies (e : Nat) (s : State) (k : Nat) : State := regMod (aDnet k e 0) deadWord s

theorem endDies_eq (e k : Nat) (s : State) : endDies e s k = regPut (aDnet k e 0) (deadWord (regRaw s (aDnet k e 0))) s := rfl

theorem endDies_fold_eq (e : Nat) (l : List Nat) (s : State) : ∃ x, l.foldl (endDies e) s = { s with regs := x } := by
  induction l generalizing s with
  | nil => exact ⟨s.regs, rfl⟩
  | cons k r ih =>
    obtain ⟨y, hy⟩ : ∃ y, endDies e s k = { s with regs := y } := ⟨_, rfl⟩
    obtain ⟨x, hx⟩ := ih { s with regs := y }
    exact ⟨x, by rw [List.foldl_cons, hy, hx]⟩

theorem regRaw_endDies_fold_ne {e a : Nat} (l : List Nat) (s : State) (h : ∀ k ∈ l, a ≠ aDnet k e 0) : regRaw (l.foldl (endDies e) s) a = regRaw s a := by
  induction l generalizing s with
  | nil => rfl
  | cons k r ih =>
    rw [List.foldl_cons, ih _ fun q hq => h q (by simp [hq]), endDies_eq, regRaw_regPut_ne _ _ _ (h k (by simp))]

theorem regRaw_endDies_fold {e : Nat} (l : List Nat) (s : State) (hl : l.Nodup) {k : Nat} (hk : k ∈ l) :
    regRaw (l.foldl (endDies e) s) (aDnet k e 0) = deadWord (regRaw s (aDnet k e 0)) % 2 ^ 64 := by
  induction l generalizing s with
  | nil => simp at hk
  | cons q r ih =>
    obtain ⟨hqr, hr⟩ := List.nodup_cons.1 hl
    rw [List.foldl_cons]
    by_cases hkq : k = q
    · subst hkq
      rw [regRaw_endDies_fold_ne r _ fun j hj => aDnet_ne (ne_of_mem_of_not_mem hj hqr).symm, endDies_eq, regRaw_regPut_self]
    · rw [ih _ hr ((List.mem_cons.1 hk).resolve_left hkq), endDies_eq, regRaw_regPut_ne _ _ _ (aDnet_ne hkq)]

/-- The compute dies at the ends of an edge. -/
def edgeEnds (e : Nat) : List Nat := (List.range 4).filter (edgeAt e)

theorem mem_edgeEnds {e k : Nat} : k ∈ edgeEnds e ↔ k < 4 ∧ edgeAt e k = true := by simp [edgeEnds]

theorem nodup_edgeEnds (e : Nat) : (edgeEnds e).Nodup := List.nodup_range.filter _

/-- EDGE_LANE's effect on an edge that is UP: every end goes DEAD, with a record. -/
theorem edgeLane_eq {e d : Nat} {s : State} (hd : d ∈ edgeEnds e) (hup : ∀ k ∈ edgeEnds e, fld (regRaw s (aDnet k e 0)) 2 0 = 2) :
    ∃ k, edgeLane e s = raise (blankFault ((edgeEnds e).foldl (endDies e) s) 8 3 0x14 k) ((edgeEnds e).foldl (endDies e) s) := by
  have hends : (fun (s : State) (k : Nat) => regMod (aDnet k e 0) (fun v => setFld (setFld v 19 16 3) 2 0 3) s) = endDies e := rfl
  unfold edgeLane
  rw [hends, ← edgeEnds]
  cases hl : edgeEnds e with
  | nil => rw [hl] at hd; cases hd
  | cons k r => exact ⟨k, if_neg fun h => h (hup k (by simp [hl]))⟩

/-- EDGE_LANE's clause. -/
theorem edgeLane_spec {e d : Nat} {s : State} (hd : d ∈ edgeEnds e) (hup : ∀ k ∈ edgeEnds e, fld (regRaw s (aDnet k e 0)) 2 0 = 2) :
    (∀ k ∈ edgeEnds e, fld (regRaw (edgeLane e s) (aDnet k e 0)) 2 0 = 3 ∧ fld (regRaw (edgeLane e s) (aDnet k e 0)) 19 16 = 3)
      ∧ { edgeLane e s with regs := s.regs, faults := s.faults } = s
      ∧ (s.faults = [] → ∃ r, (edgeLane e s).faults = [r] ∧ r.cls = 8 ∧ r.code = 3 ∧ r.unit = 0x14)
      ∧ ∀ a, (∀ k ∈ edgeEnds e, a ≠ aDnet k e 0) → regRaw (edgeLane e s) a = regRaw s a := by
  obtain ⟨k, hk⟩ := edgeLane_eq hd hup
  obtain ⟨x, hx⟩ := endDies_fold_eq e (edgeEnds e) s
  rw [hk]
  refine ⟨fun j hj => ?_, ?_, fun hf => ?_, fun a ha => ?_⟩
  · rw [regRaw_raise, regRaw_endDies_fold _ s (nodup_edgeEnds e) hj]
    exact ⟨deadWord_state _, deadWord_cause _⟩
  · obtain ⟨y, hy⟩ := raise_eq (blankFault ((edgeEnds e).foldl (endDies e) s) 8 3 0x14 k) ((edgeEnds e).foldl (endDies e) s)
    rw [hy, hx]
  · have hnone : ((edgeEnds e).foldl (endDies e) s).faults = [] := by rw [hx]; exact hf
    exact ⟨_, by rw [raise_first (by rw [hnone]; rfl), hnone]; rfl, rfl, rfl, rfl⟩
  · rw [regRaw_raise, regRaw_endDies_fold_ne _ s ha]

/-! ### The statement -/

/-- Beside the start of training, a write of EN asks nothing of the port's STATE. -/
theorem not_startsTraining {s : State} {p : Nat} (h : portState s p ≠ 0 ∨ bit (regRaw s (aBlw p 0)) 0 = true ∨ mayTrain s p = false) :
    ¬ startsTraining s p := by
  rintro ⟨hdown, hoff, hmay⟩
  rcases h with h | h | h
  · exact h hdown
  · rw [hoff] at h; cases h
  · rw [hmay] at h; cases h

theorem not_retryDue {s : State} {p : Nat} (h : portState s p ≠ 4 ∨ bit (regRaw s (aBlw p 0)) 0 = false ∨ mayTrain s p = false) : ¬ retryDue s p := by
  rintro ⟨hfailed, hon, hmay⟩
  rcases h with h | h | h
  · exact h hfailed
  · rw [hon] at h; cases h
  · rw [hmay] at h; cases h

/-- What the training's result makes of BLWp_STATUS (R356, R372). -/
theorem trainedStatus_cases (s : State) (p : Nat) (r : TrainEnd) :
    (r.lanes ≠ 15 → trainedStatus s p r = (4, 0, r.lanes.toNat, 2))
      ∧ (r.lanes = 15 → r.genMatch = false → trainedStatus s p r = (4, 0, 15, 4))
      ∧ (r.lanes = 15 → r.genMatch = true → wrongPeer s p r = true → trainedStatus s p r = (4, 0, 15, 3))
      ∧ (r.lanes = 15 → r.genMatch = true → wrongPeer s p r = false → trainedStatus s p r = (2, fld (regRaw s (aBlw p 0)) 4 4, 15, 0)) := by
  refine ⟨fun hl => ?_, fun hl hg => ?_, fun hl hg hw => ?_, fun hl hg hw => ?_⟩
  · exact if_pos hl
  · rw [trainedStatus, if_neg (fun h => h hl), if_pos hg]
  · rw [trainedStatus, if_neg (fun h => h hl), if_neg (by simp [hg]), if_pos hw]
  · rw [trainedStatus, if_neg (fun h => h hl), if_neg (by simp [hg]), if_neg (by simp [hw])]

/-- Settles O37: each event's clause from its lemma, `exec` being the event's effect on a live module with such a port or edge. -/
theorem linkPorts : Obligations.LinkPorts := by
  refine ⟨fun s p hl hp => ?_, fun s hl hc => ?_, fun s e d hl he hd hat => ⟨?_, fun hup => ?_⟩⟩
  · have hok : portOk p = true := by simp [portOk, hp]
    refine ⟨fun h2 hu => ⟨_, act_live hl hok, retraining_spec hp h2 hu⟩, fun h3 => ⟨_, act_live hl hok, retrainingEnd_up hp h3⟩,
      fun h3 hr => ⟨_, act_live hl hok, retrainingEnd_replays hp h3 hr⟩, fun h3 => ⟨_, act_live hl hok, retrainBudget_spec hp h3⟩, fun r h1 => ?_,
      fun h1 => ⟨_, act_live hl hok, trainingTimeout_spec hp h1⟩, fun who hw hrole => ⟨?_, portDisable_spec hl hp hw hrole⟩⟩
    · obtain ⟨hpeer, hstatus, hblks, hlinks, hdid⟩ := portTrainingEnd_spec r hp h1
      obtain ⟨hlanes, hgen, hwrong, hup⟩ := trainedStatus_cases s p r
      refine ⟨_, act_live hl hok, hpeer, fun h => ?_, fun h hg => ?_, fun d k h hg he hk => ?_, fun h hg he => ?_, hblks, hlinks, hdid⟩
      · simpa only [hlanes h, statusWord_failed] using hstatus
      · simpa only [hgen h hg, statusWord_failed] using hstatus
      · simpa only [hwrong h hg (wrongPeer_of_expected he hk), statusWord_failed] using hstatus
      · simpa only [hup h hg (not_wrongPeer he), statusWord_up] using hstatus
    · obtain ⟨n, hex, hcfg, hstart, hstay, hdid⟩ := portEnable_spec hl hp hw hrole
      exact ⟨n, hex, hcfg, fun h0 hoff hmay => hstart ⟨h0, hoff, hmay⟩, fun h => hstay (not_startsTraining h), hdid⟩
  · obtain ⟨hdue, hother, ⟨hrest, hquiet, -⟩, hregs⟩ := trainingRetry_spec hc
    exact ⟨_, act_live hl rfl, fun p hp h4 hon hmay => hdue p hp ⟨h4, hon, hmay⟩, fun p hp h => hother p hp (not_retryDue h), hrest, hquiet, hregs⟩
  · exact ⟨_, act_live hl (decide_eq_true ⟨he, hd⟩), flitCrcFailure_spec s hat⟩
  · obtain ⟨hdead, hrest, hfault, hregs⟩ := edgeLane_spec (mem_edgeEnds.2 ⟨hd, hat⟩) fun k hk => hup k (mem_edgeEnds.1 hk).1 (mem_edgeEnds.1 hk).2
    exact ⟨_, act_live hl (decide_eq_true he), fun k hk hke => hdead k (mem_edgeEnds.2 ⟨hk, hke⟩), hrest, hfault,
      fun a ha => hregs a fun k hk => ha k (mem_edgeEnds.1 hk).1 (mem_edgeEnds.1 hk).2⟩

end Sys2Proof.Machine
end

section
/-!
PROOFS. The stewards (chapter 3): what an instruction makes of its steward, of the tile's scratchpad and of the units it names.
-/

namespace Sys2Proof.Machine

/-! ### What becomes of one steward -/

/-- Only steward k of tile t changed, and it became y. -/
def stBecomes (t k : Nat) (y : Steward) (s n : State) : Prop := onlySt t k s n ∧ stOf n t k = y

section

variable {t k : Nat} {y z : Steward} {s m n : State}

theorem stOf_of_stewards (h : n.stewards = s.stewards) (u j : Nat) : stOf n u j = stOf s u j := by rw [stOf, stOf, h]

theorem onlySt_trans (h : onlySt t k s m) (hn : onlySt t k m n) : onlySt t k s n := by
  refine ⟨?_, fun u j hj hu => (hn.2 u j hj hu).trans (h.2 u j hj hu)⟩
  have hm := h.1
  rw [← hn.1] at hm
  exact hm

theorem stBecomes_setSt (hk : k < 2) (y : Steward) (s : State) : stBecomes t k y s (setSt t k y s) :=
  ⟨setSt_onlySt t k hk y s, stOf_setSt_self t k y s⟩

theorem stBecomes_trans (h : stBecomes t k y s m) (hn : stBecomes t k z m n) : stBecomes t k z s n := ⟨onlySt_trans h.1 hn.1, hn.2⟩

theorem stBecomes_of_sameSt (h : sameSt n m) (hm : stBecomes t k y s m) : stBecomes t k y s n := ⟨sameSt_onlySt h hm.1, (h.2 t k).trans hm.2⟩

/-- Two states that list the same stewards differ in the table of the stewards alone. -/
theorem sameSt_iff : sameSt n m ↔ (∃ x, n = { m with stewards := x }) ∧ ∀ u j, stOf n u j = stOf m u j := by
  refine and_congr_left fun _ => ⟨fun h => ⟨n.stewards, ?_⟩, ?_⟩
  · rw [← h]
  · rintro ⟨x, rfl⟩
    rfl

end

section

variable {t n len raw w rd v cause tval : Nat} {s : State}

theorem stDone_becomes (hn : n < 2) (len rd v : Nat) (s : State) :
    stBecomes t n (setGpr rd v (retired len (stOf s t n))) s (stDone t n len rd v s) := stDone_retires t n len rd v hn s

/-- An instruction that changes its steward before it retires. -/
theorem stDone_after {y : Steward} {m : State} (hn : n < 2) (h : stBecomes t n y s m) :
    stBecomes t n (setGpr rd v (retired len y)) s (stDone t n len rd v m) := by
  rw [← h.2]
  exact stBecomes_trans h (stDone_becomes hn len rd v m)

theorem stJump_becomes (hn : n < 2) (rd link target : Nat) (s : State) :
    stBecomes t n (setGpr rd link { stOf s t n with pc := BitVec.ofNat 64 (aliasForm t target), instret := (stOf s t n).instret + 1 }) s
      (stJump t n rd link target s) := stBecomes_setSt hn _ s

theorem stWait_becomes (hn : n < 2) (k : WaitKind) (w : Nat) (s : State) : stBecomes t n (waitsAt k w (stOf s t n)) s (stWait t n k w s) :=
  stBecomes_setSt hn _ s

/-- A trap without a record (Table 3-6), of a steward that may take it. -/
theorem stTrap_becomes (hn : n < 2) (h : trapOk s t n) (cause tval : Nat) :
    stBecomes t n (trapInto t (stOf s t n) cause tval) s (stTrap t n cause tval none s) := by
  obtain ⟨hin, hvec⟩ := h
  have he : stTrap t n cause tval none s = setSt t n (trapInto t (stOf s t n) cause tval) s := by
    have hno : ((stOf s t n).intrap || (stOf s t n).mtvec == 0) = false := by rw [hin, beq_eq_false_iff_ne.2 hvec]; rfl
    simp only [stTrap, stTrapAs, hno, Bool.false_eq_true, if_false]
  rw [he]
  exact stBecomes_setSt hn _ s

/-- A stop (Table 3-6) is the steward's, with a record. -/
theorem stStop_eq (t n cause : Nat) (off : Option Nat) (s : State) :
    ∃ r, stStop t n cause off s = raise r (setSt t n { stOf s t n with run := .stopped, waitKind := .none, stopCause := cause } s) := ⟨_, rfl⟩

theorem stStop_spec (t n cause : Nat) (off : Option Nat) (s : State) :
    stOf (stStop t n cause off s) t n = { stOf s t n with run := .stopped, waitKind := .none, stopCause := cause }
      ∧ { stStop t n cause off s with stewards := s.stewards, faults := s.faults } = s := by
  obtain ⟨r, he⟩ := stStop_eq t n cause off s
  obtain ⟨x, hx⟩ := raise_eq r (setSt t n { stOf s t n with run := .stopped, waitKind := .none, stopCause := cause } s)
  rw [he]
  refine ⟨by rw [stOf_raise, stOf_setSt_self], ?_⟩
  rw [hx]
  rfl

end

/-! ### A steward's rows -/

section

variable {k : RvRow} {s s' s0 : State} {t n w len raw : Nat} {y : Steward}

/-- An instruction of a row of its own does to the steward what its effect does. -/
theorem stOwn_becomes {f : Nat → Nat → Nat → Nat → Nat → State → State} (h : stAt s t n w len raw s') (hk : rvRow w = k)
    (hf : stBecomes t n y s0 (f t n w len raw s')) :
    ∃ nx, act (tileOk t && decide (n < 2)) s (stOwn k t n f) = .next nx ∧ stBecomes t n y s0 nx := by
  obtain ⟨nx, hex, hsame⟩ := stOwn_at h hk f
  exact ⟨nx, hex, stBecomes_of_sameSt hsame hf⟩

/-- RV64_INSTRUCTION is the row of every instruction without one of its own. -/
theorem stBase_at (h : stAt s t n w len raw s') (hk : rvRow w = .base) :
    ∃ nx, exec (.rv64Instruction t n) s = .next nx ∧ sameSt nx (stBase t n w len raw s') := stRow_at h hk (stBadFetch t n) (stBase t n)

theorem stBase_becomes (h : stAt s t n w len raw s') (hk : rvRow w = .base) (hf : stBecomes t n y s0 (stBase t n w len raw s')) :
    ∃ nx, exec (.rv64Instruction t n) s = .next nx ∧ stBecomes t n y s0 nx := by
  obtain ⟨nx, hex, hsame⟩ := stBase_at h hk
  exact ⟨nx, hex, stBecomes_of_sameSt hsame hf⟩

/-- The major opcodes none of whose instructions has a row of its own. -/
theorem rvRow_base (h : rvOp w ∉ [0x0F, 0x2F, 0x73, 0x0B]) : rvRow w = .base := by
  simp only [List.mem_cons, List.not_mem_nil, or_false, not_or] at h
  obtain ⟨h1, h2, h3, h4⟩ := h
  unfold rvRow
  split
  · contradiction
  · contradiction
  · contradiction
  · contradiction
  · rfl

end

/-! ### Registers (R89) -/

theorem gprOf_zero (x : Steward) : gprOf x 0 = 0 := rfl

@[simp] theorem setGpr_zero (v : Nat) (x : Steward) : setGpr 0 v x = x := rfl

theorem gprOf_setGpr {v : Nat} (x : Steward) (d r : Nat) (hv : v < 2 ^ 64) :
    gprOf (setGpr d v x) r = if r = d ∧ d ≠ 0 then v else gprOf x r := by
  by_cases hd : d = 0
  · simp [hd]
  · have hput : setGpr d v x = { x with gpr := tset 0 x.gpr d (BitVec.ofNat 64 v) } := if_neg hd
    by_cases hr : r = d
    · subst hr
      rw [if_pos ⟨rfl, hd⟩, hput, gprOf, if_neg hd, tgetD_tset_self, BitVec.toNat_ofNat, Nat.mod_eq_of_lt hv]
    · rw [if_neg (fun h => hr h.1), hput, gprOf, gprOf, tgetD_tset_ne _ _ _ _ hr]

/-! ### Arithmetic -/

section

variable {t n len raw w v : Nat} {s : State}

/-- What LUI, AUIPC and the register and immediate operations do: the result goes to rd. -/
theorem stBase_arithmetic (h : (rvOp w = 0x37 ∧ v = immU w)
      ∨ (rvOp w = 0x17 ∧ v = add64 (stOf s t n).pc.toNat (immU w))
      ∨ (rvOp w = 0x13 ∧ opImm w (gprOf (stOf s t n) (rvRs1 w)) = some v)
      ∨ (rvOp w = 0x1B ∧ opImmW w (gprOf (stOf s t n) (rvRs1 w)) = some v)
      ∨ (rvOp w = 0x33 ∧ opReg (rvF7 w) (rvF3 w) (gprOf (stOf s t n) (rvRs1 w)) (gprOf (stOf s t n) (rvRs2 w)) = some v)
      ∨ (rvOp w = 0x3B ∧ opRegW (rvF7 w) (rvF3 w) (gprOf (stOf s t n) (rvRs1 w)) (gprOf (stOf s t n) (rvRs2 w)) = some v)) :
    rvRow w = .base ∧ stBase t n w len raw s = stDone t n len (rvRd w) v s := by
  rcases h with ⟨ho, rfl⟩ | ⟨ho, rfl⟩ | ⟨ho, hv⟩ | ⟨ho, hv⟩ | ⟨ho, hv⟩ | ⟨ho, hv⟩
  case inl | inr.inl => exact ⟨rvRow_base (by simp [ho]), by simp only [stBase, ho]⟩
  all_goals exact ⟨rvRow_base (by simp [ho]), by simp only [stBase, ho, hv]⟩

end

/-- A value of 64 bits sign-extended from 64 bits is itself. -/
theorem sx_64 {a : Nat} (h : a < 2 ^ 64) : sx 64 a = a := by
  unfold sx sgn wrap
  rw [Nat.mod_eq_of_lt h]
  simp only
  split <;> omega

theorem sub64_spec {a : Nat} (b : Nat) (ha : a < 2 ^ 64) : sub64 a b < 2 ^ 64 ∧ (sub64 a b + b) % 2 ^ 64 = a := by
  unfold sub64
  omega

/-- Settles O17: the arithmetic instructions retire with their result; the second half by the equations of `opReg` and of the registers. -/
theorem stewardArithmetic : Obligations.StewardArithmetic := by
  refine ⟨fun s s' t n w len raw v h hv => ?_, fun x d v r hv => ⟨gprOf_zero x, setGpr_zero v x, gprOf_setGpr x d r hv⟩, fun a b ha _ => ?_⟩
  · obtain ⟨hrow, heq⟩ := stBase_arithmetic (len := len) (raw := raw) hv
    exact stBase_becomes h hrow (by rw [heq]; exact stDone_becomes (stAt_lt h) len _ v s')
  · exact ⟨rfl, ⟨sub64 a b, rfl, sub64_spec b ha⟩, rfl, rfl, congrArg some (sx_64 ha), congrArg some (sx_64 ha)⟩

end Sys2Proof.Machine
end

section
/-!
PROOFS. The stewards: jumps, branches and CSR instructions.
-/

namespace Sys2Proof.Machine

/-! ### Jumps, branches and FENCE -/

section

variable {t n len raw w : Nat} {s : State} {taken : Bool}

theorem stBase_jal (h : rvOp w = 0x6F) : stBase t n w len raw s
    = stJump t n (rvRd w) (add64 (stOf s t n).pc.toNat len) (add64 (stOf s t n).pc.toNat (immJ w)) s := by
  simp only [stBase, h]

theorem stBase_jalr (h : rvOp w = 0x67) (h3 : rvF3 w = 0) : stBase t n w len raw s
    = stJump t n (rvRd w) (add64 (stOf s t n).pc.toNat len) (setBit (add64 (gprOf (stOf s t n) (rvRs1 w)) (immI w)) 0 false) s := by
  simp only [stBase, h, h3, if_true]

theorem stBase_branch (h : rvOp w = 0x63)
    (hb : branchTaken (rvF3 w) (gprOf (stOf s t n) (rvRs1 w)) (gprOf (stOf s t n) (rvRs2 w)) = some taken) :
    stBase t n w len raw s = if taken then stJump t n 0 0 (add64 (stOf s t n).pc.toNat (immB w)) s else stDone t n len 0 0 s := by
  cases taken <;> simp only [stBase, h, hb, if_true, Bool.false_eq_true, if_false]

theorem stBase_fence (h : rvOp w = 0x0F) (h3 : rvF3 w = 0) : stBase t n w len raw s = stDone t n len 0 0 s := by
  simp only [stBase, h, h3, if_true]

theorem rvRow_fence (h : rvOp w = 0x0F) (h3 : rvF3 w = 0) : rvRow w = .base := by
  simp [rvRow, h, h3]

end

/-! ### CSR instructions (R94, R118) -/

/-- What a CSR instruction takes as its source: rs1, or the field rs1 as an immediate. -/
def csrSource (x : Steward) (w : Nat) : Nat := if rvF3 w < 4 then gprOf x (rvRs1 w) else rvRs1 w

/-- What a CSR instruction writes, of the value it has read. -/
def csrNew (x : Steward) (w old : Nat) : Nat :=
  match rvF3 w % 4 with
  | 1 => csrSource x w
  | 2 => Nat.lor old (csrSource x w)
  | _ => Nat.land old (2 ^ 64 - 1 - csrSource x w)

/-- A CSR instruction that is allowed retires with the old value in rd, and then writes the new one if it writes. -/
theorem stBase_csr {t n len raw w old : Nat} {s s2 : State} (h : rvOp w = 0x73) (h3 : rvF3 w % 4 ≠ 0) (he : csrExists (fld w 31 20) = true)
    (ha : csrAllowed (stOf s t n) (fld w 31 20) = true) (hw : rvF3 w % 4 = 1 ∨ rvRs1 w ≠ 0 → csrReadOnly (fld w 31 20) = false)
    (hr : csrRead s t n (fld w 31 20) = (old, s2)) : stBase t n w len raw s = if rvF3 w % 4 = 1 ∨ rvRs1 w ≠ 0 then
      modSt t n (csrWrite (fld w 31 20) (csrNew (stOf s t n) w old)) (stDone t n len (rvRd w) old s2) else stDone t n len (rvRd w) old s2 := by
  have hbase : stBase t n w len raw s = stCsr t n w len raw s := by simp only [stBase, h]
  have hok : ¬ (rvF3 w % 4 = 0 ∨ (!csrExists (fld w 31 20)) = true ∨ (!csrAllowed (stOf s t n) (fld w 31 20)) = true
      ∨ (decide (rvF3 w % 4 = 1 ∨ rvRs1 w ≠ 0) && csrReadOnly (fld w 31 20)) = true) := by
    simp only [he, ha, Bool.not_true, Bool.false_eq_true, false_or, not_or, Bool.and_eq_true, decide_eq_true_eq]
    exact ⟨h3, fun hno => by rw [hw hno.1] at hno; cases hno.2⟩
  rw [hbase, stCsr, if_neg hok]
  simp only [hr, decide_eq_true_eq]
  rfl

/-- The steward after a CSR instruction. -/
theorem stBase_csr_becomes {t n len raw w old : Nat} {s s2 : State} (hn : n < 2) (h : rvOp w = 0x73) (h3 : rvF3 w % 4 ≠ 0)
    (he : csrExists (fld w 31 20) = true) (ha : csrAllowed (stOf s t n) (fld w 31 20) = true)
    (hw : rvF3 w % 4 = 1 ∨ rvRs1 w ≠ 0 → csrReadOnly (fld w 31 20) = false) (hr : csrRead s t n (fld w 31 20) = (old, s2)) :
    stBecomes t n (if rvF3 w % 4 = 1 ∨ rvRs1 w ≠ 0 then
        csrWrite (fld w 31 20) (csrNew (stOf s t n) w old) (setGpr (rvRd w) old (retired len (stOf s2 t n)))
      else setGpr (rvRd w) old (retired len (stOf s2 t n))) s2 (stBase t n w len raw s) := by
  have hdone := stDone_becomes (t := t) hn len (rvRd w) old s2
  rw [stBase_csr h h3 he ha hw hr]
  by_cases hwr : rvF3 w % 4 = 1 ∨ rvRs1 w ≠ 0
  · rw [if_pos hwr, if_pos hwr, modSt_eq, hdone.2]
    exact stBecomes_trans hdone (stBecomes_setSt hn _ _)
  · rw [if_neg hwr, if_neg hwr]
    exact hdone

/-- Settles O19: each instruction's effect on its steward, as RV64_INSTRUCTION runs it. -/
theorem stewardControl : Obligations.StewardControl := by
  intro s s' t n w len raw h
  have hn := stAt_lt h
  refine ⟨fun ho => ?_, fun ho h3 => ?_, fun ho hb => ?_, fun ho hb => ?_, fun ho h3 => ?_, fun old s2 ho hrow h3 he ha hw hr => ?_⟩
  · exact stBase_becomes h (rvRow_base (by simp [ho])) (by rw [stBase_jal ho]; exact stJump_becomes hn _ _ _ s')
  · exact stBase_becomes h (rvRow_base (by simp [ho])) (by rw [stBase_jalr ho h3]; exact stJump_becomes hn _ _ _ s')
  · exact stBase_becomes h (rvRow_base (by simp [ho])) (by rw [stBase_branch ho hb]; exact stJump_becomes hn 0 0 _ s')
  · exact stBase_becomes h (rvRow_base (by simp [ho])) (by rw [stBase_branch ho hb]; exact stDone_becomes hn len 0 0 s')
  · exact stBase_becomes h (rvRow_fence ho h3) (by rw [stBase_fence ho h3]; exact stDone_becomes hn len 0 0 s')
  · exact stBase_becomes h hrow (stBase_csr_becomes hn ho h3 he ha hw hr)

end Sys2Proof.Machine
end

section
/-!
PROOFS. The stewards: loads, stores and atomic instructions, and what a store through a steward's port changes.
-/

namespace Sys2Proof.Machine

/-! ### What a write to a scratchpad does to the reservations (R101) -/

/-- n is s but for reservations that ended. -/
def resvOnly (s n : State) : Prop :=
  { n with stewards := s.stewards } = s
    ∧ ∀ u j, stOf n u j = { stOf s u j with resv := (stOf n u j).resv } ∧ ((stOf s u j).resv = none → (stOf n u j).resv = none)

theorem resvOnly_refl (s : State) : resvOnly s s := ⟨rfl, fun _ _ => ⟨rfl, id⟩⟩

theorem resvOnly_trans {s m n : State} (h : resvOnly s m) (hn : resvOnly m n) : resvOnly s n := by
  refine ⟨?_, fun u j => ?_⟩
  · have hm := h.1
    rw [← hn.1] at hm
    exact hm
  · obtain ⟨he, hr⟩ := h.2 u j
    obtain ⟨hen, hrn⟩ := hn.2 u j
    refine ⟨?_, fun h0 => hrn (hr h0)⟩
    rw [he] at hen
    exact hen

theorem resvOnly_modSt (t k : Nat) (s : State) : resvOnly s (modSt t k (fun x => { x with resv := none }) s) := by
  refine ⟨rfl, fun u j => ?_⟩
  rw [modSt_eq, stOf_setSt]
  split
  · next h =>
    have he : stOf s u j = stOf s t k := by simp only [stOf, h]
    exact ⟨by rw [he], fun _ => rfl⟩
  · exact ⟨rfl, id⟩

/-- Steward k's reservation ends where it meets what is written. -/
def endReservation (t o n : Nat) (s : State) (k : Nat) : State :=
  match (stOf s t k).resv with
  | some l => if decide (l < o + n ∧ o < l + 64) then modSt t k (fun x => { x with resv := none }) s else s
  | none => s

theorem endReservation_resvOnly (t o n : Nat) (s : State) (k : Nat) : resvOnly s (endReservation t o n s k) := by
  unfold endReservation
  split
  · split
    · exact resvOnly_modSt t k s
    · exact resvOnly_refl s
  · exact resvOnly_refl s

theorem endReservations_eq (t o n : Nat) (s : State) : endReservations t o n s = endReservation t o n (endReservation t o n s 0) 1 := rfl

theorem endReservations_resvOnly (t o n : Nat) (s : State) : resvOnly s (endReservations t o n s) := by
  rw [endReservations_eq]
  exact resvOnly_trans (endReservation_resvOnly t o n s 0) (endReservation_resvOnly t o n _ 1)

/-- A write to a scratchpad changes its bytes, its tile's errors and reservations. -/
theorem spdWrite_frame (t o : Nat) (d : List Byte) (s : State) :
    { spdWrite t o d s with spd := s.spd, tiles := s.tiles, stewards := s.stewards } = s
      ∧ ∀ u j, stOf (spdWrite t o d s) u j = { stOf s u j with resv := (stOf (spdWrite t o d s) u j).resv }
          ∧ ((stOf s u j).resv = none → (stOf (spdWrite t o d s) u j).resv = none) := by
  obtain ⟨hrest, hst⟩ := endReservations_resvOnly t o d.length (modTile t (eccWritten o d.length) { s with spd := memWrite s.spd (t * spdSize + o) d })
  exact ⟨congrArg (fun m : State => { m with spd := s.spd, tiles := s.tiles }) hrest, hst⟩

/-! ### A steward's port of which no granted request waits (R286) -/

section

variable {s : State} {t p : Nat} (h : (tileOf s t).ports.got = [])

include h

theorem portStore_eq_spdWrite (o : Nat) (d : List Byte) : portStore t p o d s = spdWrite t o d s := if_pos h

theorem portMayWrite_eq_vsWritable (o : Nat) (d : List Byte) : portMayWrite s t p o d = vsWritable s t o d.length := if_pos h

theorem portView_eq_self : portView t p s = s := by
  simp only [portView, portGot, h, List.filter_nil]

end

/-- What a unit takes of its granted requests is its tile's. -/
theorem portTake_eq (t p o n : Nat) (s : State) : ∃ x, portTake t p o n s = { s with tiles := x } := by
  unfold portTake
  split
  · exact ⟨s.tiles, rfl⟩
  · exact ⟨_, rfl⟩

theorem stOf_portTake (t p o n : Nat) (s : State) (u j : Nat) : stOf (portTake t p o n s) u j = stOf s u j := by
  obtain ⟨x, hx⟩ := portTake_eq t p o n s
  rw [hx]
  rfl

/-! ### A store that retires -/

theorem toBytes_length (k v : Nat) : (toBytes k v).length = k := by
  induction k generalizing v with
  | zero => rfl
  | succ k ih => rw [toBytes, List.length_cons, ih]

theorem toBytes_getElem (k v i : Nat) (h : i < (toBytes k v).length) : (toBytes k v)[i] = BitVec.ofNat 8 (v >>> (8 * i)) := by
  induction k generalizing v i with
  | zero => exact absurd h (by simp [toBytes])
  | succ k ih =>
    cases i with
    | zero => rfl
    | succ i =>
      have h256 : v / 256 = v >>> 8 := by rw [Nat.shiftRight_eq_div_pow]
      simp only [toBytes, List.getElem_cons_succ]
      rw [ih, h256, ← Nat.shiftRight_add, Nat.mul_add_one, Nat.add_comm]

@[simp] theorem setGpr_resv (i v : Nat) (x : Steward) : (setGpr i v x).resv = x.resv := by
  unfold setGpr
  split <;> rfl

/-- Steward n of tile t retired an instruction that stored d from offset o of the tile's scratchpad. -/
def stStored (t n len rd v o : Nat) (d : List Byte) (s nx : State) : Prop :=
  stOf nx t n = setGpr rd v (retired len { stOf s t n with resv := (stOf nx t n).resv })
    ∧ ((stOf s t n).resv = none → (stOf nx t n).resv = none)
    ∧ nx.spd = memWrite s.spd (t * spdSize + o) d
    ∧ { nx with spd := s.spd, tiles := s.tiles, stewards := s.stewards } = s

theorem stDone_stored {t n o : Nat} {d : List Byte} {s : State} (len rd v : Nat) (hg : (tileOf s t).ports.got = []) :
    stStored t n len rd v o d s (stDone t n len rd v (portStore t (portSt n) o d s)) := by
  rw [portStore_eq_spdWrite hg]
  obtain ⟨hrest, hst⟩ := spdWrite_frame t o d s
  obtain ⟨heq, hnone⟩ := hst t n
  have hx : stOf (stDone t n len rd v (spdWrite t o d s)) t n = setGpr rd v (retired len (stOf (spdWrite t o d s) t n)) := stOf_setSt_self t n _ _
  have hresv : (stOf (stDone t n len rd v (spdWrite t o d s)) t n).resv = (stOf (spdWrite t o d s) t n).resv := by
    rw [hx, setGpr_resv]
    rfl
  refine ⟨?_, ?_, spdWrite_spd t o d s, hrest⟩
  · rw [hresv, ← heq, hx]
  · rw [hresv]
    exact hnone

section

variable {t n len rd v o : Nat} {d : List Byte} {s m nx : State}

theorem stStored_of_sameSt (h : sameSt nx m) (hm : stStored t n len rd v o d s m) : stStored t n len rd v o d s nx := by
  obtain ⟨⟨x, rfl⟩, hst⟩ := sameSt_iff.1 h
  obtain ⟨hx, hnone, hspd, hrest⟩ := hm
  rw [← hst t n] at hx hnone
  exact ⟨hx, hnone, hspd, hrest⟩

theorem stStored_regs (h : stStored t n len rd v o d s nx) : nx.regs = s.regs ∧ nx.hbm = s.hbm ∧ nx.ctxs = s.ctxs := by
  obtain ⟨-, -, -, hrest⟩ := h
  rw [← hrest]
  exact ⟨rfl, rfl, rfl⟩

theorem stStored_read (h : stStored t n len rd v o d s nx) : spdRead nx t o d.length = d := by
  obtain ⟨-, -, hspd, -⟩ := h
  rw [spdRead, hspd, memRead_memWrite_self]

theorem stStored_byte_out (h : stStored t n len rd v o d s nx) {j : Nat} (hj : j < t * spdSize + o ∨ t * spdSize + o + d.length ≤ j) :
    memByte nx.spd j = memByte s.spd j := by
  obtain ⟨-, -, hspd, -⟩ := h
  rw [hspd, memByte_memWrite_out d _ j hj]

/-- A store of the k bytes of a value. -/
theorem stStored_bytes {k a : Nat} (h : stStored t n len rd v o (toBytes k a) s nx) :
    (∀ i, i < k → memByte nx.spd (t * spdSize + o + i) = BitVec.ofNat 8 (a >>> (8 * i)))
      ∧ ∀ j, (j < t * spdSize + o ∨ t * spdSize + o + k ≤ j) → memByte nx.spd j = memByte s.spd j := by
  refine ⟨fun i hi => ?_, fun j hj => stStored_byte_out h (by rw [toBytes_length]; exact hj)⟩
  obtain ⟨-, -, hspd, -⟩ := h
  rw [hspd, memByte_memWrite_in _ _ i (by rw [toBytes_length]; exact hi), toBytes_getElem]

end

/-! ### Loads and stores (R95, R96) -/

section

variable {t n len raw w o a v : Nat} {s s2 : State}

theorem stBase_load_spd (h : rvOp w = 0x03) (h3 : rvF3 w ≠ 7)
    (hp : pmpAllows (stOf s t n) (dataMode (stOf s t n)) .load (loadAddr (stOf s t n) w) (rvWidth (rvF3 w)) = true)
    (ht : stTarget t (loadAddr (stOf s t n) w) (rvWidth (rvF3 w)) = .spd o) (hu : firstUe s t [(o, rvWidth (rvF3 w))] = none) :
    stBase t n w len raw s = stDone t n len (rvRd w)
      (rvLoaded (rvF3 w) (ofBytes (spdRead (portView t (portSt n) s) t o (rvWidth (rvF3 w))))) (portTake t (portSt n) o (rvWidth (rvF3 w)) s) := by
  simp only [stBase, h, h3, if_false, stLoadValue, hp, Bool.not_true, Bool.false_eq_true, ht, hu]

theorem stBase_load_reg (h : rvOp w = 0x03) (h3 : rvF3 w ≠ 7)
    (hp : pmpAllows (stOf s t n) (dataMode (stOf s t n)) .load (loadAddr (stOf s t n) w) (rvWidth (rvF3 w)) = true)
    (ht : stTarget t (loadAddr (stOf s t n) w) (rvWidth (rvF3 w)) = .ctl a) (hr : readReg (.steward t n) a (rvWidth (rvF3 w)) s = .ok (v, s2)) :
    stBase t n w len raw s = stDone t n len (rvRd w) (rvLoaded (rvF3 w) v) s2 := by
  simp only [stBase, h, h3, if_false, stLoadValue, hp, Bool.not_true, Bool.false_eq_true, ht, hr]

theorem stBase_store_spd (h : rvOp w = 0x23) (h3 : rvF3 w ≤ 3)
    (hp : pmpAllows (stOf s t n) (dataMode (stOf s t n)) .store (storeAddr (stOf s t n) w) (rvWidth (rvF3 w)) = true)
    (ht : stTarget t (storeAddr (stOf s t n) w) (rvWidth (rvF3 w)) = .spd o) (hw : vsWritable s t o (rvWidth (rvF3 w)) = true)
    (hg : (tileOf s t).ports.got = []) :
    stBase t n w len raw s
      = stDone t n len 0 0 (portStore t (portSt n) o (toBytes (rvWidth (rvF3 w)) (gprOf (stOf s t n) (rvRs2 w))) s) := by
  have hmay : portMayWrite s t (portSt n) o (toBytes (rvWidth (rvF3 w)) (gprOf (stOf s t n) (rvRs2 w))) = true := by
    rw [portMayWrite_eq_vsWritable hg, toBytes_length, hw]
  simp only [stBase, h, if_neg (Nat.not_lt.2 h3), stStoreTo, hp, Bool.not_true, Bool.false_eq_true, if_false, ht, hmay, if_true]

theorem stBase_store_reg (h : rvOp w = 0x23) (h3 : rvF3 w ≤ 3)
    (hp : pmpAllows (stOf s t n) (dataMode (stOf s t n)) .store (storeAddr (stOf s t n) w) (rvWidth (rvF3 w)) = true)
    (ht : stTarget t (storeAddr (stOf s t n) w) (rvWidth (rvF3 w)) = .ctl a)
    (hr : writeReg (.steward t n) a (rvWidth (rvF3 w)) (gprOf (stOf s t n) (rvRs2 w)) s = .ok s2) :
    stBase t n w len raw s = stDone t n len 0 0 s2 := by
  simp only [stBase, h, if_neg (Nat.not_lt.2 h3), stStoreTo, hp, Bool.not_true, Bool.false_eq_true, if_false, ht, hr]

end

/-- Settles O18: a load or store that nothing refuses retires on what its access leaves; the bytes by the rules of memories. -/
theorem stewardLoadStore : Obligations.StewardLoadStore := by
  intro s s' t n w len raw h
  have hn := stAt_lt h
  refine ⟨fun o ho h3 hp ht hu => ?_, fun a v s2 ho h3 hp ht hr => ?_, fun o ho h3 hp ht hw hg => ?_, fun a s2 ho h3 hp ht hr => ?_⟩
  · exact stBase_becomes h (rvRow_base (by simp [ho])) (by rw [stBase_load_spd ho h3 hp ht hu]; exact stDone_becomes hn len _ _ _)
  · exact stBase_becomes h (rvRow_base (by simp [ho])) (by rw [stBase_load_reg ho h3 hp ht hr]; exact stDone_becomes hn len _ _ s2)
  · obtain ⟨nx, hex, hsame⟩ := stBase_at h (rvRow_base (by simp [ho]))
    rw [stBase_store_spd ho h3 hp ht hw hg] at hsame
    have hst := stStored_of_sameSt hsame (stDone_stored len 0 0 hg)
    obtain ⟨hregs, hhbm, hctxs⟩ := stStored_regs hst
    exact ⟨nx, hex, hst.1, hregs, hhbm, hctxs, stStored_bytes hst⟩
  · exact stBase_becomes h (rvRow_base (by simp [ho])) (by rw [stBase_store_reg ho h3 hp ht hr]; exact stDone_becomes hn len 0 0 s2)

/-! ### Atomic instructions (R101) -/

section

variable {t n len raw w o v : Nat} {s : State}

theorem stLr_eq (ha : gprOf (stOf s t n) (rvRs1 w) % amoWidth w = 0) (ho : spdOnly t (gprOf (stOf s t n) (rvRs1 w)) (amoWidth w) = some o)
    (hp : pmpAllows (stOf s t n) (dataMode (stOf s t n)) .load (gprOf (stOf s t n) (rvRs1 w)) (amoWidth w) = true)
    (hu : firstUe s t [(o, amoWidth w)] = none) :
    stLr t n w len raw s = stDone t n len (rvRd w) (sx (8 * amoWidth w) (ofBytes (spdRead (portView t (portSt n) s) t o (amoWidth w))))
      (modSt t n (fun x => { x with resv := some (o / 64 * 64) }) (portTake t (portSt n) o (amoWidth w) s)) := by
  simp only [stLr, ha, ne_eq, not_true_eq_false, if_false, hp, if_true, ho, hu]

theorem stSc_fails (ha : gprOf (stOf s t n) (rvRs1 w) % amoWidth w = 0) (ho : spdOnly t (gprOf (stOf s t n) (rvRs1 w)) (amoWidth w) = some o)
    (hp : pmpAllows (stOf s t n) (dataMode (stOf s t n)) .store (gprOf (stOf s t n) (rvRs1 w)) (amoWidth w) = true)
    (hr : (stOf s t n).resv ≠ some (o / 64 * 64)) (hw : portWrote s t (portSt n) o = false) :
    stSc t n w len raw s = stDone t n len (rvRd w) 1 (modSt t n (fun x => { x with resv := none }) s) := by
  simp only [stSc, ha, ne_eq, not_true_eq_false, if_false, hp, if_true, ho, hr, hw, Bool.false_eq_true, or_self]

theorem stSc_stores (ha : gprOf (stOf s t n) (rvRs1 w) % amoWidth w = 0) (ho : spdOnly t (gprOf (stOf s t n) (rvRs1 w)) (amoWidth w) = some o)
    (hp : pmpAllows (stOf s t n) (dataMode (stOf s t n)) .store (gprOf (stOf s t n) (rvRs1 w)) (amoWidth w) = true)
    (hr : (stOf s t n).resv = some (o / 64 * 64)) (hv : vsWritable s t o (amoWidth w) = true) (hg : (tileOf s t).ports.got = []) :
    stSc t n w len raw s = stDone t n len (rvRd w) 0 (portStore t (portSt n) o (toBytes (amoWidth w) (gprOf (stOf s t n) (rvRs2 w)))
      (modSt t n (fun x => { x with resv := none }) s)) := by
  have hmay : portMayWrite s t (portSt n) o (toBytes (amoWidth w) (gprOf (stOf s t n) (rvRs2 w))) = true := by
    rw [portMayWrite_eq_vsWritable hg, toBytes_length, hv]
  simp only [stSc, ha, ne_eq, not_true_eq_false, if_false, hp, if_true, ho, hr, true_or, hmay]

theorem stAmo_eq (ha : gprOf (stOf s t n) (rvRs1 w) % amoWidth w = 0) (ho : spdOnly t (gprOf (stOf s t n) (rvRs1 w)) (amoWidth w) = some o)
    (hl : pmpAllows (stOf s t n) (dataMode (stOf s t n)) .load (gprOf (stOf s t n) (rvRs1 w)) (amoWidth w) = true)
    (hs : pmpAllows (stOf s t n) (dataMode (stOf s t n)) .store (gprOf (stOf s t n) (rvRs1 w)) (amoWidth w) = true)
    (hv : vsWritable s t o (amoWidth w) = true) (hg : (tileOf s t).ports.got = []) (hu : firstUe s t [(o, amoWidth w)] = none)
    (hf : amoValue (fld w 31 27) (8 * amoWidth w) (ofBytes (spdRead s t o (amoWidth w))) (gprOf (stOf s t n) (rvRs2 w)) = some v) :
    stAmo t n w len raw s = stDone t n len (rvRd w) (sx (8 * amoWidth w) (ofBytes (spdRead s t o (amoWidth w))))
      (portStore t (portSt n) o (toBytes (amoWidth w) v) s) := by
  have hmay : portMayWrite s t (portSt n) o (toBytes (amoWidth w) 0) = true := by
    rw [portMayWrite_eq_vsWritable hg, toBytes_length, hv]
  simp only [stAmo, ha, ne_eq, not_true_eq_false, if_false, hl, hs, Bool.and_self, if_true, ho, hmay, Bool.not_true, Bool.false_eq_true, hu,
    portView_eq_self hg, hf]

end

/-- Settles O20: each atomic instruction by its equation; SC ends its reservation before it stores. -/
theorem stewardAtomic : Obligations.StewardAtomic := by
  intro s s' t n w len raw o h ha ho
  have hn := stAt_lt h
  refine ⟨fun hk hp hu => ?_, fun hk hp hr hw => ?_, fun hk hp hr hv hg => ?_, fun v hk hl hs hv hg hu hf => ?_⟩
  · refine stOwn_becomes h hk ?_
    rw [stLr_eq ha ho hp hu, ← stOf_portTake t (portSt n) o (amoWidth w) s' t n]
    exact stDone_after hn (stBecomes_setSt hn _ _)
  · refine stOwn_becomes h hk ?_
    rw [stSc_fails ha ho hp hr hw]
    exact stDone_after hn (stBecomes_setSt hn _ s')
  · obtain ⟨nx, hex, hsame⟩ := stOwn_at h hk stSc
    rw [stSc_stores ha ho hp hr hv hg] at hsame
    have hst := stStored_of_sameSt hsame (stDone_stored len (rvRd w) 0 hg)
    obtain ⟨hin, hout⟩ := stStored_bytes hst
    obtain ⟨hregs, hhbm, -⟩ := stStored_regs hst
    obtain ⟨hx, hnone, -, -⟩ := hst
    rw [hnone (by simp), modSt_eq, stOf_setSt_self] at hx
    exact ⟨nx, hex, hx, hin, hout, hregs, hhbm⟩
  · obtain ⟨nx, hex, hsame⟩ := stOwn_at h hk stAmo
    rw [stAmo_eq ha ho hl hs hv hg hu hf] at hsame
    have hst := stStored_of_sameSt hsame (stDone_stored len (rvRd w) (sx (8 * amoWidth w) (ofBytes (spdRead s' t o (amoWidth w)))) hg)
    obtain ⟨hin, hout⟩ := stStored_bytes hst
    obtain ⟨hregs, hhbm, -⟩ := stStored_regs hst
    exact ⟨nx, hex, hst.1, hin, hout, hregs, hhbm⟩

end Sys2Proof.Machine
end

section
/-!
PROOFS. The stewards: traps, the return from one, and the debug controls.
-/

namespace Sys2Proof.Machine

/-! ### Traps and halts -/

section

variable {t n len raw w : Nat} {s : State}

theorem stEbreak_traps (h : (stOf s t n).ebreakHalt = false) : stEbreak t n w len raw s = stTrap t n 3 (stOf s t n).pc.toNat none s := by
  simp only [stEbreak, h, Bool.false_eq_true, if_false]

theorem stEbreak_halts (h : (stOf s t n).ebreakHalt = true) :
    stEbreak t n w len raw s = setSt t n { stOf s t n with run := .halted, halt := true, stepBit := false } s := by
  simp only [stEbreak, h, if_true]

theorem stMret_machine (h : (stOf s t n).mode = .machine) :
    stMret t n w len raw s = setSt t n { trapReturn t (stOf s t n) with instret := (stOf s t n).instret + 1 } s := by
  simp only [stMret, h, if_true]

theorem stMret_user (h : (stOf s t n).mode = .user) : stMret t n w len raw s = illegal t n raw s := by
  simp only [stMret, h, reduceCtorEq, if_false]

/-- Major opcode custom-0 without a row in Table 3-2 is no instruction. -/
theorem stBase_custom (h : rvOp w = 0x0B) : stBase t n w len raw s = illegal t n raw s := by
  simp only [stBase, h]

/-- A trap within a trap, or without a handler, is a stop (R120). -/
theorem stTrap_stops (h : (stOf s t n).intrap = true ∨ (stOf s t n).mtvec = 0) (cause tval : Nat) :
    stTrap t n cause tval none s = stStop t n 3 none s := by
  have hstop : ((stOf s t n).intrap || (stOf s t n).mtvec == 0) = true := by
    rcases h with h | h <;> simp [h]
  simp only [stTrap, stTrapAs, hstop, if_true]

end

/-- An event that is a stop of its steward. -/
theorem stStopped_of_sameSt {t n cause : Nat} {off : Option Nat} {s nx : State} (h : sameSt nx (stStop t n cause off s)) :
    stOf nx t n = { stOf s t n with run := .stopped, waitKind := .none, stopCause := cause }
      ∧ { nx with stewards := s.stewards, faults := s.faults } = s := by
  obtain ⟨hx, hrest⟩ := stStop_spec t n cause off s
  obtain ⟨⟨y, rfl⟩, hst⟩ := sameSt_iff.1 h
  exact ⟨(hst t n).trans hx, hrest⟩

/-! ### The debug controls (R125, R126) -/

section

variable {t n : Nat} {s : State}

theorem dbg_narrow (ht : t < 128) (hn : n < 2) : (regSpec (aDbg t n)).map (·.wide) = some false := by
  have hall : ∀ t < 128, ∀ n < 2, (regSpec (aDbg t n)).map (·.wide) = some false := by decide
  exact hall t ht n hn

theorem unitWrite_dbg (who : Who) (r : RegSpec) (v : Nat) (s : State) (ht : t < 128) (hn : n < 2) :
    unitWrite who r (aDbg t n) v s = some (setSt t n (dbgCtl v (stOf s t n)) s) := by
  have ha : aDbg t n = tcbBase + (t * 0x10000 + n * 0x1000 + 0x18) := by simp only [aDbg, aTile]; omega
  have hlt : aDbg t n < dieBase := by rw [ha]; simp only [tcbBase, dieBase]; omega
  have h1 : (aDbg t n - tcbBase) / 0x10000 = t := by omega
  have h2 : (aDbg t n - tcbBase) / 0x1000 % 16 = n := by omega
  have h3 : aDbg t n % 0x1000 = 0x18 := by rw [ha]; simp only [tcbBase]; omega
  rw [unitWrite, if_pos hlt, h1, h2, h3, tileWrite, if_pos hn, stWrite, if_pos rfl]

/-- A write of STn_DBG_CTL by F0 or the firmware. -/
theorem regCommand_dbg {who : Who} (hw : mayWrite who (aDbg t n) 4 s) (ht : t < 128) (hn : n < 2) (v : Nat) :
    regCommand who (aDbg t n) 4 v s = setSt t n (dbgCtl (v % 2 ^ 32) (stOf s t n)) s := by
  obtain ⟨hwho, r, hr⟩ := hw
  have hnarrow : r.wide = false := by
    have := dbg_narrow ht hn
    rw [regSpec_of_regAt (regAt_of_regFor hr)] at this
    exact Option.some.inj this
  exact regCommand_ok hwho (writeReg_whole v hr (.inl hnarrow) (unitWrite_dbg who r _ s ht hn))

/-- A debug command is its value's write of STn_DBG_CTL. -/
theorem dbgCommand_becomes {who : Who} (hl : live s = true) (ht : t < 128) (hn : n < 2) (hw : mayWrite who (aDbg t n) 4 s) (v : Nat) :
    ∃ nx, act (whoOk who && tileOk t && decide (n < 2)) s (regCommand who (aDbg t n) 4 v) = .next nx
      ∧ stBecomes t n (dbgCtl (v % 2 ^ 32) (stOf s t n)) s nx := by
  refine ⟨_, act_live hl ?_, ?_⟩
  · rw [whoOk_agent hw.1, Bool.true_and]
    exact stOk_of ht hn
  · rw [regCommand_dbg hw ht hn]
    exact stBecomes_setSt hn _ s

end

/-- STn_DBG_CTL's HALT, STEP and EBREAK_HALT as a write gives them. -/
theorem dbgCtl_of_bits {v : Nat} {halt step ebreak : Bool} (x : Steward) (h0 : bit v 0 = halt) (h1 : bit v 1 = step) (h2 : bit v 2 = ebreak) :
    dbgCtl v x = { x with halt := halt, stepBit := x.stepBit || step, ebreakHalt := ebreak,
                          run := if x.run = .halted ∧ halt = false then .running else x.run } := by
  subst h0 h1 h2
  by_cases h : x.run = .halted ∧ bit v 0 = false
  · rw [if_pos h]
    exact if_pos h
  · rw [if_neg h]
    exact if_neg h

section

variable (x : Steward)

theorem dbgCtl_halt : dbgCtl ((x.ebreakHalt.toNat * 4 + 1) % 2 ^ 32) x = { x with halt := true } := by
  rw [dbgCtl_of_bits (halt := true) (step := false) (ebreak := x.ebreakHalt) x (by cases x.ebreakHalt <;> decide)
    (by cases x.ebreakHalt <;> decide) (by cases x.ebreakHalt <;> decide)]
  simp

theorem dbgCtl_resume : dbgCtl (x.ebreakHalt.toNat * 4 % 2 ^ 32) x
    = { x with halt := false, run := if x.run = .halted then .running else x.run } := by
  rw [dbgCtl_of_bits (halt := false) (step := false) (ebreak := x.ebreakHalt) x (by cases x.ebreakHalt <;> decide)
    (by cases x.ebreakHalt <;> decide) (by cases x.ebreakHalt <;> decide)]
  simp

theorem dbgCtl_step : dbgCtl ((x.ebreakHalt.toNat * 4 + 2 + x.halt.toNat) % 2 ^ 32) x
    = { x with stepBit := true, run := if x.run = .halted ∧ x.halt = false then .running else x.run } := by
  rw [dbgCtl_of_bits (halt := x.halt) (step := true) (ebreak := x.ebreakHalt) x (by cases x.ebreakHalt <;> cases x.halt <;> decide)
    (by cases x.ebreakHalt <;> cases x.halt <;> decide) (by cases x.ebreakHalt <;> cases x.halt <;> decide)]
  simp

end

/-- A halt request that may take effect takes the place of whatever instruction is next (DEDUCED: log entry 26). -/
theorem stRow_halts {k : RvRow} {t n : Nat} {s : State} (bad : Fetched → State → State) (f : Nat → Nat → Nat → State → State)
    (hr : (stOf s t n).run = .running) (hh : (stOf s t n).halt = true) (hc : haltable s t = true) :
    stRow k t n bad f s = setSt t n { stOf s t n with run := .halted, stepBit := false } s := by
  simp only [stRow, hr, hh, hc, Bool.and_self, if_true]

/-- A halted steward that is to step executes its next instruction and halts again. -/
theorem stRow_steps {k : RvRow} {t n w len raw : Nat} {s s' : State} (bad : Fetched → State → State) (f : Nat → Nat → Nat → State → State)
    (hr : (stOf s t n).run = .halted) (hb : (stOf s t n).stepBit = true) (hc : haltable s t = true)
    (hf : stFetch t n (setSt t n { stOf s t n with run := .running } s) = (.word (some w) len raw, s')) (hk : rvRow w = k) :
    stRow k t n bad f s = stepEnd t n true (f w len raw s') := by
  have hgo : ((stOf s t n).stepBit && haltable s t) = true := by rw [hb, hc]; rfl
  simp only [stRow, hr]
  rw [if_pos hgo]
  simp only [hf, hk, if_true]

theorem stepEnd_becomes {t n : Nat} {y : Steward} {s m : State} (hn : n < 2) (h : stBecomes t n y s m) (hr : y.run = .running) :
    stBecomes t n { y with run := .halted, stepBit := false } s (stepEnd t n true m) := by
  have he : stepEnd t n true m = setSt t n { y with run := .halted, stepBit := false } m := by
    simp [stepEnd, h.2, hr]
  rw [he]
  exact stBecomes_trans h (stBecomes_setSt hn _ m)

/-- Settles O21: traps and halts by the instructions' equations, the debug commands as writes of STn_DBG_CTL, a halt and a step by the row's cases. -/
theorem stewardTrap : Obligations.StewardTrap := by
  refine ⟨fun s s' t n w len raw h => ?_, fun s who t n hl ht hn hw => ?_, fun s t n i hl ht hn hr hh hc hi => ?_,
    fun s s' t n w len raw hl ht hn hr hb hc hf hk => ?_⟩
  · have hn := stAt_lt h
    refine ⟨fun hk hok => ?_, fun hk hb hok => ?_, fun hk hb => ?_, fun hk hm => ?_, fun hk hm hok => ?_, fun hk ho hok => ?_, fun hk hst => ?_⟩
    · exact stOwn_becomes h hk (stTrap_becomes hn hok _ 0)
    · exact stOwn_becomes h hk (by rw [stEbreak_traps hb]; exact stTrap_becomes hn hok 3 _)
    · exact stOwn_becomes h hk (by rw [stEbreak_halts hb]; exact stBecomes_setSt hn _ s')
    · exact stOwn_becomes h hk (by rw [stMret_machine hm]; exact stBecomes_setSt hn _ s')
    · exact stOwn_becomes h hk (by rw [stMret_user hm]; exact stTrap_becomes hn hok 2 raw)
    · exact stBase_becomes h hk (by rw [stBase_custom ho]; exact stTrap_becomes hn hok 2 raw)
    · obtain ⟨nx, hex, hsame⟩ := stOwn_at h hk stEcall
      rw [stEcall, stTrap_stops hst] at hsame
      exact ⟨nx, hex, stStopped_of_sameSt hsame⟩
  · refine ⟨?_, ?_, ?_⟩
    · rw [← dbgCtl_halt]
      exact dbgCommand_becomes hl ht hn hw _
    · rw [← dbgCtl_resume]
      exact dbgCommand_becomes hl ht hn hw _
    · rw [← dbgCtl_step]
      exact dbgCommand_becomes hl ht hn hw _
  · refine ⟨setSt t n { stOf s t n with run := .halted, stepBit := false } s, ?_, stBecomes_setSt hn _ s⟩
    simp only [List.mem_cons, List.not_mem_nil, or_false] at hi
    rcases hi with rfl | rfl | rfl | rfl | rfl | rfl
    all_goals exact (act_live hl (stOk_of ht hn)).trans (congrArg _ (stRow_halts _ _ hr hh hc))
  · refine ⟨stepEnd t n true (stWfi t n w len raw s'), ?_, stepEnd_becomes hn (stDone_becomes hn len 0 0 s') rfl⟩
    exact (act_live hl (stOk_of ht hn)).trans (congrArg _ (stRow_steps _ _ hr hb hc hf hk))

end Sys2Proof.Machine
end

section
/-!
PROOFS. The stewards: fences, WAITC, phase marks and DATUM.
-/

namespace Sys2Proof.Machine

/-! ### WAITC and the fences of copies -/

section

variable {t n len raw w v k : Nat} {count rel : BitVec 32} {stop far : Bool} {s : State}

theorem stWaitc_eq (hv : gprOf (stOf s t n) (rvRs1 w) = v) (hk : gprOf (stOf s t n) (rvRs2 w) = k) (hok : unitOk v true = true)
    (hc : unitCount s t v = (count, rel, stop)) :
    stWaitc t n w len raw s = if 0 ≤ sgn 32 (count - BitVec.ofNat 32 k).toNat then stDone t n 4 (rvRd w) 0 s
      else if stop then stDone t n 4 (rvRd w) 1 s else stWait t n .waitc w s := by
  subst hv hk
  simp only [stWaitc, hok, Bool.not_true, Bool.false_eq_true, if_false, hc]

theorem fenceWait_becomes (hn : n < 2) (k : WaitKind) (w mark : Nat) (s : State) :
    stBecomes t n (waitsAt k w { stOf s t n with fenceMark := mark }) s (fenceWait t n k w mark s) := by
  have hwait := stWait_becomes (t := t) hn k w s
  have he : fenceWait t n k w mark s = setSt t n (waitsAt k w { stOf s t n with fenceMark := mark }) (stWait t n k w s) := by
    rw [fenceWait, modSt_eq, hwait.2]
    rfl
  rw [he]
  exact stBecomes_trans hwait (stBecomes_setSt hn _ _)

theorem stFenceCopies_eq : stFenceCopies far t n w len raw s
    = if postedBefore s t (fenceMark s t n) far then fenceWait t n .fence w (fenceMark s t n) s else stDone t n len 0 0 s := rfl

end

/-! ### Phase marks (R534) -/

theorem aPm_add (t o k : Nat) : aPm t o + k = aPm t (o + k) := by simp only [aPm, aTile]; omega

theorem aPm_inj {t o k : Nat} : aPm t o = aPm t k ↔ o = k := by simp only [aPm, aTile]; omega

theorem regPut_others {s m : State} (h : { m with regs := s.regs } = s) (a v : Nat) : { regPut a v m with regs := s.regs } = s := h

theorem pmEntry_lt {first τ : Nat} (rest : Nat) (hf : first < 2 ^ 64) (hτ : τ < 2 ^ 64) :
    (pmEntry first rest τ).1 < 2 ^ 64 ∧ (pmEntry first rest τ).2 < 2 ^ 64 := by
  simp only [pmEntry, satAdd, Nat.shiftLeft_eq]
  refine ⟨by split <;> assumption, by omega⟩

section

variable (t n c : Nat) (s : State)

/-- The ring of the phase timer with one more mark. -/
def pmRing : State :=
  regPut (aPm t 0x800) ((regRaw s (aPm t 0x800) % 16 + 1) % 16 + (satAdd 24 (regRaw s (aPm t 0x800) >>> 8) 1) <<< 8)
    (regPut (aPm t (0x900 + 16 * (regRaw s (aPm t 0x800) % 16)) + 8) (c + n <<< 8)
      (regPut (aPm t (0x900 + 16 * (regRaw s (aPm t 0x800) % 16))) (now s) s))

theorem phaseMark_eq : phaseMark t n c s = if c < 32 then
    regPut (aPm t (0xA00 + 16 * c) + 8)
      (pmEntry (regRaw (pmRing t n c s) (aPm t (0xA00 + 16 * c))) (regRaw (pmRing t n c s) (aPm t (0xA00 + 16 * c) + 8)) (now s)).2
      (regPut (aPm t (0xA00 + 16 * c))
        (pmEntry (regRaw (pmRing t n c s) (aPm t (0xA00 + 16 * c))) (regRaw (pmRing t n c s) (aPm t (0xA00 + 16 * c) + 8)) (now s)).1
        (pmRing t n c s))
    else pmRing t n c s := rfl

theorem phaseMark_frame : { phaseMark t n c s with regs := s.regs } = s := by
  have hring : { pmRing t n c s with regs := s.regs } = s := regPut_others (regPut_others (regPut_others rfl _ _) _ _) _ _
  rw [phaseMark_eq]
  by_cases hc : c < 32
  · rw [if_pos hc]
    exact regPut_others (regPut_others hring _ _) _ _
  · rw [if_neg hc]
    exact hring

variable {n c}

theorem regRaw_pmRing_ne {a : Nat} (h : a ∉ [aPm t 0x800, aPm t (0x900 + 16 * (regRaw s (aPm t 0x800) % 16)),
    aPm t (0x900 + 16 * (regRaw s (aPm t 0x800) % 16)) + 8]) : regRaw (pmRing t n c s) a = regRaw s a := by
  simp only [List.mem_cons, List.not_mem_nil, or_false, not_or] at h
  obtain ⟨h0, h1, h2⟩ := h
  rw [pmRing, regRaw_regPut_ne _ _ _ h0, regRaw_regPut_ne _ _ _ h2, regRaw_regPut_ne _ _ _ h1]

theorem regRaw_pmRing (hn : n < 2) (hc : c < 256) :
    regRaw (pmRing t n c s) (aPm t (0x900 + 16 * (regRaw s (aPm t 0x800) % 16))) = now s
      ∧ regRaw (pmRing t n c s) (aPm t (0x900 + 16 * (regRaw s (aPm t 0x800) % 16)) + 8) = c + n <<< 8
      ∧ regRaw (pmRing t n c s) (aPm t 0x800)
          = (regRaw s (aPm t 0x800) % 16 + 1) % 16 + (satAdd 24 (regRaw s (aPm t 0x800) >>> 8) 1) <<< 8 := by
  refine ⟨?_, ?_, ?_⟩
  · rw [pmRing, regRaw_regPut_ne _ _ _ (by rw [Ne, aPm_inj]; omega), regRaw_regPut_ne _ _ _ (by omega), regRaw_regPut_self]
    exact Nat.mod_eq_of_lt (regRaw_lt s _)
  · rw [pmRing, regRaw_regPut_ne _ _ _ (by rw [aPm_add, Ne, aPm_inj]; omega), regRaw_regPut_self]
    exact Nat.mod_eq_of_lt (by rw [Nat.shiftLeft_eq]; omega)
  · rw [pmRing, regRaw_regPut_self]
    exact Nat.mod_eq_of_lt (by simp only [satAdd, Nat.shiftLeft_eq]; omega)

/-- A register that is not of the code's entry of the bank. -/
theorem regRaw_phaseMark_ne {a : Nat} (h : c < 32 → a ∉ [aPm t (0xA00 + 16 * c), aPm t (0xA00 + 16 * c) + 8]) :
    regRaw (phaseMark t n c s) a = regRaw (pmRing t n c s) a := by
  rw [phaseMark_eq]
  split
  · next hc =>
    have hne := h hc
    simp only [List.mem_cons, List.not_mem_nil, or_false, not_or] at hne
    rw [regRaw_regPut_ne _ _ _ hne.2, regRaw_regPut_ne _ _ _ hne.1]
  · rfl

/-- The entry of a bank, which lies outside the ring, with one more mark. -/
theorem regRaw_phaseMark_bank (hc : c < 32) :
    regRaw (phaseMark t n c s) (aPm t (0xA00 + 16 * c))
        = (pmEntry (regRaw s (aPm t (0xA00 + 16 * c))) (regRaw s (aPm t (0xA00 + 16 * c) + 8)) (now s)).1
      ∧ regRaw (phaseMark t n c s) (aPm t (0xA00 + 16 * c) + 8)
        = (pmEntry (regRaw s (aPm t (0xA00 + 16 * c))) (regRaw s (aPm t (0xA00 + 16 * c) + 8)) (now s)).2 := by
  obtain ⟨h1, h2⟩ := pmEntry_lt (regRaw s (aPm t (0xA00 + 16 * c) + 8)) (regRaw_lt s (aPm t (0xA00 + 16 * c))) (regRaw_lt s (aGlob 0x200000))
  have hkept : ∀ k, k = 0xA00 + 16 * c ∨ k = 0xA00 + 16 * c + 8 → regRaw (pmRing t n c s) (aPm t k) = regRaw s (aPm t k) := by
    intro k hk
    refine regRaw_pmRing_ne t s ?_
    simp only [List.mem_cons, List.not_mem_nil, or_false, not_or, aPm_add, aPm_inj]
    omega
  rw [phaseMark_eq, if_pos hc, aPm_add, hkept _ (.inl rfl), hkept _ (.inr rfl), ← aPm_add]
  refine ⟨?_, ?_⟩
  · rw [regRaw_regPut_ne _ _ _ (by omega), regRaw_regPut_self]
    exact Nat.mod_eq_of_lt h1
  · rw [regRaw_regPut_self]
    exact Nat.mod_eq_of_lt h2

end

/-- Codes of a phase mark are below 256 (R115). -/
theorem stPmark_eq {t n len raw w c : Nat} {s : State} (hc : gprOf (stOf s t n) (rvRs1 w) = c) (h : c < 256) :
    stPmark t n w len raw s = stDone t n len 0 0 (phaseMark t n c s) := by
  have hf : fld c 63 8 = 0 := by
    rw [fld, Nat.shiftRight_eq_div_pow, Nat.div_eq_of_lt h]
    rfl
  simp only [stPmark, hc, hf, ne_eq, not_true_eq_false, if_false]

/-! ### DATUM (R116) -/

theorem stDatum_eq {t n len raw w : Nat} {s : State} (h : srcEnabled s 1 = true) :
    stDatum t n w len raw s = stDone t n len 0 0
      { regPut (aDat 0x30) (satAdd 64 (regRaw s (aDat 0x30)) 1) s with datums := { s.datums with pend := s.datums.pend ++ [(now s + 64, 1)] } } := by
  have hctl : aDat 0 ≠ aDat 0x30 := by simp only [aDat, aGlob]; omega
  have hen : srcEnabled (regPut (aDat 0x30) (satAdd 64 (regRaw s (aDat 0x30)) 1) s) 1 = true := by
    have he : datCtl (regPut (aDat 0x30) (satAdd 64 (regRaw s (aDat 0x30)) 1) s) = datCtl s := regRaw_regPut_ne _ _ _ hctl
    simp only [srcEnabled, he]
    exact h
  rw [stDatum, regCount_eq, trigger, if_pos hen]
  rfl

/-- Settles O22: WAITC and the fences by their cases, PMARK by the ring's and the bank's registers, DATUM as a trigger of an enabled source. -/
theorem stewardFencesAndMarks : Obligations.StewardFencesAndMarks := by
  intro s s' t n w len raw h
  have hn := stAt_lt h
  refine ⟨fun hk => ?_, fun hk => ?_, fun v k count rel stop hrow hv hk hok hc => ⟨fun hge => ?_, fun hlt hst => ?_, fun hlt hst => ?_⟩,
    fun hk => ?_, fun far i hi hk => ?_, fun c hd e hk hc hlt hh he => ?_, fun hk hen => ?_⟩
  · exact stOwn_becomes h hk (stDone_after hn (stBecomes_setSt hn _ s'))
  · exact stOwn_becomes h hk (stDone_becomes hn len 0 0 s')
  · exact stOwn_becomes h hrow (by rw [stWaitc_eq hv hk hok hc, if_pos hge]; exact stDone_becomes hn 4 _ 0 s')
  · exact stOwn_becomes h hrow (by rw [stWaitc_eq hv hk hok hc, if_neg (by omega), if_pos hst]; exact stDone_becomes hn 4 _ 1 s')
  · exact stOwn_becomes h hrow (by rw [stWaitc_eq hv hk hok hc, if_neg (by omega), hst]; exact stWait_becomes hn .waitc w s')
  · exact stOwn_becomes h hk (stDone_becomes hn len 0 0 s')
  · have hrow : ∃ k, rvRow w = k ∧ exec i s = act (tileOk t && decide (n < 2)) s (stOwn k t n (stFenceCopies far)) := by
      simp only [List.mem_cons, List.not_mem_nil, or_false, Prod.mk.injEq] at hi
      rcases hi with ⟨rfl, rfl⟩ | ⟨rfl, rfl⟩
      · exact ⟨.fenceD, hk, rfl⟩
      · exact ⟨.fenceF, hk, rfl⟩
    obtain ⟨k, hk, hex⟩ := hrow
    rw [hex]
    refine ⟨fun hno => stOwn_becomes h hk ?_, fun hyes => stOwn_becomes h hk ?_⟩
    · rw [stFenceCopies_eq, hno]
      exact stDone_becomes hn len 0 0 s'
    · rw [stFenceCopies_eq, if_pos hyes]
      exact fenceWait_becomes hn .fence w _ s'
  · obtain ⟨nx, hex, hsame⟩ := stOwn_at h hk stPmark
    rw [stPmark_eq hc hlt] at hsame
    have hframe := phaseMark_frame t n c s'
    obtain ⟨htime, hcode, hhead⟩ := regRaw_pmRing t s' hn hlt
    have hring : ∀ o, 0x800 ≤ o → o < 0xA00 → regRaw (phaseMark t n c s') (aPm t o) = regRaw (pmRing t n c s') (aPm t o) := by
      intro o ho1 ho2
      refine regRaw_phaseMark_ne t s' fun _ => ?_
      simp only [List.mem_cons, List.not_mem_nil, or_false, not_or, aPm_add, aPm_inj]
      omega
    obtain ⟨⟨y, rfl⟩, hst⟩ := sameSt_iff.1 hsame
    subst hh he
    refine ⟨_, hex, ?_, ?_, (hring _ (by omega) (by omega)).trans htime, ?_, (hring _ (by omega) (by omega)).trans hhead,
      fun hb => regRaw_phaseMark_bank t s' hb, fun a ha hb => (regRaw_phaseMark_ne t s' hb).trans (regRaw_pmRing_ne t s' ha)⟩
    · exact congrArg (fun m : State => { m with stewards := s'.stewards }) hframe
    · have hx : stOf (phaseMark t n c s') t n = stOf s' t n := stOf_of_stewards (congrArg State.stewards hframe :) t n
      rw [hst, ← hx]
      exact stOf_setSt_self t n _ _
    · rw [aPm_add] at hcode ⊢
      exact (hring _ (by omega) (by omega)).trans hcode
  · obtain ⟨nx, hex, hsame⟩ := stOwn_at h hk stDatum
    rw [stDatum_eq hen] at hsame
    obtain ⟨⟨y, rfl⟩, hst⟩ := sameSt_iff.1 hsame
    refine ⟨_, hex, (hst t n).trans (stOf_setSt_self t n _ _), rfl, rfl, ?_, fun a ha => regRaw_regPut_ne _ _ s' ha⟩
    exact (regRaw_regPut_self _ _ s').trans (Nat.mod_eq_of_lt (satAdd_lt _ _))

end Sys2Proof.Machine
end

section
/-!
PROOFS. The stewards: ISSUE and VXRUN.
-/

namespace Sys2Proof.Machine

/-- An instruction that retires after an effect elsewhere than at the stewards. -/
theorem retired_of_sameSt {t n len rd v : Nat} {s m nx : State} (h : sameSt nx (stDone t n len rd v m)) (hstew : m.stewards = s.stewards) :
    stOf nx t n = setGpr rd v (retired len (stOf s t n)) ∧ ∃ x, nx = { m with stewards := x } := by
  obtain ⟨⟨x, rfl⟩, hst⟩ := sameSt_iff.1 h
  refine ⟨?_, x, rfl⟩
  rw [hst, ← stOf_of_stewards hstew]
  exact stOf_setSt_self t n _ m

/-! ### Releasing descriptors (R109, R162) -/

theorem maOf_modMa_self (t a : Nat) (f : MArray → MArray) (s : State) : maOf (modMa t a f s) t a = f (maOf s t a) := by
  by_cases h : a = 0 <;> simp [modMa, setMa, maOf, h]

theorem strOf_modStr_self (i : Nat) (f : Stream → Stream) (m : MArray) : strOf (modStr i f m) i = f (strOf m i) := by
  by_cases h : i = 0 <;> simp [modStr, setStr, strOf, h]

/-- A number of descriptors released on a stream: it joins the queue and the count of those released. -/
def strReleased (off k ord : Nat) (y : Stream) : Stream :=
  { y with queue := y.queue ++ releasedRuns off k 64 ord, released := y.released + BitVec.ofNat 32 k }

/-- The array with a number of descriptors released on one of its streams, numbered on. -/
def maReleased (i off k : Nat) (m : MArray) : MArray :=
  { modStr i (strReleased off k m.ordNext) m with ordNext := m.ordNext + k }

section

variable {t v k : Nat} {s : State} {count rel : BitVec 32} {stop : Bool}

theorem release_cpy (hu : fld v 3 0 = 2) : release t v k s = regPut (aTile t 6 0) ((regRaw s (aTile t 6 0) + 32 * k) % spdSize)
    (modCpy t (fun c => { c with
      queue := c.queue ++ releasedRuns (regRaw s (aTile t 6 0)) k 32 0, released := c.released + BitVec.ofNat 32 k }) s) := by
  simp only [release, hu, if_true]

theorem release_ma (hu : fld v 3 0 < 2) : release t v k s =
    regPut (aTile t (2 + fld v 3 0) (8 * fld v 4 4)) ((regRaw s (aTile t (2 + fld v 3 0) (8 * fld v 4 4)) + 64 * k) % spdSize)
      (modMa t (fld v 3 0) (maReleased (fld v 4 4) (regRaw s (aTile t (2 + fld v 3 0) (8 * fld v 4 4))) k) s) := by
  simp only [release, if_neg (show ¬ fld v 3 0 = 2 by omega)]
  rfl

theorem cpyOf_release (hu : fld v 3 0 = 2) : cpyOf (release t v k s) t = { cpyOf s t with
    queue := (cpyOf s t).queue ++ releasedRuns (regRaw s (aTile t 6 0)) k 32 0, released := (cpyOf s t).released + BitVec.ofNat 32 k } := by
  rw [release_cpy hu]
  simp [cpyOf, modCpy]

theorem strOf_release (hu : fld v 3 0 < 2) : strOf (maOf (release t v k s) t (fld v 3 0)) (fld v 4 4)
    = strReleased (regRaw s (aTile t (2 + fld v 3 0) (8 * fld v 4 4))) k (maOf s t (fld v 3 0)).ordNext (strOf (maOf s t (fld v 3 0)) (fld v 4 4)) := by
  have hma : maOf (release t v k s) t (fld v 3 0)
      = maReleased (fld v 4 4) (regRaw s (aTile t (2 + fld v 3 0) (8 * fld v 4 4))) k (maOf s t (fld v 3 0)) := by
    rw [release_ma hu]
    exact maOf_modMa_self t (fld v 3 0) _ s
  rw [hma]
  exact strOf_modStr_self (fld v 4 4) _ _

theorem unitCount_cpy (hu : fld v 3 0 = 2) : unitCount s t v = ((cpyOf s t).count, (cpyOf s t).released, (cpyOf s t).stopped) := by
  simp only [unitCount, hu]

theorem unitCount_ma (hu : fld v 3 0 < 2) : unitCount s t v = ((strOf (maOf s t (fld v 3 0)) (fld v 4 4)).count,
    (strOf (maOf s t (fld v 3 0)) (fld v 4 4)).released, (strOf (maOf s t (fld v 3 0)) (fld v 4 4)).stopped) := by
  unfold unitCount
  split
  · omega
  · omega
  · rfl

/-- The units whose descriptors ISSUE releases (Table 3-4). -/
theorem unit_of_unitOk (h : unitOk v false = true) : fld v 3 0 = 2 ∨ fld v 3 0 < 2 := by
  simp only [unitOk, Bool.false_or, Bool.and_eq_true, Bool.or_eq_true, decide_eq_true_eq] at h
  omega

/-- ISSUE moves the release count on, and neither the completion count nor the stop. -/
theorem unitCount_release (h : unitOk v false = true) (hc : unitCount s t v = (count, rel, stop)) :
    unitCount (release t v k s) t v = (count, rel + BitVec.ofNat 32 k, stop) := by
  rcases unit_of_unitOk h with hu | hu
  · rw [unitCount_cpy hu] at hc ⊢
    rw [cpyOf_release hu]
    simp only [Prod.mk.injEq] at hc ⊢
    exact ⟨hc.1, by rw [hc.2.1], hc.2.2⟩
  · rw [unitCount_ma hu] at hc ⊢
    rw [strOf_release hu]
    simp only [Prod.mk.injEq] at hc ⊢
    exact ⟨hc.1, by rw [← hc.2.1]; rfl, hc.2.2⟩

/-- A head register keeps offsets below the scratchpad's size. -/
theorem mod_spdSize_mod (x : Nat) : x % spdSize % 2 ^ 64 = x % spdSize :=
  Nat.mod_eq_of_lt (Nat.lt_trans (Nat.mod_lt x (by decide)) (by decide))

theorem release_cpy_spec (hu : fld v 3 0 = 2) :
    (cpyOf (release t v k s) t).queue = (cpyOf s t).queue ++ releasedRuns (regRaw s (aTile t 6 0)) k 32 0
      ∧ regRaw (release t v k s) (aTile t 6 0) = (regRaw s (aTile t 6 0) + 32 * k) % spdSize
      ∧ ∀ b, b ≠ aTile t 6 0 → regRaw (release t v k s) b = regRaw s b := by
  refine ⟨by rw [cpyOf_release hu], ?_, fun b hb => ?_⟩
  · rw [release_cpy hu, regRaw_regPut_self, mod_spdSize_mod]
  · rw [release_cpy hu, regRaw_regPut_ne _ _ _ hb]
    rfl

theorem release_ma_spec (hu : fld v 3 0 < 2) :
    (strOf (maOf (release t v k s) t (fld v 3 0)) (fld v 4 4)).queue = (strOf (maOf s t (fld v 3 0)) (fld v 4 4)).queue
        ++ releasedRuns (regRaw s (aTile t (2 + fld v 3 0) (8 * fld v 4 4))) k 64 (maOf s t (fld v 3 0)).ordNext
      ∧ regRaw (release t v k s) (aTile t (2 + fld v 3 0) (8 * fld v 4 4))
          = (regRaw s (aTile t (2 + fld v 3 0) (8 * fld v 4 4)) + 64 * k) % spdSize
      ∧ ∀ b, b ≠ aTile t (2 + fld v 3 0) (8 * fld v 4 4) → regRaw (release t v k s) b = regRaw s b := by
  refine ⟨by rw [strOf_release hu]; rfl, ?_, fun b hb => ?_⟩
  · rw [release_ma hu, regRaw_regPut_self, mod_spdSize_mod]
  · rw [release_ma hu, regRaw_regPut_ne _ _ _ hb]
    rfl

/-- What ISSUE releases is a tile's, and moves one register. -/
theorem release_frame (h : unitOk v false = true) : (∀ u, u ≠ t → tileOf (release t v k s) u = tileOf s u)
    ∧ { release t v k s with tiles := s.tiles, regs := s.regs } = s ∧ (release t v k s).stewards = s.stewards := by
  rcases unit_of_unitOk h with hu | hu
  · rw [release_cpy hu]
    exact ⟨fun u hne => tileOf_setTile_ne _ _ _ hne, rfl, rfl⟩
  · rw [release_ma hu]
    exact ⟨fun u hne => tileOf_setTile_ne _ _ _ hne, rfl, rfl⟩

end

theorem stIssue_eq {t n len raw w v k : Nat} {count rel : BitVec 32} {stop : Bool} {s : State} (hv : gprOf (stOf s t n) (rvRs1 w) = v)
    (hk : gprOf (stOf s t n) (rvRs2 w) = k) (hok : unitOk v false = true) (h0 : 0 < k) (h1 : k < 65536)
    (hc : unitCount s t v = (count, rel, stop)) :
    stIssue t n w len raw s = if 2 ^ 24 < (rel - count).toNat + k then stWait t n .issue w s
      else stDone t n 4 (rvRd w) (rel + BitVec.ofNat 32 k).toNat (release t v k s) := by
  simp only [stIssue, hv, hk, hok, Bool.not_true, Bool.false_eq_true, if_false, if_neg (show ¬ (k = 0 ∨ 65535 < k) by omega), hc]

theorem stIssue_badUnit {t n len raw w v : Nat} {s : State} (hv : gprOf (stOf s t n) (rvRs1 w) = v) (hok : unitOk v false = false) :
    stIssue t n w len raw s = stTrap t n 25 v none s := by
  simp only [stIssue, hv, hok, Bool.not_false, if_true, badOperand]

theorem stIssue_badNumber {t n len raw w v k : Nat} {s : State} (hv : gprOf (stOf s t n) (rvRs1 w) = v) (hk : gprOf (stOf s t n) (rvRs2 w) = k)
    (hok : unitOk v false = true) (h : k = 0 ∨ 65535 < k) : stIssue t n w len raw s = stTrap t n 25 k none s := by
  simp only [stIssue, hv, hk, hok, Bool.not_true, Bool.false_eq_true, if_false, if_pos h, badOperand]

/-! ### What counting an uncorrectable word leaves (R291) -/

theorem atlSpdUe_keeps (t : Nat) (s : State) : (atlSpdUe t s).stewards = s.stewards ∧ (atlSpdUe t s).tiles = s.tiles := by
  obtain ⟨w, hw⟩ := atlCount_eq (0xE00 + 32 * (4 + tileDie t) + 4 * tempBand (dieTemp s (tileDie t))) 1 s
  obtain ⟨v, hv⟩ := healthCount_eq 0 1 (eccCount (4 + tileDie t) (tempBand (dieTemp s (tileDie t))) 1 s)
  rw [atlSpdUe, hv, eccCount, hw]
  exact ⟨rfl, rfl⟩

theorem eccFound_ue_keeps (t src word : Nat) (s : State) :
    (eccFound t src word .ue s).stewards = s.stewards ∧ vxeOf (eccFound t src word .ue s) t = vxeOf s t := by
  simp only [eccFound, vxeOf, modTile_eq, setTile_stewards, tileOf_setTile_self]
  exact ⟨(atlSpdUe_keeps t _).1, congrArg Tile.vxe (tileOf_eq_of_tiles ((atlSpdUe_keeps t _).2.trans rfl) t)⟩

theorem unitUe_keeps (t p w : Nat) (s : State) : (unitUe t p w s).stewards = s.stewards ∧ vxeOf (unitUe t p w s) t = vxeOf s t := by
  unfold unitUe
  split
  · exact ⟨rfl, rfl⟩
  · exact eccFound_ue_keeps t _ _ s

/-! ### VXRUN (R110, R199) -/

/-- The run that VXRUN queues, with the 64 argument bytes of its time. -/
def vxRun (s : State) (t v k : Nat) : VRun :=
  { start := fld v 12 0, iterM1 := fld k 47 32, arg := BitVec.ofNat 512 (ofBytes (spdRead s t (fld k 22 0) 64)), argUe := firstUe s t [(fld k 22 0, 64)] }

/-- An engine with one more run queued, as the q-th. -/
def runQueued (r : VRun) (q : BitVec 32) (y : Vxe) : Vxe := { y with runs := y.runs ++ [r], queued := q }

section

variable {t n len raw w v k u : Nat} {s : State} (hv : gprOf (stOf s t n) (rvRs1 w) = v) (hk : gprOf (stOf s t n) (rvRs2 w) = k)

include hv in
theorem stVxrun_badStart (h : fld v 63 13 ≠ 0) : stVxrun t n w len raw s = stTrap t n 25 v none s := by
  simp only [stVxrun, hv, if_pos h, badOperand]

include hv hk

theorem stVxrun_badArgs (h1 : fld v 63 13 = 0) (h : fld k 63 48 ≠ 0 ∨ fld k 31 23 ≠ 0 ∨ fld k 5 0 ≠ 0) :
    stVxrun t n w len raw s = stTrap t n 25 k none s := by
  simp only [stVxrun, hv, hk, h1, ne_eq, not_true_eq_false, if_false, if_pos h, badOperand]

variable (h1 : fld v 63 13 = 0) (h2 : fld k 63 48 = 0) (h3 : fld k 31 23 = 0) (h4 : fld k 5 0 = 0)

include h1 h2 h3 h4

theorem stVxrun_waits (hl : 4 ≤ (vxeOf s t).runs.length) : stVxrun t n w len raw s = stWait t n .vxrun w s := by
  simp only [stVxrun, hv, hk, h1, h2, h3, h4, ne_eq, not_true_eq_false, or_self, if_false, if_pos hl]

theorem stVxrun_queues (hl : (vxeOf s t).runs.length < 4) (hu : firstUe s t [(fld k 22 0, 64)] = none) :
    stVxrun t n w len raw s = stDone t n 4 (rvRd w) ((vxeOf s t).queued + 1).toNat
      (modVxe t (runQueued (vxRun s t v k) ((vxeOf s t).queued + 1)) s) := by
  simp only [stVxrun, hv, hk, h1, h2, h3, h4, ne_eq, not_true_eq_false, or_self, if_false, if_neg (Nat.not_le.2 hl), hu, vxRun]
  rfl

theorem stVxrun_queues_ue (hl : (vxeOf s t).runs.length < 4) (hu : firstUe s t [(fld k 22 0, 64)] = some u) :
    stVxrun t n w len raw s = stDone t n 4 (rvRd w) ((vxeOf s t).queued + 1).toNat
      (modVxe t (runQueued (vxRun s t v k) ((vxeOf s t).queued + 1)) (unitUe t portVec u s)) := by
  simp only [stVxrun, hv, hk, h1, h2, h3, h4, ne_eq, not_true_eq_false, or_self, if_false, if_neg (Nat.not_le.2 hl), hu, vxRun]
  rfl

end

section

variable {t n len raw w v k : Nat} {s s' : State}

/-- What a run that joins the engine's queue leaves as it was, the steward's instruction retired. -/
theorem stVxrun_queued {r : VRun} {q : BitVec 32} {nx : State}
    (hsame : sameSt nx (stDone t n 4 (rvRd w) q.toNat (modVxe t (runQueued r q) s))) :
    stOf nx t n = setGpr (rvRd w) q.toNat (retired 4 (stOf s t n))
      ∧ tileOf nx t = { tileOf s t with vxe := runQueued r q (vxeOf s t) }
      ∧ (∀ u, u ≠ t → tileOf nx u = tileOf s u)
      ∧ { nx with stewards := s.stewards, tiles := s.tiles } = s := by
  have hself := tileOf_modVxe_self t (runQueued r q) s
  have hne := fun u => tileOf_modVxe_ne t (runQueued r q) s (u := u)
  have hrest := modVxe_others t (runQueued r q) s
  generalize modVxe t (runQueued r q) s = m at hsame hself hne hrest
  have hstew : m.stewards = s.stewards := by rw [← hrest]
  obtain ⟨hst, x, rfl⟩ := retired_of_sameSt hsame hstew
  exact ⟨hst, hself, hne, congrArg (fun m : State => { m with stewards := s.stewards }) hrest⟩

/-- ISSUE where the unit has room: the release count's value goes to rd, and of the state only what the release moves has changed. -/
theorem stIssue_released {count rel : BitVec 32} {stop : Bool} {nx : State} (hok : unitOk v false = true) (hc : unitCount s t v = (count, rel, stop))
    (hsame : sameSt nx (stDone t n 4 (rvRd w) (rel + BitVec.ofNat 32 k).toNat (release t v k s))) :
    stOf nx t n = setGpr (rvRd w) (rel + BitVec.ofNat 32 k).toNat (retired 4 (stOf s t n))
      ∧ unitCount nx t v = (count, rel + BitVec.ofNat 32 k, stop)
      ∧ nx.tiles = (release t v k s).tiles ∧ nx.regs = (release t v k s).regs
      ∧ (∀ u, u ≠ t → tileOf nx u = tileOf s u)
      ∧ { nx with stewards := s.stewards, tiles := s.tiles, regs := s.regs } = s := by
  have hcount := unitCount_release (k := k) hok hc
  obtain ⟨htiles, hrest, hstew⟩ := release_frame (t := t) (k := k) (s := s) hok
  generalize release t v k s = m at hsame hcount htiles hrest hstew ⊢
  obtain ⟨hst, x, rfl⟩ := retired_of_sameSt hsame hstew
  exact ⟨hst, hcount, rfl, rfl, htiles, congrArg (fun m : State => { m with stewards := s.stewards }) hrest⟩

end

/-- Settles O25: ISSUE and VXRUN by their cases; the frame of a release, and of a run whose argument bytes have an error. -/
theorem stewardIssue : Obligations.StewardIssue := by
  intro s s' t n w len raw v k h hv hk
  have hn := stAt_lt h
  refine ⟨fun count rel stop hrow hok h0 h1 hc => ⟨fun hle => ?_, fun hgt => ?_⟩, fun hrow htrap => ⟨fun hbad => ?_, fun hok hbad => ?_⟩,
    fun hrow htrap => ⟨fun hbad => ?_, fun h1 hbad => ?_⟩, fun hrow h1 h2 h3 h4 => ⟨fun u hl hu => ?_, fun hl hu => ?_, fun hl => ?_⟩⟩
  · obtain ⟨nx, hex, hsame⟩ := stOwn_at h hrow stIssue
    rw [stIssue_eq hv hk hok h0 h1 hc, if_neg (by omega)] at hsame
    obtain ⟨hst, hcount, htiles, hregs, hframe⟩ := stIssue_released hok hc hsame
    refine ⟨nx, hex, hst, hcount, ?_, ?_, hframe⟩
    · rintro a hu rfl
      simp only [cpyOf, tileOf_eq_of_tiles htiles, regRaw_eq_of_regs hregs]
      exact release_cpy_spec hu
    · rintro a hu rfl
      simp only [maOf, tileOf_eq_of_tiles htiles, regRaw_eq_of_regs hregs]
      exact release_ma_spec hu
  · exact stOwn_becomes h hrow (by rw [stIssue_eq hv hk hok h0 h1 hc, if_pos hgt]; exact stWait_becomes hn .issue w s')
  · exact stOwn_becomes h hrow (by rw [stIssue_badUnit hv hbad]; exact stTrap_becomes hn htrap 25 v)
  · exact stOwn_becomes h hrow (by rw [stIssue_badNumber hv hk hok hbad]; exact stTrap_becomes hn htrap 25 k)
  · exact stOwn_becomes h hrow (by rw [stVxrun_badStart hv hbad]; exact stTrap_becomes hn htrap 25 v)
  · exact stOwn_becomes h hrow (by rw [stVxrun_badArgs hv hk h1 hbad]; exact stTrap_becomes hn htrap 25 k)
  · obtain ⟨nx, hex, hsame⟩ := stOwn_at h hrow stVxrun
    rw [stVxrun_queues_ue hv hk h1 h2 h3 h4 hl hu] at hsame
    obtain ⟨hstew, hvxe⟩ := unitUe_keeps t portVec u s'
    obtain ⟨hst, htile, -⟩ := stVxrun_queued hsame
    rw [stOf_of_stewards hstew] at hst
    rw [hvxe] at htile
    exact ⟨nx, vxRun s' t v k, hex, hst, congrArg Tile.vxe htile, hu⟩
  · obtain ⟨nx, hex, hsame⟩ := stOwn_at h hrow stVxrun
    rw [stVxrun_queues hv hk h1 h2 h3 h4 hl hu] at hsame
    obtain ⟨hst, htile, hne, hrest⟩ := stVxrun_queued hsame
    exact ⟨nx, vxRun s' t v k, hex, hst, htile, rfl, rfl, rfl, hu, hne, hrest⟩
  · exact stOwn_becomes h hrow (by rw [stVxrun_waits hv hk h1 h2 h3 h4 hl]; exact stWait_becomes hn .vxrun w s')

end Sys2Proof.Machine
end

section
/-!
PROOFS. The stewards: WAYPOINT and FENCE.G.
-/

namespace Sys2Proof.Machine

/-! ### A steward that waits -/

section

variable {t n : Nat} {s s' : State}

theorem icacheFill_run (l : Nat) (d : List Byte) (s : State) : (stOf (icacheFill t n l d s) t n).run = (stOf s t n).run := by
  unfold icacheFill
  dsimp only
  split
  · rw [modSt_eq, stOf_setSt_self]
  · rw [modSt_eq, stOf_setSt_self]
    rfl

theorem codeLine_run (off : Nat) (s : State) : (stOf (codeLine t n off s).2 t n).run = (stOf s t n).run := by
  have hfill : ∀ m : State, (∀ u j, stOf m u j = stOf s u j) → (stOf (match firstUe m t [(off / 64 * 64, 64)] with
      | some w => ((.error w, m) : Except Nat (List Byte) × State)
      | none => (.ok (spdRead s t (off / 64 * 64) 64), icacheFill t n (off / 64 * 64) (spdRead s t (off / 64 * 64) 64) m)).2 t n).run
      = (stOf s t n).run := by
    intro m hm
    split
    · rw [hm]
    · rw [icacheFill_run, hm]
  unfold codeLine
  dsimp only
  split
  · exact hfill s fun _ _ => rfl
  · split
    · rfl
    · split
      · rfl
      · exact hfill (freeBits 1 s).2 fun _ _ => rfl

/-- A fetch does not change whether its steward runs (R91). -/
theorem stFetch_run (s : State) : (stOf (stFetch t n s).2 t n).run = (stOf s t n).run := by
  have hline := codeLine_run (t := t) (n := n) (stOf s t n).pc.toNat s
  unfold stFetch
  dsimp only
  split
  · rfl
  · split
    · next he => rw [he] at hline; exact hline
    · next l m he =>
      rw [he] at hline
      split
      · exact hline
      · split
        · exact hline
        · split
          · exact hline
          · have hnext := codeLine_run (t := t) (n := n) ((stOf s t n).pc.toNat + 2) m
            split
            · next he2 => rw [he2] at hnext; exact hnext.trans hline
            · next he2 => rw [he2] at hnext; exact hnext.trans hline

variable {k : RvRow} {w len raw : Nat}

/-- A steward that waits executes its instruction again, without a fetch. -/
theorem stOwn_waiting (h : stAt s t n w len raw s') (hk : rvRow w = k) (hr : (stOf s' t n).run = .waiting)
    (f : Nat → Nat → Nat → Nat → Nat → State → State) :
    act (tileOk t && decide (n < 2)) s (stOwn k t n f) = .next (f t n w len raw s') := by
  obtain ⟨hl, ht, hn, ⟨hrun, hw, rfl, rfl, rfl⟩ | ⟨hrun, -, hf⟩⟩ := h
  · rw [act_live hl (stOk_of ht hn)]
    simp only [stOwn, stRow, hrun, hw, hk, if_true]
  · have hkeep := stFetch_run (t := t) (n := n) s
    rw [hf, hrun] at hkeep
    rw [hkeep] at hr
    cases hr

end

/-! ### Arrival at a waypoint (R81, R114) -/

theorem mem_sinsert {u k : Nat} {l : List Nat} : u ∈ sinsert k l ↔ u = k ∨ u ∈ l := by
  induction l with
  | nil => simp [sinsert]
  | cons x r ih =>
    unfold sinsert
    split
    · simp
    · split
      · next h => simp [h]
      · simp only [List.mem_cons, ih]
        exact or_left_comm

/-- A context with one more tile at the waypoint of an index. -/
def wpArrived (t i tick : Nat) (x : Ctx) : Ctx :=
  { x with next := .at i, arrived := sinsert t x.arrived, chosenAt := (match x.next with | .choice => some tick | _ => x.chosenAt) }

/-- Only context c changed, and it became x. -/
def ctxBecomes (c : Nat) (x : Ctx) (s n : State) : Prop := ctxOf n c = x ∧ (∀ d, d ≠ c → ctxOf n d = ctxOf s d) ∧ { n with ctxs := s.ctxs } = s

/-- Every tile of the context has reached the waypoint that is its next. -/
def allArrived (s : State) (c : Nat) : Bool := (tilesOf s c).all (fun u => (ctxOf s c).arrived.contains u)

theorem ctxBecomes_setCtx (c : Nat) (x : Ctx) (s : State) : ctxBecomes c x s (setCtx c x s) :=
  ⟨ctxOf_setCtx_self c x s, fun _ hd => ctxOf_setCtx_ne c x s hd, rfl⟩

theorem ctxBecomes_trans {c : Nat} {x y : Ctx} {s m n : State} (h : ctxBecomes c x s m) (hn : ctxBecomes c y m n) : ctxBecomes c y s n := by
  obtain ⟨-, hne, hrest⟩ := h
  obtain ⟨hself', hne', hrest'⟩ := hn
  refine ⟨hself', fun d hd => (hne' d hd).trans (hne d hd), ?_⟩
  rw [← hrest'] at hrest
  exact hrest

section

variable {c t i : Nat} {e : WpEntry} {s : State}

theorem wpReach_eq (he : (ctxOf s c).wps[i]? = some e) : wpReach c t i s
    = wpTouch c (if allArrived (setCtx c (wpArrived t i (now s) (ctxOf s c)) s) c
        then bookReached c e.kind i (setCtx c (wpArrived t i (now s) (ctxOf s c)) s) else setCtx c (wpArrived t i (now s) (ctxOf s c)) s) := by
  simp only [wpReach, he]
  rfl

theorem bookReached_unbound (h : runningBook s c = none) (k : WpKind) : bookReached c k i s = s := by
  simp only [bookReached, h]

/-- A waypoint of a context without a running book and without further gates. -/
theorem wpGate_local (h : runningBook s c = none) (hk : e.kind = .loc) : wpGate s c i e = true := by
  simp only [wpGate, bookGate, h, hk]
  rfl

variable (hat : (ctxOf s c).next = .at i) (he : (ctxOf s c).wps[i]? = some e) (hopen : (ctxOf s c).aLocal = none)

include hat he hopen

/-- While a tile is missing, nothing follows from an event. -/
theorem wpTouch_missing (hall : allArrived s c = false) : wpTouch c s = s := by
  have hno : (tilesOf s c).all (fun u => (ctxOf s c).arrived.contains u) = false := hall
  simp only [wpTouch, hat, he, hopen, hno, Bool.and_false, Bool.false_and, Bool.false_eq_true, if_false]

/-- The last arrival at a waypoint of this context alone counts at once. -/
theorem wpTouch_last (hall : allArrived s c = true) (hg : wpGate s c i e = true) (hk : isJob e.kind = false) (hr : (ctxOf s c).raised = none) :
    wpTouch c s = setCtx c { ctxOf s c with aLocal := some (now s) } s := by
  have hyes : (tilesOf s c).all (fun u => (ctxOf s c).arrived.contains u) = true := hall
  simp only [wpTouch, hat, he, hopen, hyes, hg, hr, hk, Option.isNone_none, Option.isSome_none, Bool.and_self, Bool.false_and, Bool.false_eq_true,
    if_true, if_false, modCtx_eq, Bool.not_false]
  split <;> rfl

end

section

variable {c t i : Nat} {e : WpEntry} {s : State} (he : (ctxOf s c).wps[i]? = some e) (hopen : (ctxOf s c).aLocal = none)

include he hopen

theorem wpReach_missing (h : ∃ u, u ∈ tilesOf s c ∧ u ≠ t ∧ u ∉ (ctxOf s c).arrived) :
    ctxBecomes c (wpArrived t i (now s) (ctxOf s c)) s (wpReach c t i s) := by
  obtain ⟨u, hu, hne, hmiss⟩ := h
  have hall : allArrived (setCtx c (wpArrived t i (now s) (ctxOf s c)) s) c = false := by
    refine List.all_eq_false.2 ⟨u, hu, ?_⟩
    simp [wpArrived, mem_sinsert, hne, hmiss]
  have hself := ctxOf_setCtx_self c (wpArrived t i (now s) (ctxOf s c)) s
  rw [wpReach_eq he, hall, if_neg (by decide), wpTouch_missing (by rw [hself]; rfl) (by rw [hself]; exact he) (by rw [hself]; exact hopen) hall]
  exact ctxBecomes_setCtx c _ s

theorem wpReach_last (hk : e.kind = .loc) (hr : (ctxOf s c).raised = none) (hb : runningBook s c = none)
    (h : ∀ u, u ∈ tilesOf s c → u = t ∨ u ∈ (ctxOf s c).arrived) :
    ctxBecomes c { wpArrived t i (now s) (ctxOf s c) with aLocal := some (now s) } s (wpReach c t i s) := by
  have hall : allArrived (setCtx c (wpArrived t i (now s) (ctxOf s c)) s) c = true := by
    refine List.all_eq_true.2 fun u hu => ?_
    simpa [wpArrived, mem_sinsert] using h u hu
  have hb' : runningBook (setCtx c (wpArrived t i (now s) (ctxOf s c)) s) c = none := hb
  have hself := ctxOf_setCtx_self c (wpArrived t i (now s) (ctxOf s c)) s
  rw [wpReach_eq he, hall, if_pos rfl, bookReached_unbound hb', wpTouch_last (by rw [hself]; rfl) (by rw [hself]; exact he)
    (by rw [hself]; exact hopen) hall (wpGate_local hb' hk) (by rw [hk]; rfl) (by rw [hself]; exact hr), hself]
  exact ctxBecomes_trans (ctxBecomes_setCtx c _ s) (ctxBecomes_setCtx c _ _)

end

/-! ### The instructions -/

section

variable {t n len raw w v c : Nat} {s : State}

theorem fld_of_waypoint (h : v < 65536) : fld v 63 16 = 0 := by
  rw [fld, Nat.shiftRight_eq_div_pow, Nat.div_eq_of_lt h]
  rfl

theorem stWaypoint_other : stWaypoint t 1 w len raw s = stTrap t 1 2 raw none s := rfl

theorem stFenceG_other : stFenceG t 0 w len raw s = stTrap t 0 2 raw none s := rfl

theorem stWaypoint_waiting (hr : (stOf s t 0).run = .waiting) : stWaypoint t 0 w len raw s = s := by
  simp only [stWaypoint, hr, ne_eq, not_true_eq_false, if_true, if_false]

variable (hr : (stOf s t 0).run ≠ .waiting) (hv : gprOf (stOf s t 0) (rvRs1 w) = v) (hlt : v < 65536) (hc : stCtx s t = c)

include hr hv hlt hc

theorem stWaypoint_reaches (ha : wpAllowed (ctxOf s c) v = true) (hl : v < (ctxOf s c).wps.length) :
    stWaypoint t 0 w len raw s = wpReach c t v (stWait t 0 .waypoint w s) := by
  simp only [stWaypoint, hv, hc, hr, fld_of_waypoint hlt, ha, Nat.not_le.2 hl, ne_eq, not_true_eq_false, if_false, Bool.not_true, decide_false, Bool.or_self,
    Bool.false_eq_true]

theorem stWaypoint_stops (h : wpAllowed (ctxOf s c) v = false ∨ (ctxOf s c).wps.length ≤ v) :
    stWaypoint t 0 w len raw s = stStop t 0 4 none s := by
  have hno : (!wpAllowed (ctxOf s c) v || decide ((ctxOf s c).wps.length ≤ v)) = true := by
    rcases h with h | h <;> simp [h]
  simp only [stWaypoint, hv, hc, hr, fld_of_waypoint hlt, hno, ne_eq, not_true_eq_false, if_true, if_false]

end

section

variable {t len raw w : Nat} {s : State}

/-- Which posted accesses are open is a matter of the accesses and of the module's own number. -/
theorem postedBefore_setSt (t n : Nat) (x : Steward) (s : State) (u mark : Nat) (far : Bool) :
    postedBefore (setSt t n x s) u mark far = postedBefore s u mark far := rfl

theorem postedBefore_fenceWait (t n : Nat) (k : WaitKind) (w m : Nat) (s : State) (u mark : Nat) (far : Bool) :
    postedBefore (fenceWait t n k w m s) u mark far = postedBefore s u mark far := rfl

theorem stFenceG_first (hr : (stOf s t 1).run ≠ .waiting) (hp : postedBefore s t (cpyOf s t).doneTo true = true) :
    stBecomes t 1 { waitsAt .fenceG w (stOf s t 1) with
      fenceMark := (cpyOf s t).doneTo, fenceJob := (ctxOf s (stCtx s t)).jobRels, fenceGate := !atJobWaypoint s t } s (stFenceG t 1 w len raw s) := by
  have hwait := fenceWait_becomes (t := t) (by decide : 1 < 2) .fenceG w (cpyOf s t).doneTo s
  have he : stFenceG t 1 w len raw s = setSt t 1 { waitsAt .fenceG w (stOf s t 1) with
      fenceMark := (cpyOf s t).doneTo, fenceJob := (ctxOf s (stCtx s t)).jobRels, fenceGate := !atJobWaypoint s t }
      (fenceWait t 1 .fenceG w (cpyOf s t).doneTo s) := by
    simp only [stFenceG, fenceMark, if_neg hr, modSt_eq, postedBefore_setSt, postedBefore_fenceWait, hp, if_true, hwait.2, show ¬ (1 = 0) by decide, if_false]
    rfl
  rw [he]
  exact stBecomes_trans hwait (stBecomes_setSt (by decide) _ _)

theorem stFenceG_waits (hr : (stOf s t 1).run = .waiting) (hp : postedBefore s t (stOf s t 1).fenceMark true = false)
    (hg : (stOf s t 1).fenceGate = false) : stFenceG t 1 w len raw s
      = if (stOf s t 1).fenceJob < (ctxOf s (stCtx s t)).jobRels then stDone t 1 len 0 0 s else s := by
  simp only [stFenceG, fenceMark, hr, hp, hg, if_true, show ¬ (1 = 0) by decide, if_false, Bool.false_eq_true]

end

/-- An instruction at which its steward waits, with an event of a context. -/
theorem waits_of_ctxBecomes {t n c w : Nat} {k : WaitKind} {x : Ctx} {s m nx : State} (h : ctxBecomes c x (stWait t n k w s) m) (hsame : sameSt nx m) :
    stOf nx t n = waitsAt k w (stOf s t n) ∧ ctxOf nx c = x ∧ (∀ d, d ≠ c → ctxOf nx d = ctxOf s d)
      ∧ { nx with stewards := s.stewards, ctxs := s.ctxs } = s := by
  obtain ⟨hself, hne, hrest⟩ := h
  obtain ⟨⟨y, rfl⟩, hst⟩ := sameSt_iff.1 hsame
  have hstew : m.stewards = (stWait t n k w s).stewards := by rw [← hrest]
  exact ⟨(hst t n).trans ((stOf_of_stewards hstew t n).trans (stOf_setSt_self t n _ _)), hself, hne,
    congrArg (fun m : State => { m with stewards := s.stewards }) hrest⟩

/-- Settles O26: an arrival by what the context's touch makes of it, FENCE.G by whether it waits already. -/
theorem stewardWaypoint : Obligations.StewardWaypoint := by
  intro s s' t n w len raw h
  have hn := stAt_lt h
  refine ⟨?_, ?_, ?_, ?_, ?_, ?_, ?_⟩
  · rintro c i hk rfl hr hc hv hlt ha hl hopen hmiss
    obtain ⟨nx, hex, hsame⟩ := stOwn_at h hk stWaypoint
    rw [stWaypoint_reaches hr hv hlt hc ha hl] at hsame
    obtain ⟨hx, hctx, hrest⟩ := waits_of_ctxBecomes (wpReach_missing (List.getElem?_eq_getElem hl) hopen hmiss) hsame
    exact ⟨nx, hex, hx, congrArg Ctx.next hctx, congrArg Ctx.arrived hctx, hrest⟩
  · rintro c i e hk rfl hr hc hv hlt ha he hloc hopen hraised hbook hall
    obtain ⟨nx, hex, hsame⟩ := stOwn_at h hk stWaypoint
    rw [stWaypoint_reaches hr hv hlt hc ha (List.getElem?_eq_some_iff.1 he).1] at hsame
    obtain ⟨hx, hctx, hrest⟩ := waits_of_ctxBecomes (wpReach_last he hopen hloc hraised hbook hall) hsame
    exact ⟨nx, hex, hx, congrArg Ctx.next hctx, congrArg Ctx.arrived hctx, congrArg Ctx.aLocal hctx, hrest⟩
  · intro i hk hn0 hr hv hlt hbad
    subst hn0
    obtain ⟨nx, hex, hsame⟩ := stOwn_at h hk stWaypoint
    rw [stWaypoint_stops hr hv hlt rfl hbad] at hsame
    exact ⟨nx, hex, stStopped_of_sameSt hsame⟩
  · rintro hk rfl hr
    exact (stOwn_waiting h hk hr stWaypoint).trans (by rw [stWaypoint_waiting hr])
  · intro k m i hi hk hnm hok
    simp only [List.mem_cons, List.not_mem_nil, or_false, Prod.mk.injEq] at hi
    rcases hi with ⟨rfl, rfl, rfl⟩ | ⟨rfl, rfl, rfl⟩
    · subst hnm
      exact stOwn_becomes h hk (by rw [stWaypoint_other]; exact stTrap_becomes hn hok 2 raw)
    · subst hnm
      exact stOwn_becomes h hk (by rw [stFenceG_other]; exact stTrap_becomes hn hok 2 raw)
  · rintro c hk rfl rfl hr hp
    exact stOwn_becomes h hk (stFenceG_first hr hp)
  · rintro hk rfl hr hp hg
    refine ⟨fun hlt => stOwn_becomes h hk ?_, fun hle => (stOwn_waiting h hk hr stFenceG).trans ?_⟩
    · rw [stFenceG_waits hr hp hg, if_pos hlt]
      exact stDone_becomes hn len 0 0 s'
    · rw [stFenceG_waits hr hp hg, if_neg (Nat.not_lt.2 hle)]

end Sys2Proof.Machine
end

section
/-!
PROOFS. The stewards: QPUSH and QPOP.
-/

namespace Sys2Proof.Machine

/-! ### One entry written to a ring (R418) -/

theorem qOf_of_queues {s m : State} (h : m.queues = s.queues) (k : Nat) : qOf m k = qOf s k := by rw [qOf, qOf, h]

theorem qEntry_length (q : Queue) (d : List Byte) : (qEntry q d).length = qSize q := by
  have hfit : (fitBytes (qSize q) d).length = qSize q := by
    simp only [fitBytes, List.length_take, List.length_append, List.length_replicate]
    omega
  rw [← hfit, qEntry]
  split
  · next h => rw [h, List.length_cons, List.length_cons]
  · next h => rw [h]

section

variable {s : State}

theorem hbmPut_free {a : Nat} {d : List Byte} (h : hbmFree s a d.length) : hbmPut a d s = hbmWrite a d s := by
  obtain ⟨hopen, hlate⟩ := h
  have hno : s.late.any (fun w => decide (w.1 < a + d.length ∧ a < w.1 + w.2.length)) = false := by
    refine List.any_eq_false.2 fun w hw => ?_
    rw [decide_eq_true_eq]
    exact hlate w hw
  rw [hbmPut, hopen, hno]
  rfl

/-- A store by an own agent where nothing is open: its bytes, and no other state that a steward's instruction shows. -/
theorem ownWrite_spec {a : Nat} {d : List Byte} (e p : Nat) (h : hbmFree s a d.length) :
    hbmRead (ownWrite e p a d s) a d.length = d
      ∧ (∀ b, (b < a ∨ a + d.length ≤ b) → hbmRead (ownWrite e p a d s) b 1 = hbmRead s b 1)
      ∧ { ownWrite e p a d s with
          hbm := s.hbm, pin := s.pin, dirty := s.dirty, poison := s.poison, pinPoison := s.pinPoison, stackCtl := s.stackCtl, flits := s.flits } = s := by
  rw [ownWrite, hbmPut_free h]
  have hother := hbmWrite_onlyHbm a d s
  exact ⟨hbmRead_hbmWrite_self a d s, hbmRead_hbmWrite_out a d s,
    congrArg (fun m : State => { m with stackCtl := s.stackCtl, flits := s.flits }) hother⟩

variable {q : Queue} {k : Nat}

theorem qProduce_hbm {e p : Nat} {d : List Byte} (hq : qOf s k = some q) (hh : q.host = false) (hm : memAvailable s (qAddr q q.pi) (qSize q) = true) :
    qProduce e p k d s = ownWrite e p (qAddr q q.pi) (qEntry q d) (setQ k { q with pi := qAdd q q.pi 1 } s) := by
  simp only [qProduce, hq, hh, hm, Bool.false_eq_true, if_false, if_true]

end

/-- An entry of d joined ring k, a ring q of 64-byte entries. -/
def qProduced (k : Nat) (q : Queue) (d : List Byte) (s n : State) : Prop :=
  n.queues = (setQ k { q with pi := qAdd q q.pi 1 } s).queues
    ∧ hbmRead n (qAddr q q.pi) 64 = qEntry q d
    ∧ (∀ a, (a < qAddr q q.pi ∨ qAddr q q.pi + 64 ≤ a) → hbmRead n a 1 = hbmRead s a 1)
    ∧ n.regs = s.regs ∧ n.spd = s.spd ∧ n.stewards = s.stewards

theorem qProduce_spec {e p k : Nat} {q : Queue} {d : List Byte} {s : State} (hq : qOf s k = some q) (hh : q.host = false) (hb : q.big = false)
    (hm : memAvailable s (qAddr q q.pi) 64 = true) (hf : hbmFree s (qAddr q q.pi) 64) : qProduced k q d s (qProduce e p k d s) := by
  have hsize : qSize q = 64 := by rw [qSize, hb]; rfl
  have hlen : (qEntry q d).length = 64 := by rw [qEntry_length, hsize]
  rw [qProduce_hbm hq hh (by rw [hsize]; exact hm)]
  have hspec := ownWrite_spec (s := setQ k { q with pi := qAdd q q.pi 1 } s) (a := qAddr q q.pi) (d := qEntry q d) e p (by rw [hlen]; exact hf)
  rw [hlen] at hspec
  obtain ⟨hin, hout, hrest⟩ := hspec
  exact ⟨(congrArg State.queues hrest :), hin, hout, (congrArg State.regs hrest :), (congrArg State.spd hrest :), (congrArg State.stewards hrest :)⟩

/-! ### QPUSH (R107, R422) -/

theorem queueServes_fields {s : State} {t : Nat} {q : Queue} {push : Bool} (h : queueServes s t q push = true) :
    q.error = false ∧ q.big = false ∧ q.host = false := by
  simp only [queueServes, Bool.and_eq_true, Bool.not_eq_true'] at h
  obtain ⟨⟨⟨⟨⟨herr, hbig⟩, hhost⟩, -⟩, -⟩, -⟩ := h
  exact ⟨herr, hbig, hhost⟩

section

variable {t n len raw w id o : Nat} {q : Queue} {s : State} (hid : gprOf (stOf s t n) (rvRs1 w) = id)
  (hf : fld id 15 12 = (ctxOf s (stCtx s t)).func) (hz : fld id 63 16 = 0) (hq : qOf s (id % 65536) = some q)

include hid hf hz hq

section

variable (hb : bufAt s t n .load (gprOf (stOf s t n) (rvRs2 w)) = .ok o) (hs : queueServes s t q true = true) (hu : firstUe s t [(o, 64)] = none)

include hb hs hu

theorem stQpush_waits (hfull : qFull q = true) : stQpush t n w len raw s = stWait t n .qpush w s := by
  simp only [stQpush, hid, hb, hf, hz, hq, hs, hu, hfull, reduceCtorEq, ne_eq, not_true_eq_false, if_false, Bool.not_true, Bool.false_eq_true, if_true]

theorem stQpush_pushes {m : State} (hfull : qFull q = false)
    (hm : qProduce (tileDie t) (stCtx s t) (id % 65536) (spdRead (portView t (portSt n) s) t o 64) (portTake t (portSt n) o 64 s) = m)
    (hx : qOf m (id % 65536) = some { q with pi := qAdd q q.pi 1 }) : stQpush t n w len raw s = stDone t n 4 (rvRd w) 0 m := by
  obtain ⟨herr, -, -⟩ := queueServes_fields hs
  simp only [stQpush, hid, hb, hf, hz, hq, hs, hu, hfull, hm, hx, herr, reduceCtorEq, ne_eq, not_true_eq_false, if_false, Bool.not_true, Bool.false_eq_true]

end

/-! ### QPOP (R107, R423) -/

variable (hb : bufAt s t n .store (gprOf (stOf s t n) (rvRs2 w)) = .ok o) (hv : vsWritable s t o 64 = true) (hg : (tileOf s t).ports.got = [])
  (hs : queueServes s t q false = true)

include hb hv hg hs

theorem stQpop_waits (hempty : qCount q = 0) : stQpop t n w len raw s = stWait t n .qpop w s := by
  have hmay : portMayWrite s t (portSt n) o (List.replicate 64 0) = true := by rw [portMayWrite_eq_vsWritable hg, List.length_replicate, hv]
  simp only [stQpop, hid, hb, hf, hz, hq, hs, hmay, hempty, ne_eq, not_true_eq_false, if_false, Bool.not_true, Bool.false_eq_true, if_true]

theorem stQpop_pops (hsome : qCount q ≠ 0) (hm : memAvailable s (qAddr q q.ci) 64 = true) (ho : lineOpen s (qAddr q q.ci) 64 = false)
    (hp : memPoisoned s (qAddr q q.ci) 64 = none) : stQpop t n w len raw s
      = stDone t n 4 (rvRd w) 0 (portStore t (portSt n) o (hbmRead s (qAddr q q.ci) 64)
          (setQ (id % 65536) { q with ci := qAdd q q.ci 1 } (chargeWork (tileDie t) (stCtx s t) (qAddr q q.ci) 64 s))) := by
  have hmay : portMayWrite s t (portSt n) o (List.replicate 64 0) = true := by rw [portMayWrite_eq_vsWritable hg, List.length_replicate, hv]
  simp only [stQpop, hid, hb, hf, hz, hq, hs, hmay, hsome, hm, ho, hp, ne_eq, not_true_eq_false, if_false, Bool.not_true, Bool.false_eq_true, if_true,
    Option.isSome_none]
  rfl

end

/-- Settles O24: QPUSH by the entry its ring takes, QPOP as a store of the ring's entry through the steward's port. -/
theorem stewardQueues : Obligations.StewardQueues := by
  intro s s' t n w len raw id o q h hid hf hz hq
  have hn := stAt_lt h
  refine ⟨fun hk hb hs hu => ⟨fun hfull hm hfree => ?_, fun hfull => ?_⟩, fun hk hb hv hg hs => ⟨fun hsome hm ho hp => ?_, fun hempty => ?_⟩⟩
  · obtain ⟨nx, hex, hsame⟩ := stOwn_at h hk stQpush
    obtain ⟨-, hbig, hhost⟩ := queueServes_fields hs
    have hspec : qProduced (id % 65536) q (spdRead (portView t (portSt n) s') t o 64) s'
        (qProduce (tileDie t) (stCtx s' t) (id % 65536) (spdRead (portView t (portSt n) s') t o 64) (portTake t (portSt n) o 64 s')) := by
      obtain ⟨x, hx⟩ := portTake_eq t (portSt n) o 64 s'
      rw [hx]
      exact qProduce_spec (s := { s' with tiles := x }) hq hhost hbig hm hfree
    generalize hprod : qProduce (tileDie t) (stCtx s' t) (id % 65536) (spdRead (portView t (portSt n) s') t o 64)
      (portTake t (portSt n) o 64 s') = m at hspec
    obtain ⟨hqueues, hin, hout, hregs, hspd, hstew⟩ := hspec
    have hself := (qOf_of_queues hqueues (id % 65536)).trans (qOf_setQ_self _ _ s')
    rw [stQpush_pushes hid hf hz hq hb hs hu hfull hprod hself] at hsame
    obtain ⟨hst, y, rfl⟩ := retired_of_sameSt hsame hstew
    exact ⟨_, hex, hst, hself, fun k hne => (qOf_of_queues hqueues k).trans (qOf_setQ_ne _ _ s' hne),
      hin, hout, hregs, hspd⟩
  · exact stOwn_becomes h hk (by rw [stQpush_waits hid hf hz hq hb hs hu hfull]; exact stWait_becomes hn .qpush w s')
  · obtain ⟨nx, hex, hsame⟩ := stOwn_at h hk stQpop
    rw [stQpop_pops hid hf hz hq hb hv hg hs hsome hm ho hp] at hsame
    have hst := stStored_of_sameSt hsame (stDone_stored 4 (rvRd w) 0 hg)
    have hlen := hbmRead_length s' (qAddr q q.ci) 64
    have hread := stStored_read hst
    have hout := fun j => stStored_byte_out (j := j) hst
    rw [hlen] at hread hout
    obtain ⟨hx, -, -, hrest⟩ := hst
    have hqueues : nx.queues = (setQ (id % 65536) { q with ci := qAdd q q.ci 1 } s').queues := (congrArg State.queues hrest :)
    exact ⟨nx, hex, hx, (qOf_of_queues hqueues _).trans (qOf_setQ_self _ _ s'), fun k hne => (qOf_of_queues hqueues k).trans (qOf_setQ_ne _ _ s' hne),
      hread, fun j hj => hout j hj, (congrArg State.regs hrest :), (congrArg State.hbm hrest :)⟩
  · exact stOwn_becomes h hk (by rw [stQpop_waits hid hf hz hq hb hv hg hs hempty]; exact stWait_becomes hn .qpop w s')

end Sys2Proof.Machine
end

section
/-!
PROOFS. Matrix arrays (chapter 4): the decode of a descriptor, a shadow load and the head register.
-/

namespace Sys2Proof.Machine

/-! ### One array of a tile -/

section

variable {t a : Nat} {s : State}

theorem tileOf_modMa_ne (f : MArray → MArray) (s : State) {u : Nat} (hu : u ≠ t) : tileOf (modMa t a f s) u = tileOf s u :=
  tileOf_setTile_ne _ _ _ hu

/-- Beside its arrays a tile is as before. -/
theorem tileOf_modMa (t a : Nat) (f : MArray → MArray) (s : State) :
    { tileOf (modMa t a f s) t with ma0 := (tileOf s t).ma0, ma1 := (tileOf s t).ma1 } = tileOf s t := by
  rw [modMa, setMa, modTile_eq, tileOf_setTile_self]
  split <;> rfl

theorem maOf_modMa_other (ha : a < 2) (f : MArray → MArray) (s : State) : maOf (modMa t a f s) t (1 - a) = maOf s t (1 - a) := by
  rcases (by omega : a = 0 ∨ a = 1) with rfl | rfl <;> simp [modMa, setMa, maOf]

theorem maDid_modMa (ha : a < 2) (f : MArray → MArray) (s : State) : maDid t a f s (modMa t a f s) :=
  ⟨rfl, maOf_modMa_self t a f s, maOf_modMa_other ha f s, tileOf_modMa t a f s, fun _ hu => tileOf_modMa_ne f s hu⟩

/-- Two changes of one array are one. -/
theorem maDid_trans {f g h : MArray → MArray} {m n : State} (hm : maDid t a f s m) (hn : maDid t a g m n)
    (hh : h (maOf s t a) = g (f (maOf s t a))) : maDid t a h s n := by
  obtain ⟨h1, h2, h3, h4, h5⟩ := hm
  obtain ⟨k1, k2, k3, k4, k5⟩ := hn
  refine ⟨?_, by rw [hh, k2, h2], k3.trans h3, ?_, fun u hu => (k5 u hu).trans (h5 u hu)⟩
  · rw [← k1] at h1
    exact h1
  · rw [← k4] at h4
    exact h4

/-- A change of an array's stream matters at that stream alone. -/
theorem modStr_congr {i : Nat} {f g : Stream → Stream} {m : MArray} (h : f (strOf m i) = g (strOf m i)) : modStr i f m = modStr i g m := by
  rw [modStr, modStr, h]

theorem strOf_modStr_other {i : Nat} (hi : i < 2) (f : Stream → Stream) (m : MArray) : strOf (modStr i f m) (1 - i) = strOf m (1 - i) := by
  rcases (by omega : i = 0 ∨ i = 1) with rfl | rfl <;> simp [modStr, setStr, strOf]

/-- One of two is the given one or the other. -/
theorem eq_or_other {i j : Nat} (hi : i < 2) (hj : j < 2) : j = i ∨ j = 1 - i := by omega

theorem vbufOf_modMa (f : MArray → MArray) (s : State) (k b : Nat) : vbufOf (modMa t a f s) t k b = vbufOf s t k b := by
  have h : (tileOf (modMa t a f s) t).vbufs = (tileOf s t).vbufs := (congrArg Tile.vbufs (tileOf_modMa t a f s) :)
  rw [vbufOf, vbufOf, h]

theorem firstUe_modMa (f : MArray → MArray) (s : State) (l : List (Nat × Nat)) : firstUe (modMa t a f s) t l = firstUe s t l := by
  have h : (tileOf (modMa t a f s) t).eccBad = (tileOf s t).eccBad := (congrArg Tile.eccBad (tileOf_modMa t a f s) :)
  rw [firstUe, firstUe, h]

theorem ports_modMa (f : MArray → MArray) (s : State) : (tileOf (modMa t a f s) t).ports = (tileOf s t).ports :=
  (congrArg Tile.ports (tileOf_modMa t a f s) :)

end

/-! ### What an array's feed port takes (R286) -/

/-- A tile's ports after port p took the granted requests of [off, off + n). -/
def portsTaken (p off n : Nat) (x : Ports) : Ports :=
  { x with got := x.got.filter (fun g => !(g.port == p && overlap g.off g.data.length off n)) }

section

variable {t a p off k : Nat} {s n : State} {f : MArray → MArray}

theorem tileOf_portTake_self (t p off k : Nat) (s : State) :
    tileOf (portTake t p off k s) t = { tileOf s t with ports := portsTaken p off k (tileOf s t).ports } := by
  unfold portTake
  split
  · next h =>
    have hx : portsTaken p off k (tileOf s t).ports = (tileOf s t).ports := by
      rw [portsTaken, h, List.filter_nil, ← h]
    rw [hx]
  · rw [modTile_eq, tileOf_setTile_self]
    rfl

theorem tileOf_portTake_ne (s : State) {u : Nat} (hu : u ≠ t) : tileOf (portTake t p off k s) u = tileOf s u := by
  unfold portTake
  split
  · rfl
  · exact tileOf_setTile_ne _ _ _ hu

theorem maOf_portTake (s : State) (b : Nat) : maOf (portTake t p off k s) t b = maOf s t b := by
  rw [maOf, maOf, tileOf_portTake_self]

/-- What a port takes is the same before and after an array's change. -/
theorem maDid_portTake (p off k : Nat) (h : maDid t a f s n) : maDid t a f (portTake t p off k s) (portTake t p off k n) := by
  obtain ⟨h1, h2, h3, h4, h5⟩ := h
  obtain ⟨x, hx⟩ := portTake_eq t p off k s
  obtain ⟨y, hy⟩ := portTake_eq t p off k n
  refine ⟨?_, by rw [maOf_portTake, maOf_portTake, h2], by rw [maOf_portTake, maOf_portTake, h3], ?_, fun u hu => ?_⟩
  · rw [hx, hy]
    exact congrArg (fun m : State => { m with tiles := x }) h1
  · rw [tileOf_portTake_self, tileOf_portTake_self]
    have hports : (tileOf n t).ports = (tileOf s t).ports := (congrArg Tile.ports h4 :)
    rw [hports]
    exact congrArg (fun m : Tile => { m with ports := portsTaken p off k (tileOf s t).ports }) h4
  · rw [tileOf_portTake_ne _ hu, tileOf_portTake_ne _ hu, h5 u hu]

theorem maDid_feedTake (l : List (Nat × Nat)) (h : maDid t a f s n) : maDid t a f (feedTake t a l s) (feedTake t a l n) := by
  induction l generalizing s n with
  | nil => exact h
  | cons r l ih => exact ih (maDid_portTake a r.1 r.2 h)

theorem maOf_feedTake (l : List (Nat × Nat)) (s : State) (b : Nat) : maOf (feedTake t a l s) t b = maOf s t b := by
  induction l generalizing s with
  | nil => rfl
  | cons r l ih => exact (ih _).trans (maOf_portTake s b)

end

/-! ### Streams of which no stop waits (R147) -/

/-- A stream has no stop that waits for its turn. -/
def strQuiet (x : Stream) : Prop := x.stopped = true ∨ (x.fault = none ∧ ∀ p ∈ x.decoded, p.bad = none)

theorem strQuiet_of_subset {x y : Stream} (h : strQuiet x) (hs : y.stopped = x.stopped) (hf : y.fault = x.fault)
    (hd : ∀ p ∈ y.decoded, p ∈ x.decoded) : strQuiet y := by
  rcases h with h | ⟨hx, hb⟩
  · exact .inl (hs.trans h)
  · exact .inr ⟨hf.trans hx, fun p hp => hb p (hd p hp)⟩

section

variable {t a st : Nat} {s n : State} {f : MArray → MArray}

theorem settle_of_quiet (h : strQuiet (strOf (maOf s t a) st)) : settle t a st s = s := by
  rcases h with h | ⟨hf, hb⟩
  · simp only [settle, h, if_true]
  · unfold settle
    cases hs : (strOf (maOf s t a) st).decoded with
    | nil => simp [hs, hf]
    | cons p r => simp [hs, hb p (by rw [hs]; exact List.mem_cons_self ..)]

theorem settleAll_of_quiet (ha : a < 2) (h : maQuiet s t) : settleAll t a s = s := by
  have hq : ∀ b j, b < 2 → j < 2 → settle t b j s = s := fun b j hb hj => settle_of_quiet (h b j hb hj)
  simp only [settleAll, hq a 0 ha (by omega), hq a 1 ha (by omega), hq (1 - a) 0 (by omega) (by omega), hq (1 - a) 1 (by omega) (by omega)]

/-- Where the stop of one stream alone waits, it is the one taken. -/
theorem settleAll_of_one (ha : a < 2) (hst : st < 2) (hrest : ∀ b j, b < 2 → j < 2 → ¬ (b = a ∧ j = st) → strQuiet (strOf (maOf s t b) j))
    (h : maQuiet (settle t a st s) t) : settleAll t a s = settle t a st s := by
  have hq : ∀ b j, b < 2 → j < 2 → settle t b j (settle t a st s) = settle t a st s := fun b j hb hj => settle_of_quiet (h b j hb hj)
  have h0 : settle t a 1 (settle t a 0 s) = settle t a st s := by
    rcases (by omega : st = 0 ∨ st = 1) with rfl | rfl
    · exact hq a 1 ha (by omega)
    · rw [settle_of_quiet (st := 0) (hrest a 0 ha (by omega) (by omega))]
  simp only [settleAll, h0, hq a 0 ha (by omega), hq a 1 ha (by omega), hq (1 - a) 0 (by omega) (by omega), hq (1 - a) 1 (by omega) (by omega)]

/-- A change of one array leaves no stop to be taken where it leaves none in that array. -/
theorem maQuiet_of_maDid (ha : a < 2) (h : maQuiet s t) (hd : maDid t a f s n) (hf : ∀ j, j < 2 → strQuiet (strOf (f (maOf s t a)) j)) :
    maQuiet n t := by
  obtain ⟨-, hself, hother, -, -⟩ := hd
  intro b j hb hj
  rcases eq_or_other ha hb with rfl | rfl
  · rw [hself]
    exact hf j hj
  · rw [hother]
    exact h _ j hb hj

/-- A change of one stream leaves the stops of the others. -/
theorem strQuiet_others {g : Stream → Stream} (ha : a < 2) (hst : st < 2) (h : maQuiet s t) (hd : maDid t a (modStr st g) s n) (b j : Nat)
    (hb : b < 2) (hj : j < 2) (hne : ¬ (b = a ∧ j = st)) : strQuiet (strOf (maOf n t b) j) := by
  obtain ⟨-, hself, hother, -, -⟩ := hd
  rcases eq_or_other ha hb with rfl | rfl
  · obtain rfl : j = 1 - st := by omega
    rw [hself, strOf_modStr_other hst]
    exact h b _ ha hj
  · rw [hother]
    exact h _ j hb hj

/-- A change of one stream leaves no stop to be taken where it leaves none in that stream. -/
theorem maQuiet_of_modStr {g : Stream → Stream} (ha : a < 2) (hst : st < 2) (h : maQuiet s t) (hd : maDid t a (modStr st g) s n)
    (hg : strQuiet (g (strOf (maOf s t a) st))) : maQuiet n t := by
  intro b j hb hj
  by_cases hne : b = a ∧ j = st
  · obtain ⟨rfl, rfl⟩ := hne
    rw [hd.2.1, strOf_modStr_self]
    exact hg
  · exact strQuiet_others ha hst h hd b j hb hj hne

theorem maQuiet_feedTake (l : List (Nat × Nat)) (h : maQuiet s t) : maQuiet (feedTake t a l s) t := by
  intro b j hb hj
  rw [maOf_feedTake]
  exact h b j hb hj

end

theorem maDid_congr {t a : Nat} {s n : State} {f g : MArray → MArray} (h : maDid t a f s n) (hfg : g (maOf s t a) = f (maOf s t a)) :
    maDid t a g s n := by
  obtain ⟨h1, h2, h3⟩ := h
  exact ⟨h1, h2.trans hfg.symm, h3⟩

theorem modStr_self {i : Nat} {f : Stream → Stream} {m : MArray} (h : f (strOf m i) = strOf m i) : modStr i f m = m := by
  rw [modStr, h, setStr, strOf]
  split <;> rfl

theorem modStr_modStr (i : Nat) (f g : Stream → Stream) (m : MArray) : modStr i g (modStr i f m) = modStr i (fun x => g (f x)) m := by
  by_cases h : i = 0 <;> simp [modStr, setStr, strOf, h]

/-! ### A stop with no pass decoded before it (R147) -/

/-- A register at a value, and the records that wait: no part of an array. -/
def marked (r v : Nat) (x : List FaultRec) (s : State) : State := { regPut r v s with faults := x }

/-- A stream that has stopped. -/
def streamStopped (x : Stream) : Stream := { x with decoded := [], fault := none, stopped := true }

section

variable {t a st : Nat} {s : State}

/-- With no broadcast member among the passes that stop, no partner stops. -/
theorem stopPartners_nil (ha : a < 2) (s : State) : maDid t a (fun m => m) s (stopPartners t a [] s) := by
  have hother : maDid t (1 - a) (fun m => m) s (stopPartners t a [] s) := by
    refine maDid_congr (maDid_modMa (by omega) _ s) (modStr_self ?_).symm
    simp [mapDecoded]
  obtain ⟨h1, h2, h3, h4⟩ := hother
  rw [show 1 - (1 - a) = a by omega] at h3
  exact ⟨h1, h3, h2, h4⟩

theorem maDid_marked {f : MArray → MArray} {n : State} (r v : Nat) (x : List FaultRec) (h : maDid t a f s n) :
    maDid t a f (marked r v x s) (marked r v x n) := by
  obtain ⟨h1, h2⟩ := h
  exact ⟨congrArg (marked r v x) h1, h2⟩

/-- The stop of a stream whose fault has no pass before it: the stream stops, MAn_STOPs tells it, and a record waits. -/
theorem stopStream_of_none_decoded (ha : a < 2) (hd : (strOf (maOf s t a) st).decoded = []) {code : Nat} (hc : code ≠ 4)
    (off check half detail : Nat) :
    ∃ x, maDid t a (modStr st streamStopped) (marked (aTile t (2 + a) (0x18 + 4 * st)) (stopValue code off check) x s)
      (stopStream t a st code off check half none detail false [] s) := by
  have hmark : ∀ v r, ∃ x, maDid t a (modStr st streamStopped) (marked (aTile t (2 + a) (0x18 + 4 * st)) v x s)
      (raise r (regPut (aTile t (2 + a) (0x18 + 4 * st)) v (modMa t a (modStr st streamStopped) s))) := by
    intro v r
    obtain ⟨x, hx⟩ := raise_eq r (regPut (aTile t (2 + a) (0x18 + 4 * st)) v (modMa t a (modStr st streamStopped) s))
    rw [hx]
    exact ⟨x, maDid_marked _ v x (maDid_modMa ha _ s)⟩
  simp only [stopStream, hd, hc, List.filterMap_nil, List.foldl_nil, List.any_nil, List.append_nil, false_and, if_false, Bool.false_eq_true]
  by_cases h0 : st = 0
  · obtain ⟨x, hx⟩ := hmark _ _
    rw [if_pos h0]
    exact ⟨x, maDid_trans hx (stopPartners_nil ha _) rfl⟩
  · rw [if_neg h0]
    exact hmark _ _

/-- A fault of the stream's decode is taken where no pass stands before it. -/
theorem settle_fault {f : StreamFault} (hs : (strOf (maOf s t a) st).stopped = false) (hd : (strOf (maOf s t a) st).decoded = [])
    (hf : (strOf (maOf s t a) st).fault = some f) (hb : f.bcast = 0) :
    settle t a st s = stopStream t a st f.code f.off f.check f.half none (f.slot + 8 * f.buf) false [] s := by
  simp only [settle, hs, hd, hf, hb, Bool.false_eq_true, if_false, if_true]

end

/-! ### The checks of a descriptor (Table 4-9) -/

/-- The check that fails is one of 1 to 7. -/
theorem checks17_le {s : State} {t a st d off ord k : Nat} (h : checks17 s t a st d off ord = some k) : k ≤ 7 := by
  obtain ⟨p, hp, rfl⟩ := Option.map_eq_some_iff.1 h
  have hmem := List.mem_of_find?_eq_some hp
  simp only [List.mem_cons, List.not_mem_nil, or_false] at hmem
  rcases hmem with rfl | rfl | rfl | rfl | rfl | rfl | rfl <;> simp

/-- The checks look at neither the released descriptors nor the counts of broadcasts. -/
theorem checks17_takeReleased (s : State) (t a st bc d off ord : Nat) :
    checks17 (modMa t a (modStr st (takeReleased bc)) s) t a st d off ord = checks17 s t a st d off ord := by
  have h4 : check4 (modMa t a (modStr st (takeReleased bc)) s) t d = check4 s t d := rfl
  have h6 : check6 (modStr st (takeReleased bc) (maOf s t a)) d st ord = check6 (maOf s t a) d st ord := by
    by_cases h0 : st = 0
    · simp only [modStr, setStr, strOf, if_pos h0]
      rfl
    · simp only [modStr, setStr, strOf, if_neg h0]
      rfl
  have h7 : check7 (modMa t a (modStr st (takeReleased bc)) s) t d off = check7 s t d off := by
    simp only [check7, vsWritable, vbufOf_modMa]
    rfl
  rw [checks17, checks17, maOf_modMa_self, h4, h6, h7]

/-- MAn_STOPs holds its code, offset and check whole (Table 4-10). -/
theorem stopValue_lt {code check : Nat} (off : Nat) (hc : code < 16) (hk : check < 16) : stopValue code off check < 2 ^ 64 := by
  have hf := fld_lt off 22 6
  simp only [stopValue, Nat.shiftLeft_eq] at *
  omega

/-! ### DESCRIPTOR_DECODE -/

/-- The decoded pass of a descriptor that passes the checks and checks no version. -/
def decodedPass (d : Nat) (r : Released) (pair : Nat) : Pass :=
  { desc := BitVec.ofNat 512 d, off := r.off, ord := r.ord, pair := pair, reader := none, loaded := false, bad := none }

/-- The fault of a descriptor without broadcast that fails check k of 1 to 7. -/
def checkFault (d st off pair k : Nat) : StreamFault :=
  { code := if k = 7 then 2 else 1, check := k, off := off, half := dHalf d st, slot := 0, buf := 0, bcast := 0, pair := pair }

/-- A stream with a fault that waits for its turn. -/
def withFault (f : StreamFault) (x : Stream) : Stream := { x with fault := some f }

section

variable {s : State} {t a st d : Nat} {r : Released} {rest : List Released}
  (hs : (strOf (maOf s t a) st).stopped = false) (hf : (strOf (maOf s t a) st).fault = none)
  (hq : (strOf (maOf s t a) st).queue = r :: rest) (hn : (strOf (maOf s t a) st).decoded.length < 4)
  (hd : d = ofBytes (spdRead s t r.off 64)) (hu : firstUe s t [(r.off, 64)] = none) (hb : dBcast d = 0)

include hs hf hq hn hd hu hb

theorem descriptorDecode_passes (hc : checks17 s t a st d r.off r.ord = none) (hv : dVEn d = false) :
    descriptorDecode t a st s = settleAll t a (modMa t a (modStr st (addDecoded (decodedPass d r (strOf (maOf s t a) st).recvs)))
      (modMa t a (modStr st (takeReleased 0)) s)) := by
  have hlen : ¬ 4 ≤ (strOf (maOf s t a) st).decoded.length := by omega
  simp only [descriptorDecode, hq, hs, hf, hlen, ← hd, hb, firstUe_modMa, hu, checks17_takeReleased, hc, hv, Option.isSome_none, Bool.or_self,
    decide_false, Bool.false_eq_true, if_false, if_true, Bool.false_and, show ¬ (0 = 1) by omega]
  rfl

theorem descriptorDecode_fails {k : Nat} (hc : checks17 s t a st d r.off r.ord = some k) :
    descriptorDecode t a st s = settleAll t a (modMa t a (modStr st (withFault (checkFault d st r.off (strOf (maOf s t a) st).recvs k)))
      (modMa t a (modStr st (takeReleased 0)) s)) := by
  have hlen : ¬ 4 ≤ (strOf (maOf s t a) st).decoded.length := by omega
  simp only [descriptorDecode, hq, hs, hf, hlen, ← hd, hb, firstUe_modMa, hu, checks17_takeReleased, hc, Option.isSome_none, Bool.or_self,
    decide_false, Bool.false_eq_true, if_false, show ¬ (0 = 1) by omega]
  rfl

end

section

variable {s : State} {t a st d : Nat} {r : Released} {rest : List Released} (ha : a < 2) (hst : st < 2) (hquiet : maQuiet s t)
  (hs : (strOf (maOf s t a) st).stopped = false) (hq : (strOf (maOf s t a) st).queue = r :: rest) (hn : (strOf (maOf s t a) st).decoded.length < 4)
  (hd : d = ofBytes (spdRead s t r.off 64)) (hu : firstUe s t [(r.off, 64)] = none) (hb : dBcast d = 0)

include ha hst hquiet hs hq hn hd hu hb

/-- A descriptor that passes the checks, and checks no version, joins the decoded passes. -/
theorem descriptorDecode_joins (hc : checks17 s t a st d r.off r.ord = none) (hv : dVEn d = false) :
    maDid t a (modStr st (fun x => addDecoded (decodedPass d r x.recvs) (takeReleased 0 x))) s (descriptorDecode t a st s) := by
  have hx : strQuiet (strOf (maOf s t a) st) := hquiet a st ha hst
  obtain ⟨hf, hbad⟩ := hx.resolve_left (by rw [hs]; exact Bool.false_ne_true)
  have hm : maDid t a (modStr st (fun x => addDecoded (decodedPass d r x.recvs) (takeReleased 0 x))) s
      (modMa t a (modStr st (addDecoded (decodedPass d r (strOf (maOf s t a) st).recvs))) (modMa t a (modStr st (takeReleased 0)) s)) := by
    refine maDid_trans (maDid_modMa ha _ s) (maDid_modMa ha _ _) ?_
    rw [modStr_modStr]
    exact modStr_congr rfl
  rw [descriptorDecode_passes hs hf hq hn hd hu hb hc hv,
    settleAll_of_quiet ha (maQuiet_of_modStr ha hst hquiet hm (.inr ⟨hf, fun p hp => ?_⟩))]
  · exact hm
  · rcases List.mem_append.1 hp with hp | hp
    · exact hbad p hp
    · rw [List.mem_singleton.1 hp]
      rfl

/-- A descriptor that fails check k with no pass before it stops its stream (R147). -/
theorem descriptorDecode_stops (hd0 : (strOf (maOf s t a) st).decoded = []) {k : Nat} (hc : checks17 s t a st d r.off r.ord = some k) :
    ∃ x, maDid t a (modStr st (fun y => streamStopped (takeReleased 0 y)))
      (marked (aTile t (2 + a) (0x18 + 4 * st)) (stopValue (if k = 7 then 2 else 1) r.off k) x s) (descriptorDecode t a st s) := by
  have hx : strQuiet (strOf (maOf s t a) st) := hquiet a st ha hst
  obtain ⟨hf, -⟩ := hx.resolve_left (by rw [hs]; exact Bool.false_ne_true)
  generalize hfault : checkFault d st r.off (strOf (maOf s t a) st).recvs k = f
  have hm : maDid t a (modStr st (fun y => withFault f (takeReleased 0 y))) s
      (modMa t a (modStr st (withFault f)) (modMa t a (modStr st (takeReleased 0)) s)) :=
    maDid_trans (maDid_modMa ha _ s) (maDid_modMa ha _ _) (modStr_modStr st _ _ _).symm
  have hdec := descriptorDecode_fails hs hf hq hn hd hu hb hc
  rw [hfault] at hdec
  generalize modMa t a (modStr st (withFault f)) (modMa t a (modStr st (takeReleased 0)) s) = m at hm hdec
  have hstr : strOf (maOf m t a) st = withFault f (takeReleased 0 (strOf (maOf s t a) st)) := by
    rw [hm.2.1, strOf_modStr_self]
  have hcode : f.code = if k = 7 then 2 else 1 := by rw [← hfault]; rfl
  have hne : f.code ≠ 4 := by rw [hcode]; split <;> omega
  have hd1 : (strOf (maOf m t a) st).decoded = [] := by rw [hstr]; exact hd0
  have hset : settle t a st m = stopStream t a st f.code f.off f.check f.half none (f.slot + 8 * f.buf) false [] m :=
    settle_fault (by rw [hstr]; exact hs) hd1 (by rw [hstr]; rfl) (by rw [← hfault]; rfl)
  obtain ⟨x, hx⟩ := stopStream_of_none_decoded ha hd1 hne f.off f.check f.half (f.slot + 8 * f.buf)
  have hstop : maDid t a (modStr st (fun y => streamStopped (takeReleased 0 y)))
      (marked (aTile t (2 + a) (0x18 + 4 * st)) (stopValue f.code f.off f.check) x s) (settle t a st m) := by
    rw [hset]
    refine maDid_trans (maDid_marked _ _ x hm) hx ?_
    rw [modStr_modStr]
    exact modStr_congr rfl
  have hall : settleAll t a m = settle t a st m :=
    settleAll_of_one ha hst (strQuiet_others ha hst hquiet hm) (maQuiet_of_modStr (s := marked _ _ x s) ha hst hquiet hstop (.inl rfl))
  rw [hdec, hall]
  rw [hcode, ← hfault] at hstop
  exact ⟨x, hstop⟩

end

/-! ### SHADOW_LOAD -/

/-- The first decoded pass that needs an operand loads it into the shadows, as the feed port was granted it (R139, R286). -/
theorem shadowLoad_loads {s : State} {t a st : Nat} {p : Pass}
    (hp : (strOf (maOf s t a) st).decoded.find? (fun p => needsLoad p.desc.toNat && !p.loaded) = some p) (hb : dBcast p.desc.toNat ≠ 2)
    (hbad : p.bad = none) (hfree : shadowFree (maOf s t a) p.desc.toNat st = true)
    (hu : firstUe s t (intervals (opS p.desc.toNat) ++ sxIntervals p.desc.toNat) = none) :
    shadowLoad t a st s = feedTake t a (intervals (opS p.desc.toNat) ++ sxIntervals p.desc.toNat)
      (modMa t a (fun m => setShadow st (some (readS (portView t a s) t p.desc.toNat)) (modStr st (modPass p.ord (fun q => { q with loaded := true })) m)) s) := by
  simp only [shadowLoad, hp, hb, hbad, hfree, hu, decide_false, Option.isSome_none, Bool.not_true, Bool.or_self, Bool.false_eq_true, if_false]

/-! ### The head register (R162) -/

section

variable {who : Who} {t a st : Nat} {v : Word} {s : State}

theorem unitWrite_maHead (r : RegSpec) (v : Nat) (ht : t < 128) (ha : a < 2) (hst : st < 2) :
    unitWrite who r (aTile t (2 + a) (8 * st)) v s = maHeadWrite t a st v s := by
  have hx : aTile t (2 + a) (8 * st) = tcbBase + (t * 0x10000 + (2 + a) * 0x1000 + 8 * st) := by simp only [aTile]; omega
  have hlt : aTile t (2 + a) (8 * st) < dieBase := by rw [hx]; simp only [tcbBase, dieBase]; omega
  have h1 : (aTile t (2 + a) (8 * st) - tcbBase) / 0x10000 = t := by omega
  have h2 : (aTile t (2 + a) (8 * st) - tcbBase) / 0x1000 % 16 = 2 + a := by omega
  have h3 : aTile t (2 + a) (8 * st) % 0x1000 = 8 * st := by rw [hx]; simp only [tcbBase]; omega
  have hw : 2 + a - 2 = a := by omega
  rw [unitWrite, if_pos hlt, h1, h2, h3, tileWrite, if_neg (by omega), hw]
  rcases (by omega : st = 0 ∨ st = 1) with rfl | rfl
  · rw [if_pos (by omega)]
  · rw [if_neg (by omega), if_pos (by omega)]

/-- A write that the register's own rule refuses (R15). -/
theorem writeReg_word_refused {x v : Nat} {r : RegSpec} (h : regFor who true x 8 s = .ok r) (hu : unitWrite who r x (v % 2 ^ 64) s = none) :
    writeReg who x 8 v s = .error 5 := by
  have hx : (if r.wide then x / 8 * 8 else x) = x := by
    split
    · next hw =>
      have := regAt_wide_aligned (regAt_of_regFor h) hw
      omega
    · rfl
  simp only [writeReg, h, hx, show ¬ (8 = 4) by omega, decide_false, Bool.and_false, Bool.false_eq_true, if_false]
  rw [show 8 * 8 = 64 by rfl, hu]

/-- The head register as a register of F0's or the firmware's. -/
theorem exec_maDescHead (ht : t < 128) (ha : a < 2) (hst : st < 2) (hw : mayWrite who (aTile t (2 + a) (8 * st)) 8 s) :
    exec (.maDescHead who t a st v) s = exec (.registerWrite who (aTile t (2 + a) (8 * st)) 8 v) s :=
  (tileCommands_are_registerWrites s v (whoOk_agent hw.1) ht ha hst (by norm_num : 0 < 8)).1

theorem word_mod (v : Word) : v.toNat % 2 ^ 64 = v.toNat := Nat.mod_eq_of_lt v.isLt

theorem maDescHead_idle (hl : live s = true) (ht : t < 128) (ha : a < 2) (hst : st < 2) (hw : mayWrite who (aTile t (2 + a) (8 * st)) 8 s)
    (hi : streamIdle (strOf (maOf s t a) st) = true) :
    exec (.maDescHead who t a st v) s = .next (regPut (aTile t (2 + a) (8 * st)) (Nat.land v.toNat (mask 22 6)) s) := by
  rw [exec_maDescHead ht ha hst hw, exec_registerWrite v hl (whoOk_agent hw.1) rfl (aTile_lt ht (by omega) (by omega))]
  obtain ⟨hwho, r, hr⟩ := hw
  refine congrArg _ (regCommand_ok hwho (writeReg_whole _ hr (.inr rfl) ?_))
  rw [show 8 * 8 = 64 by rfl, word_mod, unitWrite_maHead r _ ht ha hst, maHeadWrite, if_pos hi]

theorem maDescHead_busy (hl : live s = true) (ht : t < 128) (ha : a < 2) (hst : st < 2) (hw : mayWrite who (aTile t (2 + a) (8 * st)) 8 s)
    (hi : streamIdle (strOf (maOf s t a) st) = false) : ∃ n, exec (.maDescHead who t a st v) s = .next n ∧ { n with faults := s.faults } = s := by
  have hex := exec_maDescHead (v := v) ht ha hst hw
  obtain ⟨hwho, r, hr⟩ := hw
  have herr : writeReg who (aTile t (2 + a) (8 * st)) 8 v.toNat s = .error 5 :=
    writeReg_word_refused hr (by rw [unitWrite_maHead r _ ht ha hst, maHeadWrite, if_neg (by rw [hi]; exact Bool.false_ne_true)])
  obtain ⟨n, hn, hframe, -⟩ := registerWrite_refused hl hwho rfl (aTile_lt ht (by omega) (by omega)) herr
  exact ⟨n, hex.trans hn, hframe⟩

theorem onlyRegs_regPut (x v : Nat) (s : State) : onlyRegs [x] s (regPut x v s) :=
  ⟨rfl, fun _ hb => regRaw_regPut_ne x v s (fun h => hb (by rw [h]; exact List.mem_singleton_self x))⟩

end

/-! ### The statement -/

/-- An array's command on a live module. -/
theorem act_array {t a st : Nat} {s : State} (hl : live s = true) (ht : t < 128) (ha : a < 2) (hst : st < 2) (f : State → State) :
    act (tileOk t && decide (a < 2) && decide (st < 2)) s f = .next (f s) :=
  act_live hl (by simp [tileOk, ht, ha, hst])

/-- Settles O27: a good descriptor joins the decoded passes and leaves no stop to take; a bad one is the only stop that waits, so it is the one
taken; a shadow load is one change of its array; the head register is written by its own rule. -/
theorem arrayDecode : Obligations.ArrayDecode := by
  refine ⟨fun s t a st d r rest hl ht ha hst hquiet hs hq hn hd hu hb => ⟨fun hc hv => ?_, fun k hc hd0 => ?_⟩,
    fun s t a st p hl ht ha hst hp hb hbad hfree hu => ?_, fun s who t a st v hl ht ha hst hw => ⟨fun hi => ?_, fun hi => ?_⟩⟩
  · exact ⟨_, act_array hl ht ha hst _, descriptorDecode_joins ha hst hquiet hs hq hn hd hu hb hc hv⟩
  · obtain ⟨x, hrest, hself, hother, htile, hothers⟩ := descriptorDecode_stops ha hst hquiet hs hq hn hd hu hb hd0 hc
    have hk := checks17_le hc
    have hregs : ∀ y, regRaw (descriptorDecode t a st s) y
        = regRaw (regPut (aTile t (2 + a) (0x18 + 4 * st)) (stopValue (if k = 7 then 2 else 1) r.off k) s) y :=
      fun y => regRaw_eq_of_regs (congrArg State.regs hrest :) y
    refine ⟨_, act_array hl ht ha hst _, ?_, ?_, ?_, fun y hy => ?_, hothers, (congrArg State.spd hrest :), (congrArg State.hbm hrest :)⟩
    · rw [hself, strOf_modStr_self]
      rfl
    · rw [hself, strOf_modStr_other hst]
      rfl
    · rw [hregs, regRaw_regPut_self, Nat.mod_eq_of_lt (stopValue_lt _ (by split <;> omega) (by omega))]
    · rw [hregs, regRaw_regPut_ne _ _ _ hy]
  · refine ⟨_, act_array hl ht ha hst _, ?_⟩
    rw [shadowLoad_loads hp hb hbad hfree hu]
    exact maDid_feedTake _ (maDid_modMa ha _ s)
  · refine ⟨_, maDescHead_idle hl ht ha hst hw hi, onlyRegs_regPut _ _ s, ?_⟩
    have hle : Nat.land v.toNat (mask 22 6) ≤ mask 22 6 := Nat.and_le_right
    rw [regRaw_regPut_self, Nat.mod_eq_of_lt (Nat.lt_of_le_of_lt hle (by decide))]
  · exact maDescHead_busy hl ht ha hst hw hi

end Sys2Proof.Machine
end

section
/-!
PROOFS. Matrix arrays (chapter 4): a pass as it enters.
-/

namespace Sys2Proof.Machine

/-! ### Elements changed one by one -/

section

variable {ι : Type} (key : ι → Nat) (skip : ι → Bool) (f : ι → BitVec 128 → BitVec 128)

/-- The elements of l that are not skipped become f of what they were. -/
def elemsMapped (l : List ι) (acc : Tab (BitVec 128)) : Tab (BitVec 128) :=
  l.foldl (fun acc i => if skip i then acc else tset 0#128 acc (key i) (f i (tgetD 0#128 acc (key i)))) acc

theorem elemsMapped_cons (i : ι) (l : List ι) (acc : Tab (BitVec 128)) :
    elemsMapped key skip f (i :: l) acc
      = elemsMapped key skip f l (if skip i then acc else tset 0#128 acc (key i) (f i (tgetD 0#128 acc (key i)))) := rfl

/-- An element at no key of l is as it was. -/
theorem elemsMapped_out {k : Nat} (l : List ι) (acc : Tab (BitVec 128)) (h : ∀ i ∈ l, k ≠ key i) :
    tgetD 0#128 (elemsMapped key skip f l acc) k = tgetD 0#128 acc k := by
  induction l generalizing acc with
  | nil => rfl
  | cons i l ih =>
    rw [elemsMapped_cons, ih _ fun j hj => h j (List.mem_cons_of_mem i hj)]
    split
    · rfl
    · exact tgetD_tset_ne _ _ _ _ (h i (List.mem_cons_self ..))

/-- An element at the key of one of l is changed once, where the keys are apart. -/
theorem elemsMapped_in {l : List ι} (hl : l.Nodup) (hinj : ∀ i ∈ l, ∀ j ∈ l, key i = key j → i = j) (acc : Tab (BitVec 128)) {i : ι} (hi : i ∈ l) :
    tgetD 0#128 (elemsMapped key skip f l acc) (key i)
      = if skip i then tgetD 0#128 acc (key i) else f i (tgetD 0#128 acc (key i)) := by
  induction l generalizing acc with
  | nil => cases hi
  | cons j l ih =>
    obtain ⟨hj, hl⟩ := List.nodup_cons.1 hl
    have hinj' : ∀ x ∈ l, ∀ y ∈ l, key x = key y → x = y := fun x hx y hy => hinj x (List.mem_cons_of_mem j hx) y (List.mem_cons_of_mem j hy)
    rw [elemsMapped_cons]
    by_cases hij : i = j
    · subst hij
      rw [elemsMapped_out key skip f l _ fun y hy he =>
        hj (hinj i (List.mem_cons_self ..) y (List.mem_cons_of_mem i hy) he ▸ hy)]
      split
      · rfl
      · exact tgetD_tset_self ..
    · have hkey : key i ≠ key j := fun he => hij (hinj i hi j (List.mem_cons_self ..) he)
      rw [ih hl hinj' _ ((List.mem_cons.1 hi).resolve_left hij)]
      by_cases hs : skip j = true
      · rw [if_pos hs]
      · rw [if_neg hs, tgetD_tset_ne _ _ _ _ hkey]

end

/-- A walk of rows by columns is one of pairs. -/
theorem foldl_rows {α β γ : Type} (rows : List α) (cols : List β) (f : γ → α → β → γ) (x : γ) :
    rows.foldl (fun x m => cols.foldl (fun x c => f x m c) x) x = (rows ×ˢ cols).foldl (fun x p => f x p.1 p.2) x := by
  induction rows generalizing x with
  | nil => rfl
  | cons m rows ih => rw [List.foldl_cons, ih, List.product_cons, List.foldl_append, List.foldl_map]

/-! ### The elements that a pass targets (R132, R143) -/

/-- Rows and columns of a pass. -/
def passElems (d : Nat) : List (Nat × Nat) := List.range (dM d) ×ˢ List.range (dCols d)

/-- Key of the element in a pass's row and column. -/
def passKey (d st : Nat) (p : Nat × Nat) : Nat := accKey (dAcc d) p.1 (dCol0 d st + p.2)

/-- The element in a pass's row and column is masked (R154). -/
def passMasked (d st : Nat) (p : Nat × Nat) : Bool := masked (dMaskKind d) (dMask d) p.1 (dCol0 d st + p.2)

theorem mem_passElems {d : Nat} {p : Nat × Nat} : p ∈ passElems d ↔ p.1 < dM d ∧ p.2 < dCols d := by
  obtain ⟨m, c⟩ := p
  simp [passElems]

theorem nodup_passElems (d : Nat) : (passElems d).Nodup := List.Nodup.product List.nodup_range List.nodup_range

theorem accKey_inj {acc m n m' n' : Nat} (hm : m < 512) (hm' : m' < 512) (hn : n < 128) (hn' : n' < 128) (h : accKey acc m n = accKey acc m' n') :
    m = m' ∧ n = n' := by
  unfold accKey at h
  omega

theorem dM_le (d : Nat) : dM d ≤ 512 := fld_lt d 40 32

theorem column_lt {d st c : Nat} (hst : st < 2) (hc : c < dCols d) : dCol0 d st + c < 128 := by
  unfold dCols at hc
  unfold dCol0 isSplit
  by_cases h1 : dShape d = 1
  · simp only [h1, if_true] at hc
    simp only [h1, beq_self_eq_true, if_true]
    omega
  · simp only [if_neg h1] at hc
    simp only [beq_eq_false_iff_ne.2 h1, Bool.false_eq_true, if_false]
    split at hc <;> omega

theorem passKey_inj {d st : Nat} (hst : st < 2) (p : Nat × Nat) (hp : p ∈ passElems d) (q : Nat × Nat) (hq : q ∈ passElems d)
    (h : passKey d st p = passKey d st q) : p = q := by
  obtain ⟨hpm, hpc⟩ := mem_passElems.1 hp
  obtain ⟨hqm, hqc⟩ := mem_passElems.1 hq
  have hM := dM_le d
  obtain ⟨h1, h2⟩ := accKey_inj (by omega) (by omega) (column_lt hst hpc) (column_lt hst hqc) h
  exact Prod.ext h1 (Nat.add_left_cancel h2)

/-! ### The arithmetic of a pass (R128, R154, R188) -/

/-- What a pass with stationary operand x makes of the element p. -/
def passElem (v : State) (t d : Nat) (x : Stationary) (p : Nat × Nat) (e : BitVec 128) : BitVec 128 :=
  elemPass (dOpcode d) (dAFmt d) x.fmt (dOvw d) (opRow v t (opA d) p.1) (x.cols.getD p.2 []) (chunkScales v t d p.1 (x.scales.getD p.2 [])) e

/-- What FILL makes of the element p. -/
def fillElem (v : State) (t d : Nat) (p : Nat × Nat) (e : BitVec 128) : BitVec 128 :=
  elemFill (dOvw d) (BitVec.ofNat 128 (ofBytes (spdRead v t (dAAddr d + p.1 * dAStride d + 16 * p.2) 16))) e

theorem passAcc_eq (v : State) (t d st : Nat) (x : Stationary) (acc : Tab (BitVec 128)) :
    passAcc v t d st x acc = elemsMapped (passKey d st) (passMasked d st) (passElem v t d x) (passElems d) acc := foldl_rows _ _ _ _

theorem fillAcc_eq (v : State) (t d st : Nat) (acc : Tab (BitVec 128)) :
    fillAcc v t d st acc = elemsMapped (passKey d st) (passMasked d st) (fillElem v t d) (passElems d) acc := foldl_rows _ _ _ _

/-- The accumulators of an array after the arithmetic of a pass. -/
def passResult (v : State) (t d st : Nat) (m : MArray) : Tab (BitVec 128) :=
  if isFill d then fillAcc v t d st m.acc
  else match activeS m st with
    | some x => passAcc v t d st x m.acc
    | none => m.acc

section

variable {v : State} {t d st : Nat} {m : MArray}

theorem passResult_fill (h : isFill d = true) :
    passResult v t d st m = elemsMapped (passKey d st) (passMasked d st) (fillElem v t d) (passElems d) m.acc := by
  rw [passResult, if_pos h, fillAcc_eq]

theorem passResult_active {x : Stationary} (h : isFill d = false) (hx : activeS m st = some x) :
    passResult v t d st m = elemsMapped (passKey d st) (passMasked d st) (passElem v t d x) (passElems d) m.acc := by
  rw [passResult, if_neg (by rw [h]; exact Bool.false_ne_true), hx, ← passAcc_eq]

/-- An element that the pass does not target is as it was. -/
theorem passResult_out {k : Nat} (h : ∀ i c, i < dM d → c < dCols d → k ≠ passKey d st (i, c)) :
    tgetD 0#128 (passResult v t d st m) k = tgetD 0#128 m.acc k := by
  have hout : ∀ p ∈ passElems d, k ≠ passKey d st p := fun p hp => h p.1 p.2 (mem_passElems.1 hp).1 (mem_passElems.1 hp).2
  cases hf : isFill d with
  | true => rw [passResult_fill hf, elemsMapped_out _ _ _ _ _ hout]
  | false =>
    cases hx : activeS m st with
    | none => simp only [passResult, hf, hx, Bool.false_eq_true, if_false]
    | some x => rw [passResult_active hf hx, elemsMapped_out _ _ _ _ _ hout]

/-- An element that FILL targets, unless it is masked (R188). -/
theorem passResult_fill_in (hst : st < 2) (h : isFill d = true) {p : Nat × Nat} (hp : p ∈ passElems d) :
    tgetD 0#128 (passResult v t d st m) (passKey d st p)
      = if passMasked d st p then tgetD 0#128 m.acc (passKey d st p) else fillElem v t d p (tgetD 0#128 m.acc (passKey d st p)) := by
  rw [passResult_fill h, elemsMapped_in _ _ _ (nodup_passElems d) (passKey_inj hst) _ hp]

/-- An element that an operating pass targets, unless it is masked (R128, R154). -/
theorem passResult_active_in (hst : st < 2) {x : Stationary} (h : isFill d = false) (hx : activeS m st = some x) {p : Nat × Nat} (hp : p ∈ passElems d) :
    tgetD 0#128 (passResult v t d st m) (passKey d st p)
      = if passMasked d st p then tgetD 0#128 m.acc (passKey d st p) else passElem v t d x p (tgetD 0#128 m.acc (passKey d st p)) := by
  rw [passResult_active h hx, elemsMapped_in _ _ _ (nodup_passElems d) (passKey_inj hst) _ hp]

end

/-! ### The array as a pass enters (R139, R149) -/

theorem swapIn_keeps (d st : Nat) (m : MArray) : (swapIn d st m).acc = m.acc ∧ ∀ j, strOf (swapIn d st m) j = strOf m j := by
  unfold swapIn
  split
  · exact ⟨rfl, fun _ => rfl⟩
  · split
    · exact ⟨rfl, fun _ => rfl⟩
    · split <;> exact ⟨rfl, fun _ => rfl⟩

theorem modStr_acc (i : Nat) (f : Stream → Stream) (m : MArray) : (modStr i f m).acc = m.acc := by
  unfold modStr setStr
  split <;> rfl

theorem enterPass_acc (st : Nat) (p : Pass) (m : MArray) : (enterPass st p m).acc = m.acc :=
  (modStr_acc st _ _).trans (swapIn_keeps p.desc.toNat st m).1

/-- A stream whose decoded pass p has entered the array. -/
def streamEntered (p : Pass) (x : Stream) : Stream :=
  { x with decoded := x.decoded.filter (fun q => q.ord ≠ p.ord), inArray := x.inArray ++ [p] }

theorem strOf_enterPass_self (st : Nat) (p : Pass) (m : MArray) : strOf (enterPass st p m) st = streamEntered p (strOf m st) := by
  rw [← (swapIn_keeps p.desc.toNat st m).2 st]
  exact strOf_modStr_self st _ _

theorem strOf_enterPass_other {st : Nat} (hst : st < 2) (p : Pass) (m : MArray) : strOf (enterPass st p m) (1 - st) = strOf m (1 - st) := by
  rw [← (swapIn_keeps p.desc.toNat st m).2 (1 - st)]
  exact strOf_modStr_other hst _ _

/-- The array with the accumulators that pass p leaves; the pass keeps what its output rows need of them (R157). -/
def passKept (st : Nat) (p : Pass) (acc : Tab (BitVec 128)) (m : MArray) : MArray :=
  modStr st (fun x => { x with inArray := x.inArray.map (fun q => if q.ord = p.ord then { q with acc := outElems p.desc.toNat st acc } else q) })
    { m with acc := acc }

/-- A pass that enters leaves the stops that wait as they are. -/
theorem strQuiet_entered {st j : Nat} (hst : st < 2) (hj : j < 2) (p : Pass) (acc : Tab (BitVec 128)) {m : MArray} (h : strQuiet (strOf m j)) :
    strQuiet (strOf (passKept st p acc (enterPass st p m)) j) := by
  rcases eq_or_other hst hj with rfl | rfl
  · rw [passKept, strOf_modStr_self]
    have henter := strOf_enterPass_self j p m
    refine strQuiet_of_subset h (congrArg Stream.stopped henter :) (congrArg Stream.fault henter :) fun q hq => ?_
    have hdec : (strOf (enterPass j p m) j).decoded = (strOf m j).decoded.filter (fun q => q.ord ≠ p.ord) := (congrArg Stream.decoded henter :)
    exact List.mem_of_mem_filter (hdec ▸ hq)
  · rw [passKept, strOf_modStr_other hst]
    exact (strOf_enterPass_other hst p m) ▸ h

section

variable {t a : Nat}

/-- The feed port's view differs in nothing but the array as the pass enters. -/
theorem portView_modMa (f : MArray → MArray) (s : State) : ∃ x, portView t a (modMa t a f s) = { portView t a s with tiles := x } := by
  have hgot : portGot (modMa t a f s) t a false = portGot s t a false := by rw [portGot, portGot, ports_modMa]
  rw [portView, portView, hgot]
  cases portGot s t a false with
  | nil => exact ⟨_, rfl⟩
  | cons g l => exact ⟨_, rfl⟩

variable {st : Nat} {s : State} {p : Pass} {rest : List Pass} (hd : (strOf (maOf s t a) st).decoded = p :: rest) (hm : mayEnter s t a st p = true)
  (hb : dBcast p.desc.toNat ≠ 1) (hu : firstUe s t (aIntervals p.desc.toNat ++ axIntervals p.desc.toNat) = none)

include hd hm hb hu

/-- The next decoded pass enters: the swap, then its arithmetic, which reads the bytes that the feed port was granted (R139, R149, R286). -/
theorem passEnter_eq : passEnter (dOpcode p.desc.toNat) t a st false s
    = settleAll t a (feedTake t a (aIntervals p.desc.toNat ++ axIntervals p.desc.toNat)
        (modMa t a (passKept st p (passResult (portView t a s) t p.desc.toNat st (enterPass st p (maOf s t a)))) (modMa t a (enterPass st p) s))) := by
  obtain ⟨x, hx⟩ := portView_modMa (t := t) (a := a) (enterPass st p) s
  simp only [passEnter, hd, hm, hu, hb, hx, maOf_modMa_self, ne_eq, not_true_eq_false, Bool.not_true, Bool.false_eq_true, or_self, if_false, Bool.false_and]
  rfl

/-- The entry of a pass is one change of its array, and leaves no stop to be taken. -/
theorem passEnter_spec (ha : a < 2) (hst : st < 2) (hquiet : maQuiet s t) :
    maDid t a (fun m => passKept st p (passResult (portView t a s) t p.desc.toNat st (enterPass st p (maOf s t a))) (enterPass st p m))
      (feedTake t a (aIntervals p.desc.toNat ++ axIntervals p.desc.toNat) s) (passEnter (dOpcode p.desc.toNat) t a st false s) := by
  rw [passEnter_eq hd hm hb hu]
  generalize passResult (portView t a s) t p.desc.toNat st (enterPass st p (maOf s t a)) = acc
  have hdid : maDid t a (fun m => passKept st p acc (enterPass st p m)) s (modMa t a (passKept st p acc) (modMa t a (enterPass st p) s)) :=
    maDid_trans (maDid_modMa ha _ s) (maDid_modMa ha _ _) rfl
  rw [settleAll_of_quiet ha (maQuiet_feedTake _ (maQuiet_of_maDid ha hquiet hdid fun j hj => strQuiet_entered hst hj p acc (hquiet a j ha hj)))]
  exact maDid_feedTake _ hdid

end

/-- An element that a pass of opcode op targets, unless it is masked (R128, R154, R188). -/
theorem passResult_in {v : State} {t d st op : Nat} {m : MArray} (hst : st < 2) (hop : dOpcode d = op) {x : Stationary}
    (hx : activeS m st = some x ∨ op = 0x11) {i c : Nat} (hi : i < dM d) (hc : c < dCols d) :
    tgetD 0#128 (passResult v t d st m) (accKey (dAcc d) i (dCol0 d st + c))
      = if masked (dMaskKind d) (dMask d) i (dCol0 d st + c) then tgetD 0#128 m.acc (accKey (dAcc d) i (dCol0 d st + c))
        else if op = 0x11 then
          elemFill (dOvw d) (BitVec.ofNat 128 (ofBytes (spdRead v t (dAAddr d + i * dAStride d + 16 * c) 16)))
            (tgetD 0#128 m.acc (accKey (dAcc d) i (dCol0 d st + c)))
        else
          elemPass op (dAFmt d) x.fmt (dOvw d) (opRow v t (opA d) i) (x.cols.getD c []) (chunkScales v t d i (x.scales.getD c []))
            (tgetD 0#128 m.acc (accKey (dAcc d) i (dCol0 d st + c))) := by
  have hp : (i, c) ∈ passElems d := mem_passElems.2 ⟨hi, hc⟩
  by_cases h : op = 0x11
  · have hf : isFill d = true := by rw [isFill, hop, h]; rfl
    have hin := passResult_fill_in (v := v) (t := t) (m := m) hst hf hp
    simp only [passKey, passMasked, fillElem] at hin
    rw [if_pos h]
    exact hin
  · have hf : isFill d = false := by rw [isFill, hop]; exact beq_eq_false_iff_ne.2 h
    have hin := passResult_active_in (v := v) (t := t) hst hf (hx.resolve_right h) hp
    simp only [passKey, passMasked, passElem, hop] at hin
    rw [if_neg h]
    exact hin

/-- The row of each opcode of a pass (R128, R188). -/
theorem exec_passRow {t a st op : Nat} {i : Instr} (s : State)
    (h : (op, i) ∈ [(1, Instr.mac t a st false), (2, Instr.l1 t a st false), (3, Instr.l2sq t a st false), (4, Instr.maxplus t a st false),
      (5, Instr.minplus t a st false), (6, Instr.hamm t a st false), (0x11, Instr.fill t a st false)]) :
    exec i s = act (tileOk t && decide (a < 2) && decide (st < 2)) s (passEnter op t a st false) := by
  simp only [List.mem_cons, Prod.mk.injEq, List.not_mem_nil, or_false] at h
  rcases h with ⟨rfl, rfl⟩ | ⟨rfl, rfl⟩ | ⟨rfl, rfl⟩ | ⟨rfl, rfl⟩ | ⟨rfl, rfl⟩ | ⟨rfl, rfl⟩ | ⟨rfl, rfl⟩ <;> rfl

end Sys2Proof.Machine
end

section
/-!
PROOFS. Matrix arrays (chapter 4): a pass as it completes, and its output rows.
-/

namespace Sys2Proof.Machine

/-! ### Pieces of a memory written one after another -/

/-- A memory with pieces (address, bytes) written in order. -/
def memWrites (m : Tab Byte) (l : List (Nat × List Byte)) : Tab Byte := l.foldl (fun m p => memWrite m p.1 p.2) m

theorem memWrites_cons (m : Tab Byte) (p : Nat × List Byte) (l : List (Nat × List Byte)) :
    memWrites m (p :: l) = memWrites (memWrite m p.1 p.2) l := rfl

theorem memWrites_append (m : Tab Byte) (l k : List (Nat × List Byte)) : memWrites m (l ++ k) = memWrites (memWrites m l) k :=
  List.foldl_append

/-- Two pieces that touch are one. -/
theorem memWrite_append (m : Tab Byte) (a : Nat) (d e : List Byte) : memWrite m a (d ++ e) = memWrite (memWrite m a d) (a + d.length) e := by
  induction d generalizing m a with
  | nil => rfl
  | cons b d ih => rw [List.cons_append, memWrite, ih, memWrite, List.length_cons, Nat.add_assoc, Nat.add_comm 1]

theorem memByte_memWrites_out (l : List (Nat × List Byte)) (m : Tab Byte) (j : Nat) (h : ∀ p ∈ l, j < p.1 ∨ p.1 + p.2.length ≤ j) :
    memByte (memWrites m l) j = memByte m j := by
  induction l generalizing m with
  | nil => rfl
  | cons p l ih =>
    rw [memWrites_cons, ih _ fun q hq => h q (List.mem_cons_of_mem p hq), memByte_memWrite_out _ _ _ (h p (List.mem_cons_self ..))]

/-- A read gives the bytes at its addresses, and nothing else. -/
theorem memRead_congr {m m' : Tab Byte} {a n : Nat} (h : ∀ i, i < n → memByte m (a + i) = memByte m' (a + i)) : memRead m a n = memRead m' a n := by
  apply List.ext_getElem (by rw [memRead_length, memRead_length])
  intro i h1 h2
  rw [memRead_length] at h1
  rw [memRead_getElem, memRead_getElem, h i h1]

/-- A piece reads back where every other one is apart from it. -/
theorem memRead_memWrites {p : Nat × List Byte} (l : List (Nat × List Byte)) (m : Tab Byte) (hp : p ∈ l)
    (h : ∀ q ∈ l, q = p ∨ q.1 + q.2.length ≤ p.1 ∨ p.1 + p.2.length ≤ q.1) : memRead (memWrites m l) p.1 p.2.length = p.2 := by
  induction l generalizing m with
  | nil => cases hp
  | cons q l ih =>
    rw [memWrites_cons]
    by_cases hl : p ∈ l
    · exact ih _ hl fun r hr => h r (List.mem_cons_of_mem q hr)
    · obtain rfl : p = q := (List.mem_cons.1 hp).resolve_right hl
      calc memRead (memWrites (memWrite m p.1 p.2) l) p.1 p.2.length
          = memRead (memWrite m p.1 p.2) p.1 p.2.length := memRead_congr fun i hi => memByte_memWrites_out l _ _ fun r hr => by
            have hne : r ≠ p := fun he => hl (he ▸ hr)
            have hapart := (h r (List.mem_cons_of_mem p hr)).resolve_left hne
            omega
        _ = p.2 := memRead_memWrite_self m p.1 p.2

/-! ### Runs of an output row (R292) -/

/-- The pieces of a row at base b whose elements take w bytes. -/
def rowAt (b w : Nat) (l : List (Nat × List Byte)) : List (Nat × List Byte) := l.map (fun p => (b + p.1 * w, p.2))

theorem rowAt_cons (b w : Nat) (p : Nat × List Byte) (l : List (Nat × List Byte)) : rowAt b w (p :: l) = (b + p.1 * w, p.2) :: rowAt b w l := rfl

/-- The runs of a row write what its elements write. -/
theorem memWrites_joinRuns (b w : Nat) (l : List (Nat × List Byte)) (m : Tab Byte) :
    memWrites m (rowAt b w (joinRuns w l)) = memWrites m (rowAt b w l) := by
  induction l generalizing m with
  | nil => rfl
  | cons p l ih =>
    obtain ⟨o, d⟩ := p
    have hstep : memWrites m (rowAt b w (joinRuns w ((o, d) :: l))) = memWrites (memWrite m (b + o * w) d) (rowAt b w (joinRuns w l)) := by
      rw [joinRuns]
      cases joinRuns w l with
      | nil => rfl
      | cons q k =>
        obtain ⟨x, e⟩ := q
        simp only
        split
        · next hx =>
          simp only [rowAt_cons, memWrites_cons, memWrite_append]
          rw [hx, ← Nat.add_assoc]
        · rfl
    rw [hstep, ih]
    rfl

/-! ### What an output write changes beside the scratchpad's bytes -/

/-- Registers, contexts, and all of the tiles but tile t's contour unit and the errors of its words are as before. -/
def outKept (t : Nat) (s n : State) : Prop :=
  n.regs = s.regs ∧ n.ctxs = s.ctxs ∧ (∀ u, u ≠ t → tileOf n u = tileOf s u)
    ∧ { tileOf n t with contour := (tileOf s t).contour, eccBad := (tileOf s t).eccBad, wbPend := (tileOf s t).wbPend } = tileOf s t

/-- The tile's context keeps no statistics of tensors (R240). -/
def noTensors (s : State) (t : Nat) : Prop := ∀ c, tileCtx s t = some c → (ctxOf s c).tensors = none

/-- The same; and where no statistics are kept, HBM and the contour unit too. -/
def outDid (t : Nat) (s n : State) : Prop :=
  outKept t s n ∧ (noTensors s t → n.hbm = s.hbm ∧ (tileOf n t).contour = (tileOf s t).contour)

section

variable {t : Nat} {s m n : State}

theorem outKept_refl (t : Nat) (s : State) : outKept t s s := ⟨rfl, rfl, fun _ _ => rfl, rfl⟩

theorem outKept_trans (h : outKept t s m) (hn : outKept t m n) : outKept t s n := by
  obtain ⟨h1, h2, h3, h4⟩ := h
  obtain ⟨k1, k2, k3, k4⟩ := hn
  refine ⟨k1.trans h1, k2.trans h2, fun u hu => (k3 u hu).trans (h3 u hu), ?_⟩
  rw [← k4] at h4
  exact h4

theorem outKept_of_tiles (hr : n.regs = s.regs) (hc : n.ctxs = s.ctxs) (ht : n.tiles = s.tiles) : outKept t s n :=
  ⟨hr, hc, fun u _ => tileOf_eq_of_tiles ht u, by rw [tileOf_eq_of_tiles ht]⟩

theorem ctxOf_of_ctxs (h : n.ctxs = s.ctxs) (c : Nat) : ctxOf n c = ctxOf s c := by rw [ctxOf, ctxOf, h]

theorem tileCtx_of_kept (hr : n.regs = s.regs) (hc : n.ctxs = s.ctxs) : tileCtx n t = tileCtx s t := by
  have htiles : ∀ c, ctxTiles n c = ctxTiles s c := fun c => by
    unfold ctxTiles
    rw [regRaw_eq_of_regs hr, regRaw_eq_of_regs hr]
  simp only [tileCtx, ctxOf_of_ctxs hc, htiles]

theorem noTensors_of_kept (h : outKept t s n) : noTensors n t ↔ noTensors s t := by
  obtain ⟨hr, hc, -, -⟩ := h
  simp only [noTensors, tileCtx_of_kept hr hc, ctxOf_of_ctxs hc]

theorem outDid_refl (t : Nat) (s : State) : outDid t s s := ⟨outKept_refl t s, fun _ => ⟨rfl, rfl⟩⟩

theorem outDid_trans (h : outDid t s m) (hn : outDid t m n) : outDid t s n := by
  refine ⟨outKept_trans h.1 hn.1, fun hs => ?_⟩
  obtain ⟨h1, h2⟩ := h.2 hs
  obtain ⟨k1, k2⟩ := hn.2 ((noTensors_of_kept h.1).2 hs)
  exact ⟨k1.trans h1, k2.trans h2⟩

theorem outDid_ports (h : outDid t s n) : (tileOf n t).ports = (tileOf s t).ports := (congrArg Tile.ports h.1.2.2.2 :)

theorem maOf_outDid (h : outDid t s n) (b : Nat) : maOf n t b = maOf s t b := by
  have h0 : (tileOf n t).ma0 = (tileOf s t).ma0 := (congrArg Tile.ma0 h.1.2.2.2 :)
  have h1 : (tileOf n t).ma1 = (tileOf s t).ma1 := (congrArg Tile.ma1 h.1.2.2.2 :)
  rw [maOf, maOf, h0, h1]

/-! ### The contour unit (R243, R244) -/

/-- What counting a converted element changes: no byte of a scratchpad. -/
def counted (t : Nat) (s n : State) : Prop := outKept t s n ∧ n.spd = s.spd

theorem counted_refl (t : Nat) (s : State) : counted t s s := ⟨outKept_refl t s, rfl⟩

theorem counted_trans (h : counted t s m) (hn : counted t m n) : counted t s n := ⟨outKept_trans h.1 hn.1, hn.2.trans h.2⟩

theorem counted_of_onlyHbm (h : onlyHbm s n) : counted t s n := by
  obtain ⟨-, htiles, hctxs⟩ := onlyHbm_fields h
  exact ⟨outKept_of_tiles (congrArg State.regs h :) hctxs htiles, (congrArg State.spd h :)⟩

theorem counted_chargeWork (d p a k : Nat) (s : State) : counted t s (chargeWork d p a k s) := ⟨outKept_refl t s, rfl⟩

theorem counted_contourDenied (a : Nat) (s : State) : counted t s (contourDenied t a s) := by
  obtain ⟨x, hx⟩ := raise_eq (atAddr s a (tileFault s 5 6 0 t)) s
  rw [contourDenied, hx]
  exact ⟨outKept_refl t s, rfl⟩

theorem counted_contour (f : Tile → Contour) (s : State) : counted t s (modTile t (fun x => { x with contour := f x }) s) := by
  refine ⟨⟨rfl, rfl, fun u hu => tileOf_setTile_ne _ _ _ hu, ?_⟩, rfl⟩
  rw [modTile_eq, tileOf_setTile_self]

theorem hbmAdd_onlyHbm (bits a k : Nat) (s : State) : onlyHbm s (hbmAdd bits a k s) := hbmWrite_onlyHbm ..

theorem hist_onlyHbm (a : Nat) (l : Tab Nat) (s : State) : onlyHbm s (l.foldl (fun s p => hbmAdd 32 (a + 64 + 4 * p.1) p.2 s) s) := by
  induction l generalizing s with
  | nil => rfl
  | cons p l ih => exact onlyHbm_trans (hbmAdd_onlyHbm ..) (ih _)

theorem addRecord_onlyHbm (tk : TensorKept) (k i : Nat) (r : ContourRec) (s : State) : onlyHbm s (addRecord tk k i r s) :=
  onlyHbm_trans (hbmAdd_onlyHbm ..) <| onlyHbm_trans (hbmAdd_onlyHbm ..) <| onlyHbm_trans (hbmAdd_onlyHbm ..) <|
    onlyHbm_trans (hbmAdd_onlyHbm ..) <| onlyHbm_trans (hbmAdd_onlyHbm ..) <| onlyHbm_trans (hbmWrite_onlyHbm ..) <|
    onlyHbm_trans (hbmAdd_onlyHbm ..) <| onlyHbm_trans (hbmAdd_onlyHbm ..) (hist_onlyHbm ..)

theorem counted_contourEvict (i : Nat) (s : State) : counted t s (contourEvict t i s) := by
  unfold contourEvict
  split
  · exact counted_refl t s
  · split
    · dsimp only
      split
      · exact counted_contourDenied _ s
      · split
        · exact counted_refl t s
        · exact counted_trans (counted_chargeWork ..) (counted_trans (counted_of_onlyHbm (addRecord_onlyHbm ..)) (counted_contour _ _))
    · exact counted_refl t s

theorem counted_contourCount (i : Nat) (f : Int → ContourRec → ContourRec) (s : State) : counted t s (contourCount t i f s) := by
  unfold contourCount
  split
  · exact counted_refl t s
  · split
    · exact counted_refl t s
    · split
      · exact counted_contour _ s
      · dsimp only
        refine counted_trans ?_ (counted_contour _ _)
        split
        · split
          · exact counted_contourEvict _ s
          · exact counted_refl t s
        · exact counted_refl t s

theorem counted_contourOver (i k : Nat) (f : Int → ContourRec → ContourRec) (s : State) : counted t s (contourOver t i k f s) := by
  have hfree : counted t s (freeBits 1 s).2 := ⟨outKept_refl t s, rfl⟩
  unfold contourOver
  refine counted_trans hfree ?_
  generalize freeBits 1 s = x
  obtain ⟨b, m⟩ := x
  dsimp only
  split
  · exact counted_refl t m
  · split
    · exact counted_refl t m
    · split
      · exact counted_contourCount i f _
      · split
        · exact counted_of_onlyHbm (hbmAdd_onlyHbm ..)
        · exact counted_of_onlyHbm (addRecord_onlyHbm ..)

theorem counted_contourEvent (i : Nat) (across : Option Nat) (f : Int → ContourRec → ContourRec) (s : State) :
    counted t s (contourEvent t i across f s) := by
  cases across with
  | none => exact counted_contourCount i f s
  | some k => exact counted_contourOver i k f s

/-- Where the tile's context keeps no statistics an event counts nowhere (R240). -/
theorem contourCount_of_noTensors (h : noTensors s t) (i : Nat) (f : Int → ContourRec → ContourRec) : contourCount t i f s = s := by
  unfold contourCount
  cases hc : tileCtx s t with
  | none => rfl
  | some c => simp only [h c hc]

theorem contourEvent_of_noTensors (h : noTensors s t) (i : Nat) (across : Option Nat) (f : Int → ContourRec → ContourRec) :
    ∃ x, contourEvent t i across f s = { s with free := x } := by
  cases across with
  | none => exact ⟨s.free, contourCount_of_noTensors h i f⟩
  | some k =>
    have h' : noTensors (freeBits 1 s).2 t := h
    refine ⟨s.free + 1, show contourOver t i k f s = (freeBits 1 s).2 from ?_⟩
    unfold contourOver
    generalize freeBits 1 s = x at h'
    obtain ⟨b, m⟩ := x
    dsimp only
    cases hc : tileCtx m t with
    | none => rfl
    | some c => simp only [h' c hc]

theorem outDid_contourEvent (i : Nat) (across : Option Nat) (f : Int → ContourRec → ContourRec) (s : State) :
    outDid t s (contourEvent t i across f s) := by
  refine ⟨(counted_contourEvent i across f s).1, fun h => ?_⟩
  obtain ⟨x, hx⟩ := contourEvent_of_noTensors h i across f
  rw [hx]
  exact ⟨rfl, rfl⟩

/-- Reporting converted elements writes no byte of a scratchpad. -/
theorem contourElems_spec (i : Nat) (across : Option Nat) (l : List (Dyad × ConvEvents)) (s : State) :
    outDid t s (contourElems t i across l s) ∧ (contourElems t i across l s).spd = s.spd := by
  induction l generalizing s with
  | nil => exact ⟨outDid_refl t s, rfl⟩
  | cons p l ih =>
    obtain ⟨h1, h2⟩ := ih (contourEvent t i across (fun h r => recElem h p.1 p.2 r) s)
    exact ⟨outDid_trans (outDid_contourEvent ..) h1, h2.trans (counted_contourEvent ..).2⟩

/-! ### The write of a row -/

theorem outDid_spdWrite (o : Nat) (d : List Byte) (s : State) : outDid t s (spdWrite t o d s) := by
  obtain ⟨hrest, -⟩ := spdWrite_frame t o d s
  have htiles : (spdWrite t o d s).tiles = (setTile t (eccWritten o d.length (tileOf s t)) s).tiles := endReservations_tiles ..
  have hself : tileOf (spdWrite t o d s) t = eccWritten o d.length (tileOf s t) :=
    (tileOf_eq_of_tiles htiles t).trans (tileOf_setTile_self t _ s)
  refine ⟨⟨spdWrite_regs .., (congrArg State.ctxs hrest :), fun u hu => ?_, by rw [hself]; rfl⟩, fun _ => ⟨spdWrite_hbm .., by rw [hself]; rfl⟩⟩
  exact (tileOf_eq_of_tiles htiles u).trans (tileOf_setTile_ne t _ s hu)

/-- A row's runs, where no granted request waits, are written whole (R286). -/
theorem portStore_runs (p b w : Nat) (l : List (Nat × List Byte)) (hg : (tileOf s t).ports.got = []) :
    outDid t s (l.foldl (fun s q => portStore t p (b + q.1 * w) q.2 s) s)
      ∧ (l.foldl (fun s q => portStore t p (b + q.1 * w) q.2 s) s).spd = memWrites s.spd (rowAt (t * spdSize + b) w l) := by
  induction l generalizing s with
  | nil => exact ⟨outDid_refl t s, rfl⟩
  | cons q l ih =>
    have hw := outDid_spdWrite (t := t) (b + q.1 * w) q.2 s
    rw [List.foldl_cons, portStore_eq_spdWrite hg]
    obtain ⟨h1, h2⟩ := ih (s := spdWrite t (b + q.1 * w) q.2 s) (by rw [outDid_ports hw, hg])
    refine ⟨outDid_trans hw h1, h2.trans ?_⟩
    rw [spdWrite_spd, rowAt_cons, memWrites_cons, Nat.add_assoc]

end

/-! ### The output rows of a pass (R157) -/

/-- The bytes that a pass writes for its element in row m and column c. -/
def outElem (s : State) (t st d : Nat) (acc : Tab (BitVec 128)) (m c : Nat) : List Byte :=
  if dOutFmt d = 6 then toBytes 16 (tgetD 0#128 acc (passKey d st (m, c))).toNat
  else toBytes (outBytes (dOutFmt d))
    (outConvert (dOutFmt d) (dSat d) (outRnd s t d m c) (scaledValue d (tgetD 0#128 acc (passKey d st (m, c))))).1

/-- A row's elements that are not masked, each with its bytes. -/
def rowElems (s : State) (t st d : Nat) (acc : Tab (BitVec 128)) (m : Nat) : List (Nat × List Byte) :=
  (List.range (dCols d)).filterMap (fun c => if passMasked d st (m, c) then none else some (c, outElem s t st d acc m c))

theorem outElem_length (s : State) (t st d : Nat) (acc : Tab (BitVec 128)) (m c : Nat) :
    (outElem s t st d acc m c).length = outBytes (dOutFmt d) := by
  unfold outElem
  split
  · next h => rw [toBytes_length, h]; rfl
  · exact toBytes_length _ _

/-- A walk that gathers in its first part what g says of each element. -/
theorem foldl_gather {α β γ : Type} (g : α → Option β) (f : List β × γ → α → List β × γ)
    (hf : ∀ r x, (f r x).1 = r.1 ++ (g x).toList) (l : List α) (r : List β × γ) : (l.foldl f r).1 = r.1 ++ l.filterMap g := by
  induction l generalizing r with
  | nil => simp
  | cons x l ih =>
    rw [List.foldl_cons, ih, hf, List.append_assoc]
    cases hx : g x <;> simp [hx]

theorem outRow_elems (s : State) (t st d m : Nat) (acc : Tab (BitVec 128)) : (outRow s t st d m acc).1 = rowElems s t st d acc m := by
  refine (foldl_gather (fun c => if passMasked d st (m, c) then none else some (c, outElem s t st d acc m c)) _ (fun r c => ?_) _ _).trans
    (List.nil_append _)
  by_cases hm : passMasked d st (m, c) = true
  · have hm' : masked (dMaskKind d) (dMask d) m (dCol0 d st + c) = true := hm
    simp [hm, hm']
  · have hm' : ¬ masked (dMaskKind d) (dMask d) m (dCol0 d st + c) = true := hm
    by_cases h6 : dOutFmt d = 6
    · simp only [if_neg hm, if_neg hm', outElem, if_pos h6, Option.toList_some, passKey]
    · simp only [if_neg hm, if_neg hm', outElem, if_neg h6, Option.toList_some, passKey]

section

variable {t : Nat} {s n : State}

theorem outRnd_of_kept (hr : n.regs = s.regs) (hc : n.ctxs = s.ctxs) (d m c : Nat) : outRnd n t d m c = outRnd s t d m c := by
  simp only [outRnd, stepOf, tileCtx_of_kept hr hc, regRaw_eq_of_regs hr]

theorem rowElems_of_kept (hr : n.regs = s.regs) (hc : n.ctxs = s.ctxs) (st d : Nat) (acc : Tab (BitVec 128)) (m : Nat) :
    rowElems n t st d acc m = rowElems s t st d acc m := by
  simp only [rowElems, outElem, outRnd_of_kept hr hc]

/-- The pieces of scratchpad t that row m of a pass writes. -/
def outRowPieces (s : State) (t st d : Nat) (acc : Tab (BitVec 128)) (m : Nat) : List (Nat × List Byte) :=
  rowAt (t * spdSize + (dOutAddr d + m * dOutStride d)) (outBytes (dOutFmt d)) (rowElems s t st d acc m)

/-- The write of one output row, with its report. -/
def outWriteRow (t a st d : Nat) (acc : Tab (BitVec 128)) (across : Option Nat) (s : State) (m : Nat) : State :=
  contourElems t (dTensor d) across (outRow s t st d m acc).2
    ((joinRuns (outBytes (dOutFmt d)) (outRow s t st d m acc).1).foldl
      (fun s p => portStore t a (dOutAddr d + m * dOutStride d + p.1 * outBytes (dOutFmt d)) p.2 s) s)

theorem outWrite_eq (t a st d : Nat) (acc : Tab (BitVec 128)) (across : Option Nat) (s : State) :
    outWrite t a st d acc across s = (List.range (dM d)).foldl (outWriteRow t a st d acc across) s := rfl

theorem outWriteRow_spec (a st d : Nat) (acc : Tab (BitVec 128)) (across : Option Nat) (m : Nat) (hg : (tileOf s t).ports.got = []) :
    outDid t s (outWriteRow t a st d acc across s m)
      ∧ (outWriteRow t a st d acc across s m).spd = memWrites s.spd (outRowPieces s t st d acc m) := by
  obtain ⟨h1, h2⟩ := portStore_runs a (dOutAddr d + m * dOutStride d) (outBytes (dOutFmt d))
    (joinRuns (outBytes (dOutFmt d)) (outRow s t st d m acc).1) hg
  obtain ⟨k1, k2⟩ := contourElems_spec (t := t) (dTensor d) across (outRow s t st d m acc).2
    ((joinRuns (outBytes (dOutFmt d)) (outRow s t st d m acc).1).foldl
      (fun s p => portStore t a (dOutAddr d + m * dOutStride d + p.1 * outBytes (dOutFmt d)) p.2 s) s)
  refine ⟨outDid_trans h1 k1, (k2.trans h2).trans ?_⟩
  rw [memWrites_joinRuns, outRow_elems, outRowPieces]

theorem outRows_spec (a st d : Nat) (acc : Tab (BitVec 128)) (across : Option Nat) (rows : List Nat) (hg : (tileOf s t).ports.got = []) :
    outDid t s (rows.foldl (outWriteRow t a st d acc across) s)
      ∧ (rows.foldl (outWriteRow t a st d acc across) s).spd = memWrites s.spd (rows.flatMap (outRowPieces s t st d acc)) := by
  induction rows generalizing s with
  | nil => exact ⟨outDid_refl t s, rfl⟩
  | cons m rows ih =>
    obtain ⟨h1, h2⟩ := outWriteRow_spec a st d acc across m hg
    obtain ⟨k1, k2⟩ := ih (s := outWriteRow t a st d acc across s m) (by rw [outDid_ports h1, hg])
    refine ⟨outDid_trans h1 k1, k2.trans ?_⟩
    obtain ⟨hr, hc, -⟩ := h1.1
    have hsame : outRowPieces (outWriteRow t a st d acc across s m) t st d acc = outRowPieces s t st d acc :=
      funext fun i => by rw [outRowPieces, outRowPieces, rowElems_of_kept hr hc]
    rw [h2, hsame, List.flatMap_cons, memWrites_append]

/-- Every piece that a pass's output rows write. -/
def outPieces (s : State) (t st d : Nat) (acc : Tab (BitVec 128)) : List (Nat × List Byte) :=
  (List.range (dM d)).flatMap (outRowPieces s t st d acc)

/-- Address in the scratchpads of element (m, c) of the output. -/
def outAt (t d m c : Nat) : Nat := t * spdSize + (dOutAddr d + m * dOutStride d) + c * outBytes (dOutFmt d)

theorem mem_outPieces {st d : Nat} {acc : Tab (BitVec 128)} {q : Nat × List Byte} : q ∈ outPieces s t st d acc
    ↔ ∃ m c, m < dM d ∧ c < dCols d ∧ passMasked d st (m, c) = false ∧ q = (outAt t d m c, outElem s t st d acc m c) := by
  simp only [outPieces, outRowPieces, rowAt, rowElems, List.mem_flatMap, List.mem_map, List.mem_filterMap, List.mem_range]
  constructor
  · rintro ⟨m, hm, p, ⟨c, hc, hp⟩, rfl⟩
    by_cases hk : passMasked d st (m, c) = true
    · rw [if_pos hk] at hp
      cases hp
    · rw [if_neg hk] at hp
      cases hp
      exact ⟨m, c, hm, hc, by simpa using hk, rfl⟩
  · rintro ⟨m, c, hm, hc, hk, rfl⟩
    exact ⟨m, hm, _, ⟨c, hc, by rw [hk]; rfl⟩, rfl⟩

end

/-- The output write of a pass: its rows' pieces, in the order of the rows. -/
theorem outWrite_spec {t : Nat} {s : State} (a st d : Nat) (acc : Tab (BitVec 128)) (across : Option Nat) (hg : (tileOf s t).ports.got = []) :
    outDid t s (outWrite t a st d acc across s)
      ∧ (outWrite t a st d acc across s).spd = memWrites s.spd (outPieces s t st d acc) := by
  rw [outWrite_eq]
  exact outRows_spec a st d acc across _ hg

/-! ### Where the pieces lie -/

/-- A piece lies in its row's interval. -/
theorem outAt_row (t d m : Nat) {c : Nat} (hc : c < dCols d) : t * spdSize + (dOutAddr d + m * dOutStride d) ≤ outAt t d m c
    ∧ outAt t d m c + outBytes (dOutFmt d) ≤ t * spdSize + (dOutAddr d + m * dOutStride d) + dCols d * outBytes (dOutFmt d) := by
  have hle : c * outBytes (dOutFmt d) + outBytes (dOutFmt d) ≤ dCols d * outBytes (dOutFmt d) := by
    rw [← Nat.succ_mul]
    exact Nat.mul_le_mul_right _ hc
  unfold outAt
  omega

/-- Of two elements of different columns of a row the earlier one ends first. -/
theorem outAt_column (t d m : Nat) {c c' : Nat} (h : c < c') : outAt t d m c + outBytes (dOutFmt d) ≤ outAt t d m c' := by
  have hle : c * outBytes (dOutFmt d) + outBytes (dOutFmt d) ≤ c' * outBytes (dOutFmt d) := by
    rw [← Nat.succ_mul]
    exact Nat.mul_le_mul_right _ h
  unfold outAt
  omega

/-- Of two rows that a stride holds apart the earlier one ends first. -/
theorem outAt_rows {t d m m' c c' : Nat} (h : m < m') (hc : c < dCols d) (hs : dCols d * outBytes (dOutFmt d) ≤ dOutStride d) (hc' : c' < dCols d) :
    outAt t d m c + outBytes (dOutFmt d) ≤ outAt t d m' c' := by
  have hrow := (outAt_row t d m hc).2
  have hrow' := (outAt_row t d m' hc').1
  have hle : m * dOutStride d + dOutStride d ≤ m' * dOutStride d := by
    rw [← Nat.succ_mul]
    exact Nat.mul_le_mul_right _ h
  omega

/-- Elements of a pass's output are apart where it has one row or its stride holds the rows apart. -/
theorem outAt_apart {t d m m' c c' : Nat} (hm : m < dM d) (hm' : m' < dM d) (hc : c < dCols d) (hc' : c' < dCols d)
    (hs : dM d = 1 ∨ dCols d * outBytes (dOutFmt d) ≤ dOutStride d) (hne : ¬ (m' = m ∧ c' = c)) :
    outAt t d m' c' + outBytes (dOutFmt d) ≤ outAt t d m c ∨ outAt t d m c + outBytes (dOutFmt d) ≤ outAt t d m' c' := by
  rcases Nat.lt_trichotomy m' m with h | rfl | h
  · exact .inl (outAt_rows h hc' (hs.resolve_left (by omega)) hc)
  · rcases Nat.lt_trichotomy c' c with h | rfl | h
    · exact .inl (outAt_column t d m' h)
    · exact absurd ⟨rfl, rfl⟩ hne
    · exact .inr (outAt_column t d m' h)
  · exact .inr (outAt_rows h hc (hs.resolve_left (by omega)) hc')

section

variable {t st d : Nat} {s : State} {acc : Tab (BitVec 128)}

/-- A byte beside every output row is no piece's. -/
theorem outPieces_beside {m : Tab Byte} {j : Nat} (hb : bit (dAct d) 1 = true)
    (hj : ∀ q ∈ outIntervals d, j < t * spdSize + q.1 ∨ t * spdSize + q.1 + q.2 ≤ j) : memByte (memWrites m (outPieces s t st d acc)) j = memByte m j := by
  refine memByte_memWrites_out _ _ _ fun q hq => ?_
  obtain ⟨i, c, hi, hc, -, rfl⟩ := mem_outPieces.1 hq
  have hrow := hj (dOutAddr d + i * dOutStride d, dCols d * outBytes (dOutFmt d))
    (by rw [outIntervals, if_pos hb]; exact List.mem_map.2 ⟨i, List.mem_range.2 hi, rfl⟩)
  obtain ⟨h1, h2⟩ := outAt_row t d i hc
  rw [outElem_length]
  omega

/-- Each unmasked element reads back as the pass wrote it. -/
theorem outPieces_read {m c : Nat} (x : Tab Byte) (hm : m < dM d) (hc : c < dCols d) (hs : dM d = 1 ∨ dCols d * outBytes (dOutFmt d) ≤ dOutStride d)
    (hk : passMasked d st (m, c) = false) :
    memRead (memWrites x (outPieces s t st d acc)) (outAt t d m c) (outBytes (dOutFmt d)) = outElem s t st d acc m c := by
  have hread := memRead_memWrites (p := (outAt t d m c, outElem s t st d acc m c)) (outPieces s t st d acc) x
    (mem_outPieces.2 ⟨m, c, hm, hc, hk, rfl⟩) fun q hq => ?_
  · rwa [outElem_length] at hread
  · obtain ⟨m', c', hm', hc', -, rfl⟩ := mem_outPieces.1 hq
    by_cases he : m' = m ∧ c' = c
    · obtain ⟨rfl, rfl⟩ := he
      exact .inl rfl
    · refine .inr ?_
      simp only [outElem_length]
      exact outAt_apart hm hm' hc hc' hs he

/-- Each unmasked element as it reads in the scratchpad, but for a WIDE output (R157). -/
theorem spdRead_output {n : State} {m c : Nat} (hn : n.spd = memWrites s.spd (outPieces s t st d acc)) (hm : m < dM d) (hc : c < dCols d)
    (hs : dM d = 1 ∨ dCols d * outBytes (dOutFmt d) ≤ dOutStride d) (h6 : dOutFmt d ≠ 6)
    (hk : masked (dMaskKind d) (dMask d) m (dCol0 d st + c) = false) :
    spdRead n t (dOutAddr d + m * dOutStride d + c * outBytes (dOutFmt d)) (outBytes (dOutFmt d))
      = toBytes (outBytes (dOutFmt d)) (outConvert (dOutFmt d) (dSat d) (outRnd s t d m c)
          (scaledValue d (tgetD 0#128 acc (accKey (dAcc d) m (dCol0 d st + c))))).1 := by
  have hread := outPieces_read (t := t) (st := st) (s := s) (acc := acc) s.spd hm hc hs hk
  rw [← hn, outElem, if_neg h6, outAt, Nat.add_assoc] at hread
  exact hread

end

/-! ### The array as a pass completes (R135, R158) -/

/-- A stream whose oldest pass has left the array. -/
def streamCompleted (x : Stream) : Stream := { x with inArray := x.inArray.drop 1, count := x.count + 1 }

/-- The array with the FTQ entry of pass p, whose buffers it holds. -/
def ftqPushed (a st : Nat) (p : Pass) (m : MArray) : MArray :=
  { m with ftq := m.ftq ++ [{ bits := ftqBits a st p, stream := st, poppable := false }], reserved := m.reserved - 1,
           held := (targetBufs (dAcc p.desc.toNat) (dM p.desc.toNat)).foldl (fun h b => sinsert b h) m.held }

/-- The array once pass p of stream st has completed. -/
def passCompleted (a st : Nat) (p : Pass) (m : MArray) : MArray :=
  if bit (dAct p.desc.toNat) 0 then ftqPushed a st p (modStr st streamCompleted m) else modStr st streamCompleted m

theorem modStr_queues (i : Nat) (f : Stream → Stream) (m : MArray) :
    (modStr i f m).ftq = m.ftq ∧ (modStr i f m).reserved = m.reserved ∧ (modStr i f m).held = m.held := by
  unfold modStr setStr
  split <;> exact ⟨rfl, rfl, rfl⟩

theorem passCompleted_fields (a st : Nat) (p : Pass) (m : MArray) : strOf (passCompleted a st p m) st = streamCompleted (strOf m st)
    ∧ (passCompleted a st p m).acc = m.acc
    ∧ (bit (dAct p.desc.toNat) 0 = true → (passCompleted a st p m).ftq = m.ftq ++ [{ bits := ftqBits a st p, stream := st, poppable := false }]) := by
  unfold passCompleted
  split
  · refine ⟨strOf_modStr_self st _ m, modStr_acc st _ m, fun _ => ?_⟩
    rw [ftqPushed, (modStr_queues st streamCompleted m).1]
  · next h => exact ⟨strOf_modStr_self st _ m, modStr_acc st _ m, fun hb => absurd hb h⟩

section

variable {s : State} {t a st : Nat} {p : Pass} {rest : List Pass} (hin : (strOf (maOf s t a) st).inArray = p :: rest) (hr : p.reader = none)

include hin

theorem streamCompleted_rest : streamCompleted (strOf (maOf s t a) st)
    = { strOf (maOf s t a) st with inArray := rest, count := (strOf (maOf s t a) st).count + 1 } := by
  rw [streamCompleted, hin, List.drop_one, List.tail_cons]

include hr

/-- A pass that holds no version's reader completes: its output write, where it has one, and then the array's change. -/
theorem passComplete_eq : passComplete t a st false s = modMa t a (passCompleted a st p)
    (if bit (dAct p.desc.toNat) 1 then outWrite t a st p.desc.toNat p.acc p.across s else s) := by
  simp only [passComplete, hin, hr, Bool.false_and, Bool.false_eq_true, if_false]
  rfl

theorem passComplete_quiet (ha : a < 2) (hb : bit (dAct p.desc.toNat) 1 = false) : maDid t a (passCompleted a st p) s (passComplete t a st false s) := by
  rw [passComplete_eq hin hr, hb, if_neg Bool.false_ne_true]
  exact maDid_modMa ha _ s

/-- What the completion of a pass that writes its output changes. -/
theorem passComplete_writes (ha : a < 2) (hg : (tileOf s t).ports.got = []) (hb : bit (dAct p.desc.toNat) 1 = true) :
    ∃ m, outDid t s m ∧ m.spd = memWrites s.spd (outPieces s t st p.desc.toNat p.acc)
      ∧ maDid t a (passCompleted a st p) m (passComplete t a st false s) := by
  obtain ⟨h1, h2⟩ := outWrite_spec a st p.desc.toNat p.acc p.across hg
  refine ⟨_, h1, h2, ?_⟩
  rw [passComplete_eq hin hr, if_pos hb]
  exact maDid_modMa ha _ _

end

/-! ### The statement -/

/-- Settles O28: a pass enters as the swap and one change of each element that it targets, whose keys are apart; it completes as the writes of
its rows' pieces, which lie apart in the rows' intervals, and the array's own change. -/
theorem arrayPasses : Obligations.ArrayPasses := by
  refine ⟨fun s t a st op i p rest hi hl ht ha hst hquiet _ hd hop hm hb hu => ?_, fun s t a st p rest hl ht ha hst hin hr hg =>
    ⟨fun hb1 hb0 => ?_, fun hb1 hb0 => ?_, fun hb1 _ => ?_⟩⟩
  · subst hop
    refine ⟨_, passResult (portView t a s) t p.desc.toNat st (enterPass st p (maOf s t a)), _, ?_, rfl, passEnter_spec hd hm hb hu ha hst hquiet,
      fun m c x hm hc hx => ?_, fun k hk => ?_⟩
    · rw [exec_passRow s hi]
      exact act_array hl ht ha hst _
    · have hin := passResult_in (v := portView t a s) (t := t) hst rfl hx hm hc
      rw [enterPass_acc] at hin
      exact hin
    · rw [passResult_out hk, enterPass_acc]
  · refine ⟨_, act_array hl ht ha hst _, maDid_congr (passComplete_quiet hin hr ha hb1) ?_⟩
    rw [passCompleted, hb0, if_neg Bool.false_ne_true]
    exact modStr_congr (streamCompleted_rest hin).symm
  · refine ⟨_, act_array hl ht ha hst _, maDid_congr (passComplete_quiet hin hr ha hb1) ?_⟩
    rw [passCompleted, if_pos hb0]
    have hstr : modStr st streamCompleted (maOf s t a) = modStr st (fun x => { x with inArray := rest, count := x.count + 1 }) (maOf s t a) :=
      modStr_congr (streamCompleted_rest hin)
    obtain ⟨hftq, hres, hheld⟩ := modStr_queues st streamCompleted (maOf s t a)
    rw [ftqPushed, hftq, hres, hheld, hstr]
  · obtain ⟨m, hout, hspd, hrest, hself, hother, htile, hothers⟩ := passComplete_writes hin hr ha hg hb1
    obtain ⟨hstr, hacc, hftq⟩ := passCompleted_fields a st p (maOf s t a)
    have hma := maOf_outDid hout
    obtain ⟨⟨hregs, hctxs, htiles, hkept⟩, hnone⟩ := hout
    rw [hma] at hself hother
    rw [← hself] at hstr hacc hftq
    rw [streamCompleted_rest hin] at hstr
    have hspd' : (passComplete t a st false s).spd = memWrites s.spd (outPieces s t st p.desc.toNat p.acc) :=
      (congrArg State.spd hrest : _).trans hspd
    refine ⟨_, act_array hl ht ha hst _, (congrArg Stream.inArray hstr :), (congrArg Stream.count hstr :), hacc, hother, ?_, ?_, hftq,
      (congrArg State.regs hrest : _).trans hregs, fun u hu => (hothers u hu).trans (htiles u hu), fun hno => ⟨?_, ?_⟩, fun j hj => ?_,
      fun m c hm hc hs h6 hk => ?_⟩
    · exact (congrArg Tile.vxe htile : _).trans (congrArg Tile.vxe hkept :)
    · exact (congrArg Tile.cpy htile : _).trans (congrArg Tile.cpy hkept :)
    · exact (congrArg State.hbm hrest : _).trans (hnone hno).1
    · exact (congrArg Tile.contour htile : _).trans (hnone hno).2
    · rw [hspd']
      exact outPieces_beside hb1 hj
    · exact spdRead_output hspd' hm hc hs h6 hk

end Sys2Proof.Machine
end

section
/-!
PROOFS. The vector engine (chapter 6): what becomes of one engine, its row where the instruction is done, waits or stops, and its runs.
-/

namespace Sys2Proof.Machine

/-! ### One engine of the module -/

/-- n is s with the engine of tile t changed by g, and nothing else. -/
def engineDid (t : Nat) (g : Vxe → Vxe) (s n : State) : Prop := onlyTile t s n ∧ tileOf n t = { tileOf s t with vxe := g (vxeOf s t) }

section

variable {t : Nat} {s m n : State} {f g : Vxe → Vxe}

theorem onlyTile_refl (t : Nat) (s : State) : onlyTile t s s := ⟨rfl, fun _ _ => rfl⟩

theorem onlyTile_trans (hm : onlyTile t s m) (hn : onlyTile t m n) : onlyTile t s n := by
  obtain ⟨h1, h2⟩ := hm
  obtain ⟨k1, k2⟩ := hn
  refine ⟨?_, fun u hu => (k2 u hu).trans (h2 u hu)⟩
  rw [← k1] at h1
  exact h1

theorem onlyTile_setTile (t : Nat) (x : Tile) (s : State) : onlyTile t s (setTile t x s) := ⟨rfl, fun _ hu => tileOf_setTile_ne t x s hu⟩

theorem onlyTile_modMa (t a : Nat) (f : MArray → MArray) (s : State) : onlyTile t s (modMa t a f s) := onlyTile_setTile t _ s

theorem onlyTile_portTake (t p o k : Nat) (s : State) : onlyTile t s (portTake t p o k s) := by
  obtain ⟨x, hx⟩ := portTake_eq t p o k s
  exact ⟨by rw [hx], fun u hu => tileOf_portTake_ne s hu⟩

theorem engineDid_modVxe (t : Nat) (g : Vxe → Vxe) (s : State) : engineDid t g s (modVxe t g s) := ⟨onlyTile_setTile t _ s, tileOf_modVxe_self t g s⟩

theorem vxeOf_engineDid (he : engineDid t g s n) : vxeOf n t = g (vxeOf s t) := congrArg Tile.vxe he.2

theorem maOf_engineDid (he : engineDid t g s n) (a : Nat) : maOf n t a = maOf s t a := by rw [maOf, maOf, he.2]

/-- Two changes of one engine are one. -/
theorem engineDid_trans (hm : engineDid t f s m) (hn : engineDid t g m n) : engineDid t (fun v => g (f v)) s n := by
  refine ⟨onlyTile_trans hm.1 hn.1, ?_⟩
  rw [hn.2, vxeOf_engineDid hm, hm.2]

end

/-! ### The row of an instruction (R199–R203, R229) -/

section

variable {t op i : Nat} {s s' n : State} {f : Nat → State → VRes} {g : Vxe → Vxe}

/-- An instruction that is done and changed nothing but the engine, whatever it wrote there. -/
theorem vxeRow_engine (h : vxeRuns s t op) (hf : f (vxeWord s t) s = .done s') (he : engineDid t g s s')
    (hi : (g (vxeOf s t)).index = (vxeOf s t).index) (hm : (g (vxeOf s t)).mc = (vxeOf s t).mc) :
    ∃ n, act (tileOk t) s (vxeRow op t false f) = .next n ∧ vxeDid t g s n := by
  have hx := vxeOf_engineDid he
  exact ⟨_, vxeRow_done h hf (by rw [hx, hi]) (by rw [hx, hm]), (engineDid_trans he (engineDid_modVxe t stepped s') :)⟩

/-- At an instruction of a legal opcode the engine goes on (log entry 19). -/
theorem vxeAt_of_legal (hl : (vUses (vOpc (tgetD (0 : Word) (vxeOf s t).mc i).toNat)).isSome = true) :
    vxeAt t i s = modVxe t (fun v => { v with index := i, waiting := false }) s := by
  have hw : vxeWord (modVxe t (fun v => { v with index := i, waiting := false }) s) t = (tgetD (0 : Word) (vxeOf s t).mc i).toNat := by
    rw [vxeWord, vxeOf_modVxe_self]
  obtain ⟨u, hu⟩ := Option.isSome_iff_exists.1 hl
  simp only [vxeAt, hw, hu, Option.isNone_some, Bool.false_eq_true, if_false]

theorem act_tile (hl : live s = true) (ht : t < 128) (f : State → State) : act (tileOk t) s f = .next (f s) := act_live hl (tileOk_of ht)

/-- An instruction that stops the engine at no address of the scratchpad. -/
theorem vxeRow_stop {e : VStop} (h : vxeRuns s t op) (hf : f (vxeWord s t) s = .stop e) (ha : e.addr = none) :
    act (tileOk t) s (vxeRow op t false f) = .next (vxeStop t e s) := by
  obtain ⟨hl, ht, hr, hlegal, -, -⟩ := h
  rw [act_tile hl ht, vxeRow]
  simp only [hr, hlegal, hf, if_true, Bool.false_eq_true, Bool.not_true, if_false, vxeMet, ha]

/-- An instruction that waits. -/
theorem vxeRow_wait (h : vxeRuns s t op) (hf : f (vxeWord s t) s = .wait s') :
    act (tileOk t) s (vxeRow op t false f) = .next (modVxe t (fun v => { v with waiting := true }) s') := by
  obtain ⟨hl, ht, hr, hlegal, -, -⟩ := h
  rw [act_tile hl ht, vxeRow]
  simp only [hr, hlegal, hf, if_true, Bool.false_eq_true, Bool.not_true, if_false]

/-- An instruction that comes with an error of the store, or that is not legal, stops the engine (R203). -/
theorem vxeRow_refused (hl : live s = true) (ht : t < 128) (hr : vxeReady s t op = true) {ue : Bool} (h : ue = true ∨ vLegal (vxeWord s t) = false) :
    act (tileOk t) s (vxeRow op t ue f) = .next (vxeStop t (if ue then ⟨5, 3, 3, none⟩ else vprog 1) s) := by
  rw [act_tile hl ht, vxeRow]
  cases ue with
  | true => simp only [hr, if_true]
  | false =>
    have hlegal := h.resolve_left Bool.false_ne_true
    simp only [hr, hlegal, if_true, Bool.false_eq_true, Bool.not_false, if_false]

/-- The engine of tile t stopped with a code: VXE_STOP holds it with the iteration and the index, and every register of the engine stays. -/
def vxeStopped (t code : Nat) (s n : State) : Prop :=
  vxeOf n t = { vxeOf s t with stopped := true, waiting := false }
    ∧ regRaw n (aTile t 4 8) = (((vxeOf s t).iter % 65536) <<< 48 + code <<< 28 + (vxeOf s t).index % 8192) % 2 ^ 64
    ∧ (∀ a, maOf n t a = maOf s t a) ∧ (∀ u, u ≠ t → tileOf n u = tileOf s u) ∧ (∀ a, a ≠ aTile t 4 8 → regRaw n a = regRaw s a)
    ∧ n.spd = s.spd ∧ n.hbm = s.hbm

theorem vxeStop_stopped {e : VStop} (he : ¬ (e.cls = 3 ∧ e.cd = 2)) : vxeStopped t e.code s (vxeStop t e s) := by
  have hv := engineDid_modVxe t (fun v => { v with stopped := true, waiting := false }) s
  simp only [vxeStop, if_neg he]
  refine ⟨?_, ?_, fun a => ?_, fun u hu => ?_, fun a ha => ?_, ?_, ?_⟩
  · rw [vxeOf, tileOf_raise, tileOf_regPut]
    exact vxeOf_engineDid hv
  · rw [regRaw_raise, regRaw_regPut_self]
  · rw [maOf, tileOf_raise, tileOf_regPut]
    exact maOf_engineDid hv a
  · rw [tileOf_raise, tileOf_regPut]
    exact hv.1.2 u hu
  · rw [regRaw_raise, regRaw_regPut_ne _ _ _ ha]
    rfl
  · rw [raise_spd, regPut_spd]
    rfl
  · rw [raise_hbm, regPut_hbm]
    rfl

end

/-! ### Runs (R200–R202) -/

/-- A table after its entries below n are set one after another. -/
theorem tgetD_foldl_range {α : Type} [DecidableEq α] (d : α) (f : Nat → α) (l : Tab α) (n j : Nat) :
    tgetD d ((List.range n).foldl (fun l i => tset d l i (f i)) l) j = if j < n then f j else tgetD d l j := by
  induction n with
  | zero => rfl
  | succ n ih =>
    rw [List.range_succ, List.foldl_append, List.foldl_cons, List.foldl_nil, tgetD_tset, ih]
    rcases Nat.lt_trichotomy j n with h | rfl | h
    · rw [if_neg (Nat.ne_of_lt h), if_pos h, if_pos (Nat.lt_succ_of_lt h)]
    · rw [if_pos rfl, if_pos (Nat.lt_succ_self j)]
    · rw [if_neg (Nat.ne_of_gt h), if_neg (Nat.lt_asymm h), if_neg (Nat.not_lt.2 h)]

/-- The engine at the start of run r, with the registers of its argument block. -/
def runStarted (r : VRun) (v : Vxe) : Vxe :=
  { v with
    begun := true, iter := 0, index := r.start, waiting := false
    ar := (List.range 6).foldl (fun l i => tset 0 l i (BitVec.ofNat 24 (fld r.arg.toNat (64 * i + 23) (64 * i)))) []
    eix := BitVec.ofNat 40 (fld r.arg.toNat 423 384) }

section

variable {t : Nat} {s : State} {r : VRun} {rest : List VRun} (hr : (vxeOf s t).runs = r :: rest)

include hr

theorem runBegin_starts (hs : (vxeOf s t).stopped = false) (hb : (vxeOf s t).begun = false) (hu : r.argUe = none) (ha : argBad r.arg.toNat = false)
    (hl : (vUses (vOpc (tgetD (0 : Word) (vxeOf s t).mc r.start).toNat)).isSome = true) : engineDid t (runStarted r) s (runBegin t s) := by
  simp only [runBegin, hr, hs, hb, hu, ha, Bool.or_self, Bool.false_eq_true, if_false, Option.isSome_none]
  rw [vxeAt_of_legal (by simp only [vxeOf_modVxe_self]; exact hl)]
  exact (engineDid_trans (engineDid_trans (engineDid_modVxe ..) (engineDid_modVxe ..)) (engineDid_modVxe ..) :)

theorem endIteration_next (h1 : vxeReady s t 1 = true) (h2 : vLegal (vxeWord s t) = true) (hi : (vxeOf s t).iter < r.iterM1)
    (hl : (vUses (vOpc (tgetD (0 : Word) (vxeOf s t).mc r.start).toNat)).isSome = true) :
    engineDid t (fun v => { nextIteration r.arg.toNat v with index := r.start, waiting := false }) s (endIteration t false s) := by
  simp only [endIteration, h1, h2, hr, hi, if_true, Bool.not_true, Bool.false_eq_true, if_false]
  rw [vxeAt_of_legal (by rw [vxeOf_modVxe_self]; exact hl)]
  exact (engineDid_trans (engineDid_modVxe ..) (engineDid_modVxe ..) :)

theorem endIteration_last (h1 : vxeReady s t 1 = true) (h2 : vLegal (vxeWord s t) = true) (hi : r.iterM1 ≤ (vxeOf s t).iter) :
    endIteration t false s = modVxe t (fun v => { v with runs := rest, begun := false, count := v.count + 1 }) s := by
  simp only [endIteration, h1, h2, hr, Nat.not_lt.2 hi, if_true, Bool.not_true, Bool.false_eq_true, if_false]

end

/-- The address registers at a run's start. -/
theorem arOf_runStarted {n : State} {t : Nat} {r : VRun} {v : Vxe} (h : vxeOf n t = runStarted r v) {i : Nat} (hi : i < 6) :
    arOf n t i = fld r.arg.toNat (64 * i + 23) (64 * i) := by
  have hlt : fld r.arg.toNat (64 * i + 23) (64 * i) < 2 ^ 24 := by
    simpa [show 64 * i + 23 + 1 - 64 * i = 24 by omega] using fld_lt r.arg.toNat (64 * i + 23) (64 * i)
  rw [arOf, if_pos hi, h, runStarted, tgetD_foldl_range, if_pos hi, BitVec.toNat_ofNat, Nat.mod_eq_of_lt hlt]

/-- Settles O10: each command is one change of the engine, `runStarted`, `nextIteration` or the run's end. -/
theorem vxeRuns_carryToCount : Obligations.VxeRuns := by
  unfold Obligations.VxeRuns
  refine ⟨fun s t r rest hl ht hs hb hr hu ha ho => ?_, fun s t h => ?_, fun s t r rest hl ht h1 h2 hr => ⟨fun hi ho => ?_, fun hi => ?_⟩⟩
  · have hd := runBegin_starts hr hs hb hu ha ho
    have hv := vxeOf_engineDid hd
    refine ⟨_, act_tile hl ht _, hd.1, by rw [hd.2]; rfl, ?_, by rw [hv]; rfl, by rw [hv]; rfl, by rw [hv]; rfl, by rw [hv]; rfl, ?_,
      fun i hi => arOf_runStarted hv hi⟩
    · rw [hv, runStarted, ← hb]
    · rw [hv, runStarted, BitVec.toNat_ofNat, Nat.mod_eq_of_lt (fld_lt r.arg.toNat 423 384)]
  · exact vxeRow_engine (f := fun _ s => .done s) h rfl (g := id) ⟨onlyTile_refl t s, rfl⟩ rfl rfl
  · have hd := endIteration_next hr h1 h2 hi ho
    have hv := vxeOf_engineDid hd
    refine ⟨_, act_tile hl ht _, hd.1, hd.2, by rw [hv]; rfl, by rw [hv]; rfl, fun i hi => ?_⟩
    rw [hv, nextIteration, tgetD_foldl_range, if_pos hi]
  · have hd := engineDid_modVxe t (fun v => { v with runs := rest, begun := false, count := v.count + 1 }) s
    rw [← endIteration_last hr h1 h2 hi] at hd
    exact ⟨_, act_tile hl ht _, hd⟩

end Sys2Proof.Machine
end

section
/-!
PROOFS. The vector engine (chapter 6): what its lane, conversion, reduction and softmax instructions write.
-/

namespace Sys2Proof.Machine

/-! ### Element, select, compare and mask operations (R206) -/

/-- The row of each element operation. -/
theorem exec_elemRow {t op : Nat} {i : Instr} (s : State)
    (h : (op, i) ∈ [(0x10, Instr.vadd t false), (0x11, Instr.vsub t false), (0x12, Instr.vmul t false), (0x13, Instr.vfma t false),
      (0x14, Instr.vmax t false), (0x15, Instr.vmin t false), (0x16, Instr.vabs t false), (0x17, Instr.vneg t false), (0x18, Instr.vdiv t false)]) :
    exec i s = act (tileOk t) s (vxeRow op t false (opElem op t)) := by
  simp only [List.mem_cons, Prod.mk.injEq, List.not_mem_nil, or_false] at h
  rcases h with ⟨rfl, rfl⟩ | ⟨rfl, rfl⟩ | ⟨rfl, rfl⟩ | ⟨rfl, rfl⟩ | ⟨rfl, rfl⟩ | ⟨rfl, rfl⟩ | ⟨rfl, rfl⟩ | ⟨rfl, rfl⟩ | ⟨rfl, rfl⟩ <;> rfl

theorem getD_map_range {α : Type} (f : Nat → α) {n i : Nat} (hi : i < n) (d : α) : ((List.range n).map f).getD i d = f i := by
  rw [List.getD_eq_getElem _ _ (by simpa using hi), List.getElem_map, List.getElem_range]

/-- A lane of 128 joined ones. -/
theorem laneOf_joinRange (f : Nat → Nat) {l : Nat} (hl : l < 128) : laneOf (joinLanes 32 ((List.range 128).map f)) l = f l % 2 ^ 32 := by
  rw [laneOf_joinLanes, getD_map_range f hl]

theorem laneOf_viotaOp (a : Nat) {l : Nat} (hl : l < 128) : laneOf (viotaOp a) l = (laneOf a 0 + l) % 2 ^ 32 :=
  laneOf_joinRange (fun l => a % 2 ^ 32 + l) hl

theorem laneOf_mapLanes (f : Nat → Nat → Nat) (a : Nat) {l : Nat} (hl : l < 128) : laneOf (mapLanes f a) l = f l (laneOf a l) % 2 ^ 32 :=
  laneOf_joinRange (fun l => f l (laneOf a l)) hl

/-- Settles O12: each operation is the write of its one destination. -/
theorem vxeElement : Obligations.VxeElement := by
  unfold Obligations.VxeElement
  refine ⟨fun s t op i hi h => ?_, fun s t => ⟨fun h => ?_, fun h => ?_, fun h => ?_, fun h => ?_, fun a l hl => laneOf_viotaOp a hl⟩⟩
  · rw [exec_elemRow s hi]
    exact vxeRow_vreg h rfl
  · exact vxeRow_vreg (f := opSel t) h rfl
  · exact vxeRow_vreg (f := opIota t) h rfl
  · exact vxeRow_mreg (f := opCmp t) h rfl
  · exact vxeRow_mreg (f := opMop t) h rfl

/-! ### Several vector registers (R214, R227) -/

section

variable {t : Nat} {s : State}

theorem engineDid_refl (t : Nat) (s : State) : engineDid t id s s := ⟨onlyTile_refl t s, rfl⟩

theorem engineDid_setVreg (t d v : Nat) (s : State) : engineDid t (withVreg d v) s (setVreg t d v s) := engineDid_modVxe t (withVreg d v) s

theorem vreg_setVreg_ne (v : Nat) (s : State) {d j : Nat} (h : j ≠ d) : vreg (setVreg t d v s) t j = vreg s t j := by
  rw [vreg, vreg, vxeOf_engineDid (engineDid_setVreg t d v s), withVreg, tgetD_tset_ne _ _ _ _ h]

/-- An engine with results (value, place) in its registers from vVd w on, merged under the predicate with what they held in s. -/
def vregsPut (s : State) (t w : Nat) (l : List (Nat × Nat)) (x : Vxe) : Vxe :=
  l.foldl (fun x p => withVreg (vVd w + p.2) (mergeLanes (vreg s t (vVd w + p.2)) p.1 (vEn s t w)) x) x

theorem vregsPut_cons (w : Nat) (p : Nat × Nat) (l : List (Nat × Nat)) (x : Vxe) : vregsPut s t w (p :: l) x
    = vregsPut s t w l (withVreg (vVd w + p.2) (mergeLanes (vreg s t (vVd w + p.2)) p.1 (vEn s t w)) x) := List.foldl_cons ..

theorem vregsPut_keeps (w : Nat) (l : List (Nat × Nat)) (x : Vxe) :
    (vregsPut s t w l x).index = x.index ∧ (vregsPut s t w l x).mc = x.mc := by
  induction l generalizing x with
  | nil => exact ⟨rfl, rfl⟩
  | cons p l ih =>
    obtain ⟨hi, hm⟩ := ih (withVreg (vVd w + p.2) (mergeLanes (vreg s t (vVd w + p.2)) p.1 (vEn s t w)) x)
    rw [vregsPut_cons]
    exact ⟨hi.trans (withVreg_index ..), hm.trans (withVreg_mc ..)⟩

/-- Registers written one after another, where no place comes twice, take each its own result. -/
theorem foldl_setVreg (w : Nat) (l : List (Nat × Nat)) (m : State) (hd : (l.map Prod.snd).Nodup)
    (hm : ∀ p ∈ l, vreg m t (vVd w + p.2) = vreg s t (vVd w + p.2)) :
    engineDid t (vregsPut s t w l) m
      (l.foldl (fun m p => setVreg t (vVd w + p.2) (mergeLanes (vreg m t (vVd w + p.2)) p.1 (vEn s t w)) m) m) := by
  induction l generalizing m with
  | nil => exact engineDid_refl t m
  | cons p l ih =>
    rw [List.map_cons, List.nodup_cons] at hd
    obtain ⟨hp, hl⟩ := hd
    rw [List.foldl_cons, hm p List.mem_cons_self]
    have hrest := ih (setVreg t (vVd w + p.2) (mergeLanes (vreg s t (vVd w + p.2)) p.1 (vEn s t w)) m) hl fun q hq => by
      have hne : q.2 ≠ p.2 := fun he => hp (he ▸ List.mem_map_of_mem hq)
      rw [vreg_setVreg_ne _ _ (by omega), hm q (List.mem_cons_of_mem p hq)]
    rw [show vregsPut s t w (p :: l) = _ from funext fun x => vregsPut_cons w p l x]
    exact engineDid_trans (engineDid_setVreg t _ _ m) hrest

theorem putVs_did (t w : Nat) (vs : List Nat) (s : State) : engineDid t (vregsPut s t w (vs.zip (List.range vs.length))) s (putVs t w vs s) := by
  refine foldl_setVreg w _ s ?_ fun _ _ => rfl
  rw [List.map_snd_zip (by simp)]
  exact List.nodup_range

end

/-! ### Conversions (R214, R215) -/

section

variable {t w : Nat} {s : State}

theorem vxeOf_outDid {m n : State} (h : outDid t m n) : vxeOf n t = vxeOf m t := (congrArg Tile.vxe h.1.2.2.2 :)

/-- Converted elements reported, or not. -/
theorem report_spec (b : Bool) (i : Nat) (across : Option Nat) (l : List (Dyad × ConvEvents)) (m : State) :
    outDid t m (if b then contourElems t i across l m else m) ∧ (if b then contourElems t i across l m else m).spd = m.spd := by
  cases b with
  | true => exact contourElems_spec ..
  | false => exact ⟨outDid_refl t m, rfl⟩

/-- A conversion is done with its results written, and beside them with nothing but a report where one is asked for. -/
theorem opCvt_done (t w : Nat) (s : State) : ∃ m, opCvt t w s = .done m
    ∧ (outDid t (putVs t w (cvtResults s t w) s) m ∧ m.spd = (putVs t w (cvtResults s t w) s).spd)
    ∧ (bit (vMode w) 2 = false → m = putVs t w (cvtResults s t w) s) := by
  unfold opCvt cvtResults
  by_cases hx : cvtMx (vFn w) = true
  · simp only [hx, if_true]
    exact ⟨_, rfl, report_spec .., fun h => by rw [h]; rfl⟩
  · by_cases hn : cvtNarrow (vFn w) = true
    · simp only [hx, hn, if_true, Bool.false_eq_true, if_false]
      exact ⟨_, rfl, report_spec .., fun h => by rw [h]; rfl⟩
    · simp only [hx, hn, Bool.false_eq_true, if_false]
      exact ⟨_, rfl, ⟨outDid_refl t _, rfl⟩, fun _ => rfl⟩

end

/-- Settles O13: a conversion writes its results and at most reports them; NLU and VDER write their one destination. -/
theorem vxeConvert : Obligations.VxeConvert := by
  unfold Obligations.VxeConvert
  rintro s t w rfl
  refine ⟨fun h => ?_, fun h => vxeRow_vreg (f := opNlu t) h rfl, fun h => vxeRow_vreg (f := opDer t) h rfl, fun hx => if_pos hx,
    fun hx hn => ?_, fun f a l hl => laneOf_mapLanes f a hl⟩
  · obtain ⟨m, hm, ⟨hout, hspd⟩, hplain⟩ := opCvt_done t (vxeWord s t) s
    have hd : engineDid t (cvtWritten s t (vxeWord s t)) s (putVs t (vxeWord s t) (cvtResults s t (vxeWord s t)) s) := putVs_did ..
    obtain ⟨hi, hmc⟩ : (cvtWritten s t (vxeWord s t) (vxeOf s t)).index = (vxeOf s t).index
        ∧ (cvtWritten s t (vxeWord s t) (vxeOf s t)).mc = (vxeOf s t).mc := vregsPut_keeps ..
    have hv : vxeOf m t = cvtWritten s t (vxeWord s t) (vxeOf s t) := (vxeOf_outDid hout).trans (vxeOf_engineDid hd)
    refine ⟨_, vxeRow_done (f := opCvt t) h hm (by rw [hv, hi]) (by rw [hv, hmc]), by rw [vxeOf_modVxe_self, hv], ?_, fun h2 => ?_⟩
    · exact hspd.trans (congrArg State.spd hd.1.1 :)
    · rw [hplain h2]
      exact engineDid_trans hd (engineDid_modVxe t stepped _)
  · rw [cvtResults, hx, hn]
    rfl

/-! ### Accumulators, softmax and top-k (R218–R227) -/

section

variable {t w : Nat} {s : State}

/-- The counters of rows of class k: empty ones and those with a NaN (R222). -/
def rowCounted (t k : Nat) (s : State) : State :=
  if k = 1 then regCount (aTile t 4 0x38) 1 s else if k = 3 then regCount (aTile t 4 0x40) 1 s else s

theorem rowCounted_regs (t k : Nat) (s : State) :
    (∀ a, a ≠ aTile t 4 0x38 → a ≠ aTile t 4 0x40 → regRaw (rowCounted t k s) a = regRaw s a)
      ∧ regRaw (rowCounted t k s) (aTile t 4 0x38) = (if k = 1 then satAdd 64 (regRaw s (aTile t 4 0x38)) 1 else regRaw s (aTile t 4 0x38))
      ∧ regRaw (rowCounted t k s) (aTile t 4 0x40) = (if k = 3 then satAdd 64 (regRaw s (aTile t 4 0x40)) 1 else regRaw s (aTile t 4 0x40)) := by
  have hne : aTile t 4 0x38 ≠ aTile t 4 0x40 := by
    unfold aTile
    omega
  unfold rowCounted
  by_cases h1 : k = 1
  · subst h1
    simp only [if_true, show ¬ (1 : Nat) = 3 by decide, if_false]
    exact ⟨fun a ha _ => regRaw_regPut_ne _ _ _ ha, regRaw_regCount_self .., regRaw_regPut_ne _ _ _ hne.symm⟩
  · by_cases h3 : k = 3
    · subst h3
      simp only [h1, if_true, if_false]
      exact ⟨fun a _ ha => regRaw_regPut_ne _ _ _ ha, regRaw_regPut_ne _ _ _ hne, regRaw_regCount_self ..⟩
    · simp only [h1, h3, if_false, implies_true, and_self]

theorem rowCounted_keeps (t k : Nat) (s : State) : vxeOf (rowCounted t k s) t = vxeOf s t ∧ (rowCounted t k s).spd = s.spd := by
  unfold rowCounted
  split
  · exact ⟨rfl, rfl⟩
  · split <;> exact ⟨rfl, rfl⟩

/-- RGET of the class writes it, counts the row, and beside that at most reports it. -/
theorem opRget_class (hf : vFn w = 1) {k : Nat} (hk : raccClass (raccOf s t (vRa w)) = k) :
    ∃ m, opRget t w s = .done m ∧ outDid t (rowCounted t k (putV t w (splat k) s)) m ∧ m.spd = (rowCounted t k (putV t w (splat k) s)).spd := by
  subst hk
  simp only [opRget, hf, if_true]
  refine ⟨_, rfl, ?_⟩
  split
  · exact ⟨outDid_contourEvent .., (counted_contourEvent ..).2⟩
  · exact ⟨outDid_refl t _, rfl⟩

/-- RGET of the value, as it is or scaled. -/
theorem opRget_value (hf : vFn w ≠ 1) : opRget t w s = .done (putV t w (splat (toF32
    (if vFn w = 2 then nmul (raccValue (raccOf s t (vRa w))) (f32 (src2 s t w % 2 ^ 32)) else raccValue (raccOf s t (vRa w))))) s) := by
  simp only [opRget, if_neg hf]

end

/-- Settles O14: accumulators, one destination and, for TOPK, two; RGET of a class also counts its row. -/
theorem vxeReduceSoftmax : Obligations.VxeReduceSoftmax := by
  unfold Obligations.VxeReduceSoftmax
  refine ⟨fun s t => ⟨fun h => ?_, fun r h hr => ?_, fun h hf => ?_, fun k h hf hk => ?_, fun h hf => ?_⟩,
    fun s t => ⟨fun h => ?_, fun h => ?_, fun h h0 h3 => ?_, fun h => ?_⟩⟩
  · exact vxeRow_racc (f := opRclr t) h rfl
  · exact vxeRow_racc (f := opRacc t) h (by rw [opRacc, hr])
  · exact vxeRow_vreg (f := opRget t) h ((opRget_value (by omega)).trans (by rw [if_neg (by omega)]; rfl))
  · obtain ⟨m, hm, hout, hsame⟩ := opRget_class hf hk
    obtain ⟨hregs, hempty, hnan⟩ := rowCounted_regs t k (putV t (vxeWord s t) (splat k) s)
    obtain ⟨hvxe, hspd⟩ := rowCounted_keeps t k (putV t (vxeWord s t) (splat k) s)
    have hv : vxeOf m t = withVreg (vVd (vxeWord s t)) (mergeLanes (vreg s t (vVd (vxeWord s t))) (splat k) (vEn s t (vxeWord s t))) (vxeOf s t) :=
      ((vxeOf_outDid hout).trans hvxe).trans (vxeOf_engineDid (engineDid_setVreg ..))
    have hreg : ∀ a, regRaw (modVxe t stepped m) a = regRaw (rowCounted t k (putV t (vxeWord s t) (splat k) s)) a :=
      regRaw_eq_of_regs (n := modVxe t stepped m) hout.1.1
    refine ⟨_, vxeRow_done (f := opRget t) h hm (by rw [hv, withVreg_index]) (by rw [hv, withVreg_mc]), by rw [vxeOf_modVxe_self, hv], hsame.trans hspd,
      fun _ a ha hb => (hreg a).trans (hregs a ha hb), (hreg _).trans hempty, (hreg _).trans hnan⟩
  · exact vxeRow_vreg (f := opRget t) h ((opRget_value (by omega)).trans (by rw [if_pos hf]; rfl))
  · exact vxeRow_vreg (f := opSmxe t) h rfl
  · exact vxeRow_vreg (f := opSmxn t) h rfl
  · exact vxeRow_vreg (f := opSmxb t) h (by rw [opSmxb]; exact if_neg (by omega))
  · exact vxeRow_engine (f := opTopk t) h rfl (engineDid_trans (engineDid_setVreg ..) (engineDid_setVreg ..)) rfl rfl

end Sys2Proof.Machine
end

section
/-!
PROOFS. The vector engine (chapter 6): finished tiles, and what stops the engine.
-/

namespace Sys2Proof.Machine

/-! ### Lanes under the predicate (R205) -/

theorem laneOf_mergeLanes (old new en : Nat) {l : Nat} (hl : l < 128) :
    laneOf (mergeLanes old new en) l = if bit en l then laneOf new l else laneOf old l := by
  rw [mergeLanes, laneOf_joinRange _ hl, Nat.mod_mod]
  split <;> rfl

/-- A lane of a register's 4,096 bits. -/
theorem laneOf_ofNat (v : Nat) {l : Nat} (hl : l < 128) : laneOf (BitVec.ofNat 4096 v).toNat l = laneOf v l := by
  apply Nat.eq_of_testBit_eq
  intro i
  rw [laneOf, laneOf, Nat.testBit_mod_two_pow, Nat.testBit_mod_two_pow, Nat.testBit_shiftRight, Nat.testBit_shiftRight, BitVec.testBit_toNat,
    BitVec.getLsbD_ofNat]
  by_cases hi : i < 32
  · simp only [hi, decide_true, Bool.true_and, show 32 * l + i < 4096 by omega]
  · simp only [hi, decide_false, Bool.false_and]

section

variable {t w : Nat} {s : State}

theorem withVreg_slots (d v : Nat) (x : Vxe) : (withVreg d v x).slots = x.slots := (rfl)

theorem laneOf_setVreg (d v : Nat) (s : State) {l : Nat} (hl : l < 128) : laneOf (vreg (setVreg t d v s) t d) l = laneOf v l := by
  rw [vreg, vxeOf_engineDid (engineDid_setVreg t d v s), withVreg, tgetD_tset_self, laneOf_ofNat v hl]

/-! ### Finished tiles (R210–R213) -/

theorem vxeOf_modMa (a : Nat) (f : MArray → MArray) (s : State) : vxeOf (modMa t a f s) t = vxeOf s t := (congrArg Tile.vxe (tileOf_modMa t a f s) :)

/-- An instruction that changes its engine and one array of its tile. -/
theorem vxeRow_array {op a : Nat} {f : Nat → State → VRes} {g : Vxe → Vxe} {k : MArray → MArray} (h : vxeRuns s t op) (ha : a < 2)
    (hf : f (vxeWord s t) s = .done (modVxe t g (modMa t a k s))) (hi : (g (vxeOf s t)).index = (vxeOf s t).index)
    (hm : (g (vxeOf s t)).mc = (vxeOf s t).mc) :
    ∃ n, act (tileOk t) s (vxeRow op t false f) = .next n ∧ onlyTile t s n ∧ maOf n t a = k (maOf s t a)
      ∧ maOf n t (1 - a) = maOf s t (1 - a) ∧ vxeOf n t = stepped (g (vxeOf s t)) := by
  have hd := engineDid_trans (engineDid_modVxe t g (modMa t a k s)) (engineDid_modVxe t stepped _)
  have hv : vxeOf (modVxe t g (modMa t a k s)) t = g (vxeOf s t) := by rw [vxeOf_modVxe_self, vxeOf_modMa]
  refine ⟨_, vxeRow_done h hf (by rw [hv, hi]) (by rw [hv, hm]), onlyTile_trans (onlyTile_modMa t a k s) hd.1, ?_, ?_, ?_⟩
  · rw [maOf_engineDid hd, maOf_modMa_self]
  · rw [maOf_engineDid hd, maOf_modMa_other ha]
  · rw [vxeOf_modVxe_self, hv]

/-- FTQPOP takes the first entry that its filter matches. -/
theorem opFtqpop_takes {k : Nat} {e : FtqEntry} (hs : slotOf s t (vSlot w) = none) (he : (maOf s t (fld (vFn w) 0 0)).ftq[k]? = some e)
    (hm : ftqMatch (fld (vFn w) 2 1) e = true)
    (hj : ∀ j e', j < k → (maOf s t (fld (vFn w) 0 0)).ftq[j]? = some e' → ftqMatch (fld (vFn w) 2 1) e' = false) :
    opFtqpop t w s = .done (modVxe t (fun v => { v with slots := tput v.slots (vSlot w) e.bits })
      (modMa t (fld (vFn w) 0 0) (fun m => { m with ftq := m.ftq.eraseIdx k }) s)) := by
  obtain ⟨hk, rfl⟩ := List.getElem?_eq_some_iff.1 he
  have hfind : (maOf s t (fld (vFn w) 0 0)).ftq.findIdx? (ftqMatch (fld (vFn w) 2 1)) = some k :=
    List.findIdx?_eq_some_iff_getElem.2 ⟨hk, hm, fun j hjk => by
      rw [hj j _ hjk (List.getElem?_eq_getElem (Nat.lt_trans hjk hk))]
      exact Bool.false_ne_true⟩
  simp only [opFtqpop, hs, Option.isSome_none, Bool.false_eq_true, if_false, hfind, he]

/-- FTQPOP waits where its filter matches no entry. -/
theorem opFtqpop_waits (hs : slotOf s t (vSlot w) = none)
    (hno : ∀ e ∈ (maOf s t (fld (vFn w) 0 0)).ftq, ftqMatch (fld (vFn w) 2 1) e = false) : opFtqpop t w s = .wait s := by
  have hfind : (maOf s t (fld (vFn w) 0 0)).ftq.findIdx? (ftqMatch (fld (vFn w) 2 1)) = none := List.findIdx?_eq_none_iff.2 hno
  simp only [opFtqpop, hs, Option.isSome_none, Bool.false_eq_true, if_false, hfind]

theorem opFtqpop_occupied (hs : slotOf s t (vSlot w) ≠ none) : opFtqpop t w s = .stop (vprog 3) :=
  if_pos (Option.isSome_iff_ne_none.2 hs)

/-- ACCRD writes a zero into every enabled lane that carries no targeted element, and beside its destination at most reports (R211). -/
theorem opAccrd_done {e m : Nat} (hr : slotRow s t w = some (e, m)) : ∃ v n, opAccrd false t w s = .done n
    ∧ (outDid t (putV t w v s) n ∧ n.spd = s.spd)
    ∧ (bit (vMode w) 2 = false → n = putV t w v s) ∧ ∀ l, l < 128 → slotLane e m l = none → laneOf v l = 0 := by
  simp only [opAccrd, hr, Bool.false_eq_true, if_false]
  refine ⟨_, _, rfl, report_spec .., fun h => by rw [h]; rfl, fun l hl hn => ?_⟩
  rw [List.map_map, laneOf_joinRange _ hl]
  simp only [Function.comp_apply, hn, Nat.zero_mod]

end

/-! ### Code 3 and refused microinstructions (R203, R229) -/

section

variable {t op : Nat} {s : State} {i : Instr}

/-- FTQPOP of an occupied slot, and the others of an empty one or of a row outside the pass, stop the engine with code 3. -/
theorem exec_code3
    (hi : (op, i) ∈ [(0x50, Instr.ftqpop t false), (0x51, Instr.accrd t false false), (0x52, Instr.accmsk t false), (0x53, Instr.accrel t false)])
    (h : vxeRuns s t op)
    (hs : op = 0x50 ∧ slotOf s t (vSlot (vxeWord s t)) ≠ none ∨ (op = 0x51 ∨ op = 0x52) ∧ slotRow s t (vxeWord s t) = none
      ∨ op = 0x53 ∧ slotOf s t (vSlot (vxeWord s t)) = none) : exec i s = .next (vxeStop t (vprog 3) s) := by
  simp only [List.mem_cons, Prod.mk.injEq, List.not_mem_nil, or_false] at hi
  rcases hs with ⟨rfl, hs⟩ | ⟨rfl | rfl, hs⟩ | ⟨rfl, hs⟩
  · obtain rfl : i = .ftqpop t false := by simpa using hi
    exact vxeRow_stop (f := opFtqpop t) h (opFtqpop_occupied hs) rfl
  · obtain rfl : i = .accrd t false false := by simpa using hi
    exact vxeRow_stop (f := opAccrd false t) h (by rw [opAccrd, hs]) rfl
  · obtain rfl : i = .accmsk t false := by simpa using hi
    exact vxeRow_stop (f := opAccmsk t) h (by rw [opAccmsk, hs]) rfl
  · obtain rfl : i = .accrel t false := by simpa using hi
    exact vxeRow_stop (f := opAccrel t) h (by rw [opAccrel, hs]) rfl

/-- The rows of some microinstructions, with an error of the store or without. -/
theorem exec_vectorRow {ue : Bool} (s : State)
    (hi : (op, i) ∈ [(0x00, Instr.nop t ue), (0x08, Instr.vld t ue), (0x10, Instr.vadd t ue), (0x28, Instr.cvt t ue), (0x39, Instr.racc t ue),
      (0x50, Instr.ftqpop t ue)]) : ∃ f, exec i s = act (tileOk t) s (vxeRow op t ue f) := by
  simp only [List.mem_cons, Prod.mk.injEq, List.not_mem_nil, or_false] at hi
  rcases hi with ⟨rfl, rfl⟩ | ⟨rfl, rfl⟩ | ⟨rfl, rfl⟩ | ⟨rfl, rfl⟩ | ⟨rfl, rfl⟩ | ⟨rfl, rfl⟩ <;> exact ⟨_, rfl⟩

end

theorem fld_bit_lt (v : Nat) : fld v 0 0 < 2 := fld_lt v 0 0

/-- Settles O15: each action on a finished tile is one change of its engine or array; every stop is `vxeStop`. -/
theorem vxeFinishedTiles : Obligations.VxeFinishedTiles := by
  unfold Obligations.VxeFinishedTiles
  refine ⟨fun s t => ⟨?_, fun e m h hr => ?_, fun e m h hr => ?_, fun e h hs => ?_, ?_, fun op i hi h hs => ?_, fun a ha hl ht => ?_⟩,
    fun s t op ue i hi hl ht hr hbad => ?_⟩
  · rintro a k e - h rfl hs he hm hj
    exact vxeRow_array (f := opFtqpop t) h (fld_bit_lt _) (opFtqpop_takes hs he hm hj) rfl rfl
  · exact vxeRow_mreg (f := opAccmsk t) h (by rw [opAccmsk, hr]; rfl)
  · obtain ⟨v, n, hn, ⟨hout, hspd⟩, hplain, hzero⟩ := opAccrd_done hr
    have hd := engineDid_setVreg t (vVd (vxeWord s t)) (mergeLanes (vreg s t (vVd (vxeWord s t))) v (vEn s t (vxeWord s t))) s
    have hv := (vxeOf_outDid hout).trans (vxeOf_engineDid hd)
    have hvreg : ∀ d, vreg (modVxe t stepped n) t d = vreg (putV t (vxeWord s t) v s) t d := fun d => by
      rw [vreg, vreg, vxeOf_modVxe_self, vxeOf_outDid hout]
      rfl
    have hma : ∀ a, maOf (modVxe t stepped n) t a = maOf s t a := fun a =>
      (maOf_engineDid (engineDid_modVxe t stepped n) a).trans ((maOf_outDid hout a).trans (maOf_engineDid hd a))
    refine ⟨_, vxeRow_done (f := opAccrd false t) h hn (by rw [hv, withVreg_index]) (by rw [hv, withVreg_mc]), fun h2 => ?_, hspd,
      ?_, ?_, hma 0, hma 1, fun d hne => ?_, fun l hl hen hno => ?_⟩
    · rw [hplain h2]
      rfl
    · rw [vxeOf_modVxe_self, stepped, hv, withVreg_index]
    · rw [vxeOf_modVxe_self, stepped, hv, withVreg_slots]
    · exact (hvreg d).trans (vreg_setVreg_ne _ s hne)
    · rw [hvreg, putV, laneOf_setVreg _ _ s hl, laneOf_mergeLanes _ _ _ hl, if_pos hen, hzero l hl hno]
  · exact vxeRow_array (f := opAccrel t) h (fld_bit_lt _) (by rw [opAccrel, hs]) rfl rfl
  · rintro a - h rfl hs hno
    have hd := engineDid_modVxe t (fun v => { v with waiting := true }) s
    exact ⟨_, vxeRow_wait (f := opFtqpop t) h (opFtqpop_waits hs hno), hd⟩
  · obtain ⟨hv, hreg, hma, htiles, hregs, hspd, hhbm⟩ := vxeStop_stopped (t := t) (s := s) (e := vprog 3) (by decide)
    exact ⟨_, exec_code3 hi h hs, hv, hma 0, hma 1, hreg, htiles, hregs, hspd, hhbm⟩
  · exact ⟨_, act_live hl (by rw [tileOk_of ht, decide_eq_true ha]; rfl), onlyTile_modMa .., vxeOf_modMa .., maOf_modMa_self .., maOf_modMa_other ha ..⟩
  · obtain ⟨f, hf⟩ := exec_vectorRow s hi
    obtain ⟨hv, hreg, -, hrest⟩ := vxeStop_stopped (t := t) (s := s) (e := if ue then ⟨5, 3, 3, none⟩ else vprog 1) (by cases ue <;> decide)
    refine ⟨_, hf.trans (vxeRow_refused hl ht hr hbad), hv, hreg.trans ?_, hrest⟩
    cases ue <;> rfl

end Sys2Proof.Machine
end

section
/-!
PROOFS. The vector engine (chapter 6): loads, and stores of lanes by a mask.
-/

namespace Sys2Proof.Machine

/-! ### Loads (R204, R207, R286) -/

section

variable {t w a n op : Nat} {s : State}

theorem vxeOf_portTake (p o k : Nat) : vxeOf (portTake t p o k s) t = vxeOf s t := by rw [vxeOf, tileOf_portTake_self, vxeOf]

/-- A load that takes what its port was granted and then writes its engine. -/
theorem vxeRow_took {f : Nat → State → VRes} {g : Vxe → Vxe} (h : vxeRuns s t op)
    (hf : f (vxeWord s t) s = .done (modVxe t g (portTake t portVec a n s))) (hi : (g (vxeOf s t)).index = (vxeOf s t).index)
    (hm : (g (vxeOf s t)).mc = (vxeOf s t).mc) : ∃ m, act (tileOk t) s (vxeRow op t false f) = .next m ∧ vxeTook t a n g s m := by
  have hd := engineDid_trans (engineDid_modVxe t g (portTake t portVec a n s)) (engineDid_modVxe t stepped _)
  have hv : vxeOf (modVxe t g (portTake t portVec a n s)) t = g (vxeOf s t) := by rw [vxeOf_modVxe_self, vxeOf_portTake]
  refine ⟨_, vxeRow_done h hf (by rw [hv, hi]) (by rw [hv, hm]), onlyTile_trans (onlyTile_portTake ..) hd.1, ?_⟩
  rw [hd.2, vxeOf_portTake, tileOf_portTake_self]

theorem vEn_portTake (p o k : Nat) : vEn (portTake t p o k s) t w = vEn s t w := by simp only [vEn, mreg, vxeOf_portTake]

theorem putV_portTake (p o k v : Nat) : putV t w v (portTake t p o k s)
    = modVxe t (withVreg (vVd w) (mergeLanes (vreg s t (vVd w)) v (vEn s t w))) (portTake t p o k s) := by
  simp only [putV, vEn_portTake, vreg, vxeOf_portTake]
  rfl

theorem putM_portTake (p o k v : Nat) : putM t w v (portTake t p o k s)
    = modVxe t (withMreg (fld w 10 8) (mergeMask (mreg s t (fld w 10 8)) v (vEn s t w))) (portTake t p o k s) := by
  simp only [putM, vEn_portTake, mreg, vxeOf_portTake]
  rfl

theorem vLoad_ok {x : Int} (hx : x = a) (hb : a + n ≤ spdSize) (hu : firstUe s t [(a, n)] = none) :
    vLoad t n x s = .ok (ofBytes (spdRead (portView t portVec s) t a n)) := by
  subst hx
  simp only [vLoad, if_pos (show 0 ≤ (a : Int) ∧ (a : Int) + n ≤ spdSize by omega), Int.toNat_natCast, hu]

end

/-! ### Runs of kept bytes (R205, R274) -/

section

variable (keep : Nat → Bool)

/-- The runs of kept bytes write what the kept bytes write. -/
theorem memWrites_byteRuns_cons (b a : Nat) (y : Byte) (d : List Byte) (m : Tab Byte) :
    memWrites m (rowAt b 1 (byteRuns keep a (y :: d)))
      = memWrites (if keep a then memWrite m (b + a) [y] else m) (rowAt b 1 (byteRuns keep (a + 1) d)) := by
  rw [byteRuns]
  by_cases ha : keep a = true
  · rw [if_pos ha, if_pos ha]
    cases byteRuns keep (a + 1) d with
    | nil => rw [rowAt_cons, memWrites_cons, Nat.mul_one]
    | cons q k =>
      obtain ⟨x, e⟩ := q
      simp only
      split
      · next hx => simp only [hx, rowAt_cons, memWrites_cons, Nat.mul_one, memWrite, Nat.add_assoc]
      · simp only [rowAt_cons, memWrites_cons, Nat.mul_one]
  · rw [if_neg ha, if_neg ha]

/-- A byte after the kept bytes of d are written from b + a on. -/
theorem memByte_byteRuns (b a : Nat) (d : List Byte) (m : Tab Byte) (j : Nat) :
    memByte (memWrites m (rowAt b 1 (byteRuns keep a d))) j
      = if b + a ≤ j ∧ j < b + a + d.length ∧ keep (j - b) = true then d.getD (j - b - a) 0 else memByte m j := by
  induction d generalizing a m with
  | nil => rw [if_neg (by rw [List.length_nil]; omega)]; rfl
  | cons y d ih =>
    rw [memWrites_byteRuns_cons, ih, List.length_cons]
    by_cases hj : j = b + a
    · subst hj
      rw [if_neg (by omega), Nat.add_sub_cancel_left, Nat.sub_self]
      by_cases ha : keep a = true
      · rw [if_pos ha, if_pos ⟨Nat.le_refl _, by omega, ha⟩]
        exact memByte_memWrite_in (m := m) [y] (b + a) 0 Nat.one_pos
      · rw [if_neg ha, if_neg fun h => ha h.2.2]
    · have hm : memByte (if keep a then memWrite m (b + a) [y] else m) j = memByte m j := by
        split
        · exact memByte_memWrite_out [y] _ _ (by rw [List.length_singleton]; omega)
        · rfl
      rw [hm]
      by_cases hin : b + a ≤ j ∧ j < b + a + (d.length + 1) ∧ keep (j - b) = true
      · obtain ⟨h1, h2, h3⟩ := hin
        rw [if_pos ⟨by omega, by omega, h3⟩, if_pos ⟨h1, h2, h3⟩, show j - b - a = j - b - (a + 1) + 1 by omega, List.getD_cons_succ]
      · rw [if_neg fun h => hin ⟨by omega, by omega, h.2.2⟩, if_neg hin]

/-- Every byte of a run is kept, and one of d's. -/
theorem byteRuns_kept (a : Nat) (d : List Byte) {r : Nat × List Byte} (hr : r ∈ byteRuns keep a d) {x : Nat} (h1 : r.1 ≤ x)
    (h2 : x < r.1 + r.2.length) : a ≤ x ∧ x < a + d.length ∧ keep x = true := by
  induction d generalizing a r with
  | nil => cases hr
  | cons y d ih =>
    have hrest : ∀ q ∈ byteRuns keep (a + 1) d, q.1 ≤ x → x < q.1 + q.2.length → a ≤ x ∧ x < a + (y :: d).length ∧ keep x = true :=
      fun q hq hq1 hq2 => by
        obtain ⟨k1, k2, k3⟩ := ih (a + 1) hq hq1 hq2
        exact ⟨by omega, by rw [List.length_cons]; omega, k3⟩
    rw [byteRuns] at hr
    by_cases ha : keep a = true
    · have hself : x = a → a ≤ x ∧ x < a + (y :: d).length ∧ keep x = true := fun he =>
        ⟨by omega, by rw [List.length_cons]; omega, he ▸ ha⟩
      rw [if_pos ha] at hr
      cases hl : byteRuns keep (a + 1) d with
      | nil =>
        rw [hl] at hr
        obtain rfl := List.mem_singleton.1 hr
        exact hself (by simp only [List.length_singleton] at h2; omega)
      | cons q k =>
        obtain ⟨z, e⟩ := q
        simp only [hl] at hr hrest
        by_cases hz : z = a + 1
        · rw [if_pos hz] at hr
          rcases List.mem_cons.1 hr with rfl | hk
          · by_cases he : x = a
            · exact hself he
            · exact hrest _ List.mem_cons_self (by simp only at h1 ⊢; omega) (by simp only [List.length_cons] at h2 ⊢; omega)
          · exact hrest r (List.mem_cons_of_mem _ hk) h1 h2
        · rw [if_neg hz] at hr
          rcases List.mem_cons.1 hr with rfl | hk
          · exact hself (by simp only [List.length_singleton] at h1 h2; omega)
          · exact hrest r hk h1 h2
    · rw [if_neg ha] at hr
      exact hrest r hr h1 h2

end

/-! ### Version slots, byte by byte (R274) -/

theorem overlap_iff (a n b m : Nat) : overlap a n b m = true ↔ ∃ x, (a ≤ x ∧ x < a + n) ∧ b ≤ x ∧ x < b + m := by
  rw [overlap, decide_eq_true_eq]
  exact ⟨fun h => ⟨max a b, by omega⟩, fun ⟨x, h⟩ => by omega⟩

theorem vsWritable_iff (s : State) (t o n : Nat) : vsWritable s t o n = true ↔ ∀ p ∈ vsAll, vsEn s t p.1 = true → vbOpen (vbufOf s t p.1 p.2) = false →
    overlap o n (cfgBase (vsCfg s t p.1) p.2) (cfgLen (vsCfg s t p.1)) = false := by
  simp only [vsWritable, List.all_eq_true, Bool.not_eq_true', Bool.and_eq_false_imp, Bool.and_eq_true, and_imp, Bool.not_eq_false']
  refine forall₂_congr fun p _ => ?_
  cases overlap o n (cfgBase (vsCfg s t p.1) p.2) (cfgLen (vsCfg s t p.1)) <;> cases vbOpen (vbufOf s t p.1 p.2) <;> simp

/-- A write is allowed where each of its bytes is. -/
theorem vsWritable_iff_bytes (s : State) (t o n : Nat) :
    vsWritable s t o n = true ↔ ∀ x, o ≤ x → x < o + n → vsWritable s t x 1 = true := by
  simp only [vsWritable_iff]
  constructor
  · intro h x h1 h2 p hp he hv
    refine Bool.eq_false_iff.2 fun hx => Bool.eq_false_iff.1 (h p hp he hv) ?_
    obtain ⟨y, hy, hb⟩ := (overlap_iff ..).1 hx
    exact (overlap_iff ..).2 ⟨y, by omega, hb⟩
  · intro h p hp he hv
    refine Bool.eq_false_iff.2 fun hx => ?_
    obtain ⟨y, ⟨hy1, hy2⟩, hb⟩ := (overlap_iff ..).1 hx
    exact Bool.eq_false_iff.1 (h y hy1 hy2 p hp he hv) ((overlap_iff ..).2 ⟨y, by omega, hb⟩)

/-! ### Stores of lanes (R205, R207) -/

/-- n has the bytes of v in the 4-byte lanes of mask en among the n bytes at offset a of scratchpad t, and every other byte as s. -/
def lanesStored (t a k v en : Nat) (s n : State) : Prop :=
  (∀ i, i < k → memByte n.spd (t * spdSize + a + i) = if bit en (i / 4) then BitVec.ofNat 8 (v >>> (8 * i)) else memByte s.spd (t * spdSize + a + i))
    ∧ ∀ j, (j < t * spdSize + a ∨ t * spdSize + a + k ≤ j) → memByte n.spd j = memByte s.spd j

section

variable {t a k v en op : Nat} {s : State} {x : Int} (hx : x = a) (hb : a + k ≤ spdSize) (hg : (tileOf s t).ports.got = [])
  (hw : ∀ i, i < k → bit en (i / 4) = true → vsWritable s t (a + i) 1 = true)

include hx hb hg hw

theorem vStore_done : ∃ m, vStore t x k v en s = .done m ∧ outDid t s m ∧ lanesStored t a k v en s m := by
  subst hx
  have hall : (byteRuns (fun y => bit en ((y - a) / 4)) a (toBytes k v)).all (fun r => portMayWrite s t portVec r.1 r.2) = true := by
    refine List.all_eq_true.2 fun r hr => ?_
    rw [portMayWrite_eq_vsWritable hg, vsWritable_iff_bytes]
    intro y h1 h2
    obtain ⟨k1, k2, k3⟩ := byteRuns_kept _ a _ hr h1 h2
    rw [toBytes_length] at k2
    have hy := hw (y - a) (by omega) k3
    rwa [Nat.add_sub_cancel' k1] at hy
  have hstore : vStore t (a : Int) k v en s = .done ((byteRuns (fun y => bit en ((y - a) / 4)) a (toBytes k v)).foldl
      (fun s r => portStore t portVec r.1 r.2 s) s) := by
    simp only [vStore, if_pos (show 0 ≤ (a : Int) ∧ (a : Int) + k ≤ spdSize by omega), Int.toNat_natCast, hall, if_true]
  obtain ⟨hout, hspd⟩ := portStore_runs portVec 0 1 (byteRuns (fun y => bit en ((y - a) / 4)) a (toBytes k v)) hg
  simp only [Nat.zero_add, Nat.mul_one, Nat.add_zero] at hout hspd
  refine ⟨_, hstore, hout, fun i hi => ?_, fun j hj => ?_⟩
  · have hin : (t * spdSize + a ≤ t * spdSize + a + i ∧ t * spdSize + a + i < t * spdSize + a + (toBytes k v).length
        ∧ bit en ((t * spdSize + a + i - t * spdSize - a) / 4) = true) ↔ bit en (i / 4) = true := by
      rw [toBytes_length, show t * spdSize + a + i - t * spdSize - a = i by omega]
      exact ⟨fun h => h.2.2, fun h => ⟨by omega, by omega, h⟩⟩
    rw [hspd, memByte_byteRuns, if_congr hin rfl rfl, show t * spdSize + a + i - t * spdSize - a = i by omega,
      List.getD_eq_getElem _ _ (by rw [toBytes_length]; exact hi), toBytes_getElem]
  · rw [hspd, memByte_byteRuns, if_neg fun h => by rw [toBytes_length] at h; omega]

/-- A store leaves its engine past the instruction and otherwise as it was. -/
theorem vxeRow_store {f : Nat → State → VRes} (h : vxeRuns s t op) (hf : f (vxeWord s t) s = vStore t x k v en s) :
    ∃ n, act (tileOk t) s (vxeRow op t false f) = .next n ∧ vxeOf n t = stepped (vxeOf s t) ∧ lanesStored t a k v en s n := by
  obtain ⟨m, hm, hout, hst⟩ := vStore_done (v := v) hx hb hg hw
  have hv : vxeOf m t = vxeOf s t := vxeOf_outDid hout
  exact ⟨_, vxeRow_done h (hf.trans hm) (by rw [hv]) (by rw [hv]), by rw [vxeOf_modVxe_self, hv], hst⟩

end

theorem bit_allLanes {l : Nat} (hl : l < 128) : bit allLanes l = true := by
  rw [bit, allLanes, Nat.testBit_two_pow_sub_one, decide_eq_true hl]

/-- Settles O11: a load is the write of its one destination; a store writes the runs of its mask's lanes, each of which the version slots allow
as they allow its bytes. -/
theorem vxeMemory : Obligations.VxeMemory := by
  unfold Obligations.VxeMemory
  refine ⟨fun s t a n hg => ⟨portView_eq_self hg, if_pos hg⟩, fun s t a => ⟨fun h hx hb hu => ?_, fun h hx hb hu => ?_, fun h hx hb hu => ?_⟩,
    fun s t a => ⟨fun h hx hb hg hw => ?_, fun h hx hb hg hw => ?_⟩⟩
  · exact vxeRow_took (f := opVld t) h (by rw [opVld, vLoad_ok hx hb hu, ← putV_portTake, hx]; rfl) (withVreg_index ..) (withVreg_mc ..)
  · exact vxeRow_took (f := opVldb t) h (by rw [opVldb, vLoad_ok hx hb hu, ← putV_portTake, hx]; rfl) (withVreg_index ..) (withVreg_mc ..)
  · exact vxeRow_took (f := opMld t) h (by rw [opMld, vLoad_ok hx hb hu, ← putM_portTake, hx]; rfl) (withMreg_index ..) (withMreg_mc ..)
  · obtain ⟨n, hn, hv, hin, hout⟩ := vxeRow_store (f := opVst t) (v := src1 s t (vxeWord s t)) (en := vEn s t (vxeWord s t)) hx hb hg
      (fun i hi hen => (vsWritable_iff_bytes ..).1 (hw (i / 4) (by omega) hen) _ (by omega) (by omega)) h rfl
    refine ⟨n, hn, hv, fun l i hl hi => ?_, hout⟩
    have hbyte := hin (4 * l + i) (by omega)
    rwa [show (4 * l + i) / 4 = l by omega, show 8 * (4 * l + i) = 32 * l + 8 * i by omega, ← Nat.add_assoc] at hbyte
  · obtain ⟨n, hn, hv, hin, hout⟩ := vxeRow_store (f := opMst t) (v := mreg s t (fld (vxeWord s t) 15 13)) (en := allLanes) hx hb hg
      (fun i hi _ => (vsWritable_iff_bytes ..).1 (hw (i / 4) (by omega)) _ (by omega) (by omega)) h rfl
    refine ⟨n, hn, hv, fun i hi => ?_, hout⟩
    rw [hin i hi, if_pos (bit_allLanes (by omega))]

end Sys2Proof.Machine
end
